-- ==== Sys2Proof/Word.lean ====
section
/-! DEFINITION. The word types of the VJ-9 (00_scope R1 to R3) and the shape of sparse data: a list of
(key, value) pairs with keys strictly rising. The operations on such lists stand in Machine/Cells.lean. -/

namespace Sys2Proof

/-- A scalar register or one lane of a vector register (R101, R120). -/
abbrev Word := BitVec 32

/-- The smallest addressable unit of memory and scratchpad (R2). -/
abbrev Byte := BitVec 8

/-- A device virtual address (R243) or any 64-bit register pair (R102). -/
abbrev Addr := BitVec 64

/-- A set of lanes of one group: bit i is lane i, 0 to 95 (R71, R103). -/
abbrev Lanes := BitVec 96

/-- A six-bit register field of an instruction head (R39). -/
abbrev Reg := BitVec 6

/-- A finite map from numbers: keys strictly rising. -/
abbrev AMap (β : Type) := List (Nat × β)

/-- A finite map whose unlisted keys read as zero; no listed value is zero. -/
abbrev Cells (w : Nat) := List (Nat × BitVec w)

end Sys2Proof
end

