-- ==== Sys2Proof/Config.lean ====
section
/-! DEFINITION. What the manual leaves to the implementation or leaves open: constants without a body, so that
no proof can see their values. Each is named in a log entry of notes/assumptions. -/

namespace Sys2Proof

/-- A fresh unpredictable byte: the n-th one the machine draws (R413, log 4). -/
opaque Config.freeByte : Nat → BitVec 8

/-- A fresh unpredictable 32-bit value: the n-th one the machine draws (log 4). -/
opaque Config.freeWord : Nat → BitVec 32

/-- The special functions of R175 where R176 gives no exact case: minor, type (0 .f32, 1 .f16), element.
A fixed function of its input on every core, so it takes no counter (log 5). -/
opaque Config.sfu : Nat → Nat → BitVec 32 → BitVec 32

/-- The HBM bank and row of a physical address, which the spec does not give (log 59). -/
opaque Config.rowOf : Nat → Nat × Nat

/-- The signature the management core makes with its alias key over a challenge nonce (R541, log 12). -/
opaque Config.sign : BitVec 384 → BitVec 256 → BitVec 768

/-- The signature of a core map record over the bytes before it (R14, log 12). -/
opaque Config.signMap : List (BitVec 8) → BitVec 768

/-- The device secret of the physically unclonable function, and the private key of the identity's key pair (R535, log 12). -/
opaque Config.identitySecret : BitVec 384
opaque Config.identityKey : BitVec 384

/-- The certificate of the identity's public key, made at manufacture (R535, log 12). -/
opaque Config.identityCert : BitVec 768 → List (BitVec 8)

/-- The alias key that the identity secret and MEAS0 give, the public key of a private one on NIST P-384, and the signature by the
identity key of a digest (R541, log 12). -/
opaque Config.aliasKey : BitVec 384 → BitVec 384 → BitVec 384
opaque Config.nistPublic : BitVec 384 → BitVec 768
opaque Config.identitySign : BitVec 384 → BitVec 768

end Sys2Proof
end

