-- ==== Sys2Proof/Syntax.lean ====
section
/-! DEFINITION. The instructions and events of the VJ-9: one constructor per row of spec/opcode_table.json.
An instruction's operands are the fields of its head (R39, R40) and its tails; its mnemonic fixes LEN, MAJ and,
unless `k` names it, MIN. An event's operands name what it acts on. -/

namespace Sys2Proof

/-- The operand fields of a 32-bit head of format A, I, M or X (R39, R40). -/
structure Head where
  b  : Reg
  a  : Reg
  d  : Reg
  ty : BitVec 2
  sc : BitVec 2
  deriving DecidableEq, Repr

/-- The operand fields of a head of format J (R40). -/
structure JHead where
  off : BitVec 14
  s   : Reg
  sc  : BitVec 2
  deriving DecidableEq, Repr

/-- The operand fields of a head of format L (R40): IMMHI:IMMLO is `imm`. -/
structure LHead where
  imm : BitVec 17
  d   : Reg
  sc  : BitVec 2
  deriving DecidableEq, Repr

/-- The operand fields of a 16-bit form (R38). -/
structure Short where
  b : BitVec 5
  d : Reg
  deriving DecidableEq, Repr

/-- What the ranks of a collective sent (R304, R313): their bytes by rank, the places of the poisoned ones, and whether the ranks differ
in an operand that must agree. -/
structure Arrival where
  bytes  : List Byte
  bad    : List Nat := []
  differ : Bool := false
  deriving DecidableEq, Repr

/-- An image in the flash (R536): its version, its public key with the certificate of that key, which is the signature of the key by
the root key that comes with it, the bytes of its header and of the image itself, and the signature of their hash. -/
structure Image where
  version : Nat
  key     : BitVec 768
  root    : BitVec 768
  keySig  : BitVec 768
  bytes   : List Byte
  sig     : BitVec 768
  deriving DecidableEq, Repr

/-- A copy of the core map record in the configuration flash (R11, R14): the bytes that the part was made with, which stand
until the part rewrites that copy, and whether the signature of the copy verifies. -/
structure MapCopy where
  bytes    : List Byte
  verifies : Bool
  deriving DecidableEq, Repr

/-- What the partition record gives a partition (R534): slots, logical clusters, HBM and second-tier shares in bytes, and
system-image slot. -/
structure PartRecord where
  slots    : List Nat
  clusters : List Nat
  hbmBase  : Nat
  hbmSize  : Nat
  tierBase : Nat
  tierSize : Nat
  /-- its system-image slot -/
  system   : Nat
  deriving DecidableEq, Repr

/-- A valid copy of the partition record, and of the link record: own device number and (partition, device, peer
partition) for each valid reach entry (R532, R534). -/
structure PartsRecord where
  digest : BitVec 384
  parts  : List PartRecord
  deriving DecidableEq, Repr

structure LinkRecord where
  digest : BitVec 384
  device : Nat
  reach  : List (Nat × Nat × Nat)
  deriving DecidableEq, Repr

/-- What a start of the part finds (R538): the records' copies that verify, the images in slots A and B, and what training
and testing give. -/
structure Flash where
  shuax    : Image × Image
  maps     : MapCopy × MapCopy
  parts    : Option PartsRecord × Option PartsRecord
  link     : Option LinkRecord × Option LinkRecord
  /-- HBM stacks that pass, by physical number -/
  passing  : BitVec 12
  firmware : Image × Image
  hostUp   : Bool
  /-- capacity in bytes behind each second-tier port, 0 for no device; none where enumeration fails -/
  tier     : Option (List Nat)
  /-- Milca Link ports that train, and the devices a path reaches, with the ports that reach each; none where training fails -/
  milca    : Option (BitVec 12 × List (Nat × BitVec 12))
  /-- digest of the link record as trained, and of the debug state at start -/
  trained  : BitVec 384
  debug    : BitVec 384
  hyper    : Image × Image
  /-- system images by slot of the partition record -/
  systems  : List (Image × Image)
  /-- the minimum version of each kind of image that is accepted: Shuax, firmware, hypervisor, system (R536) -/
  minimum  : List Nat
  deriving DecidableEq, Repr

/-- What a host access goes to (R525, R527): PF0, the function of a partition, or, where the host accesses its own memory, nothing of
the device. -/
inductive HostFn where
  | pf0
  | part (p : Nat)
  | memory
  deriving DecidableEq, Repr

/-- What a request of a peer does: a read, a write, or an ATOM by its minor, signed or not, with its operand and comparand (R267,
R532). -/
inductive PeerOp where
  | read
  | write
  | atom (k : Nat) (signed : Bool) (v c : BitVec 64)
  deriving DecidableEq, Repr

/-- An error in a code word of a vector register (R132, R133): `err` is the set of the word's bytes in error, `chance` further
lanes whose erasure happens to yield a code word. -/
structure WordError where
  err    : BitVec 136
  chance : Lanes
  deriving DecidableEq, Repr

/-- The steps of the part (spec/opcode_table.json). `f` holds head fields, `k` the minor of a row that covers
several, `t` and `u` the tails. A stream operand is 0 to 3 for a split, 4 for the address slice. -/
inductive Instr where
  /-- VMOV_16 (R38): 16-bit form OP 0: copies vector register vB into vD in the active lanes. -/
  | vmov_16 (f : Short)
  /-- VADD_16 (R38): 16-bit form OP 1: VADD.s32 vD, vD, vB. -/
  | vadd_16 (f : Short)
  /-- VSUB_16 (R38): 16-bit form OP 2: VSUB.s32 vD, vD, vB. -/
  | vsub_16 (f : Short)
  /-- VMUL_16 (R38): 16-bit form OP 3: VMUL.s32 vD, vD, vB. -/
  | vmul_16 (f : Short)
  /-- VMIN_16 (R38): 16-bit form OP 4: VMIN.s32 vD, vD, vB. -/
  | vmin_16 (f : Short)
  /-- VMAX_16 (R38): 16-bit form OP 5: VMAX.s32 vD, vD, vB. -/
  | vmax_16 (f : Short)
  /-- VAND_16 (R38): 16-bit form OP 6: VAND vD, vD, vB. -/
  | vand_16 (f : Short)
  /-- VOR_16 (R38): 16-bit form OP 7: VOR vD, vD, vB. -/
  | vor_16 (f : Short)
  /-- VXOR_16 (R38): 16-bit form OP 8: VXOR vD, vD, vB. -/
  | vxor_16 (f : Short)
  /-- VSHL_16 (R38): 16-bit form OP 9: VSHL vD, vD, vB. -/
  | vshl_16 (f : Short)
  /-- VSHR_16 (R38): 16-bit form OP 10: VSHR vD, vD, vB. -/
  | vshr_16 (f : Short)
  /-- VFADD_16 (R38): 16-bit form OP 11: VFADD.f32 vD, vD, vB. -/
  | vfadd_16 (f : Short)
  /-- VFSUB_16 (R38): 16-bit form OP 12: VFSUB.f32 vD, vD, vB. -/
  | vfsub_16 (f : Short)
  /-- VFMUL_16 (R38): 16-bit form OP 13: VFMUL.f32 vD, vD, vB. -/
  | vfmul_16 (f : Short)
  /-- VFMIN_16 (R38): 16-bit form OP 14: VFMIN.f32 vD, vD, vB. -/
  | vfmin_16 (f : Short)
  /-- VFMAX_16 (R38): 16-bit form OP 15: VFMAX.f32 vD, vD, vB. -/
  | vfmax_16 (f : Short)
  /-- SADD (R107): Scalar add modulo 2^w of two registers. -/
  | sadd (f : Head)
  /-- SSUB (R107): Scalar subtract modulo 2^w. -/
  | ssub (f : Head)
  /-- SMUL (R107): Scalar multiply, low w bits. -/
  | smul (f : Head)
  /-- SMULH (R107): Scalar multiply, high w bits of the exact product. -/
  | smulh (f : Head)
  /-- SAND (R107): Scalar bitwise AND. -/
  | sand (f : Head)
  /-- SOR (R107): Scalar bitwise OR. -/
  | sor (f : Head)
  /-- SXOR (R107): Scalar bitwise XOR. -/
  | sxor (f : Head)
  /-- SSHL (R107): Scalar shift left. -/
  | sshl (f : Head)
  /-- SSHR (R107): Scalar logical shift right. -/
  | sshr (f : Head)
  /-- SSRA (R107): Scalar arithmetic shift right. -/
  | ssra (f : Head)
  /-- SMIN (R107): Scalar minimum, signed or unsigned by TY. -/
  | smin (f : Head)
  /-- SMAX (R107): Scalar maximum, signed or unsigned by TY. -/
  | smax (f : Head)
  /-- SSEL (R107): Scalar select of sA or sB by whether sD is nonzero. -/
  | ssel (f : Head)
  /-- SBFX (R107): Scalar bitfield extract with position and length from sB. -/
  | sbfx (f : Head)
  /-- SBFI (R107): Scalar bitfield insert into sD. -/
  | sbfi (f : Head)
  /-- SMOV (R107): Scalar move of sA to sD. -/
  | smov (f : Head)
  /-- SADD_IMM (R107): Scalar add of a sign-extended imm6. -/
  | saddImm (f : Head)
  /-- SSUB_IMM (R107): Scalar subtract of imm6. -/
  | ssubImm (f : Head)
  /-- SMUL_IMM (R107): Scalar multiply by imm6, low bits. -/
  | smulImm (f : Head)
  /-- SMULH_IMM (R107): Scalar multiply by imm6, high bits. -/
  | smulhImm (f : Head)
  /-- SAND_IMM (R107): Scalar AND with imm6. -/
  | sandImm (f : Head)
  /-- SOR_IMM (R107): Scalar OR with imm6. -/
  | sorImm (f : Head)
  /-- SXOR_IMM (R107): Scalar XOR with imm6. -/
  | sxorImm (f : Head)
  /-- SSHL_IMM (R108): Scalar shift left by an immediate 0-31. -/
  | sshlImm (f : Head)
  /-- SCMP (R109): Scalar compare writing 1 or 0 to sD under the condition in MIN. -/
  | scmp (k : BitVec 3) (f : Head)
  /-- SPOPC (R110): Count of set bits of sA. -/
  | spopc (f : Head)
  /-- SCLZ (R110): Count of leading zeros of sA. -/
  | sclz (f : Head)
  /-- SFFS (R110): Index of the lowest set bit of sA. -/
  | sffs (f : Head)
  /-- SREV (R110): Bit reversal of sA. -/
  | srev (f : Head)
  /-- SLI (R111): Writes a sign-extended 17-bit immediate to sD. -/
  | sli (f : LHead)
  /-- SLIX (R112): Writes a 32-bit tail immediate to sD, a pair, or the high word. -/
  | slix (k : BitVec 3) (f : Head) (t : Word)
  /-- SLD_32 (R113): Scalar load of 4 bytes from device memory. -/
  | sld_32 (f : Head)
  /-- SLD_64 (R113): Scalar load of 8 bytes into a pair. -/
  | sld_64 (f : Head)
  /-- SST_32 (R113): Scalar store of 4 bytes to device memory. -/
  | sst_32 (f : Head)
  /-- SST_64 (R113): Scalar store of 8 bytes from a pair. -/
  | sst_64 (f : Head)
  /-- SLDK (R115): Reads a word of the launch's argument block. -/
  | sldk (f : Head)
  /-- BRA (R87): Unconditional branch of the whole split within the segment. -/
  | bra (f : JHead)
  /-- BRZ (R87): Branch if sS is zero. -/
  | brz (f : JHead)
  /-- BRNZ (R87): Branch if sS is nonzero. -/
  | brnz (f : JHead)
  /-- CALL (R87): Branch writing the return code address to sS. -/
  | call (f : JHead)
  /-- SDBNZ (R87): Decrement sS and branch if the result is nonzero. -/
  | sdbnz (f : JHead)
  /-- BANY (R87): Branch if some active lane has its triple bit set. -/
  | bany (f : JHead)
  /-- BALL (R87): Branch if every active lane has its triple bit set. -/
  | ball (f : JHead)
  /-- JMPR (R89): Jumps the split to the code address in sA. -/
  | jmpr (f : Head)
  /-- RET (R89): Returns the split to the code address in sA. -/
  | ret (f : Head)
  /-- JFNC (R60): Transfers the split to a code address in any segment, writing a link. -/
  | jfnc (f : Head)
  /-- EXIT (R90): Ends every member lane of the split, possibly exiting the group. -/
  | exit (f : Head)
  /-- TRAP (R92): Performs Trap(SWTRAP) with code n. -/
  | trap (f : Head)
  /-- BKPT (R92): Performs Trap(BKPT) with code n. -/
  | bkpt (f : Head)
  /-- NOPS (R62): Idles the split for n cycles. -/
  | nops (f : Head)
  /-- VBR (R93): Divergent branch of the lanes whose condition bit is set. -/
  | vbr (f : JHead)
  /-- VBRN (R93): Divergent branch of the lanes whose condition bit is clear. -/
  | vbrn (f : JHead)
  /-- VBRK (R95): Parks the selected active lanes at the innermost join token. -/
  | vbrk (f : JHead)
  /-- JTOK (R97): Pushes a join token with a join PC. -/
  | jtok (f : JHead)
  /-- JOIN (R98): Waits at the innermost token and merges splits. -/
  | join (f : JHead)
  /-- WAITE (R316): Waits until the class-c counter is at most n. -/
  | waite (f : Head)
  /-- FENCE (R274): Memory fence with release and acquire effects at a scope. -/
  | fence (f : Head)
  /-- IDEM (R424): Sets the split's restart point and frees held queue entries. -/
  | idem (f : Head)
  /-- PHINT (R423): Pre-emption hint naming live registers, queues and scratchpad ranges. -/
  | phint (f : Head) (t u : Word)
  /-- VADD (R136): Lane integer add. -/
  | vadd (f : Head)
  /-- VSUB (R136): Lane integer subtract. -/
  | vsub (f : Head)
  /-- VMUL (R136): Lane integer multiply, low bits. -/
  | vmul (f : Head)
  /-- VMULH (R136): Lane integer multiply, high bits. -/
  | vmulh (f : Head)
  /-- VMIN (R136): Lane integer minimum. -/
  | vmin (f : Head)
  /-- VMAX (R136): Lane integer maximum. -/
  | vmax (f : Head)
  /-- VABS (R136): Lane integer absolute value. -/
  | vabs (f : Head)
  /-- VMAD (R136): Lane integer multiply-add into vD. -/
  | vmad (f : Head)
  /-- VAND (R138): Lane bitwise AND. -/
  | vand (f : Head)
  /-- VOR (R138): Lane bitwise OR. -/
  | vor (f : Head)
  /-- VXOR (R138): Lane bitwise XOR. -/
  | vxor (f : Head)
  /-- VSHL (R138): Lane shift left. -/
  | vshl (f : Head)
  /-- VSHR (R138): Lane logical shift right. -/
  | vshr (f : Head)
  /-- VSRA (R138): Lane arithmetic shift right. -/
  | vsra (f : Head)
  /-- VPOPC (R138): Lane population count. -/
  | vpopc (f : Head)
  /-- VCLZ (R138): Lane count of leading zeros. -/
  | vclz (f : Head)
  /-- VADD_IMM (R136): Lane add of a replicated imm6. -/
  | vaddImm (f : Head)
  /-- VSUB_IMM (R136): Lane subtract of imm6. -/
  | vsubImm (f : Head)
  /-- VMUL_IMM (R136): Lane multiply by imm6. -/
  | vmulImm (f : Head)
  /-- VMULH_IMM (R136): Lane multiply high by imm6. -/
  | vmulhImm (f : Head)
  /-- VMIN_IMM (R136): Lane minimum with imm6. -/
  | vminImm (f : Head)
  /-- VMAX_IMM (R136): Lane maximum with imm6. -/
  | vmaxImm (f : Head)
  /-- VMAD_IMM (R136): Lane multiply by imm6 and add vD. -/
  | vmadImm (f : Head)
  /-- VAND_IMM (R138): Lane AND with imm6. -/
  | vandImm (f : Head)
  /-- VOR_IMM (R138): Lane OR with imm6. -/
  | vorImm (f : Head)
  /-- VXOR_IMM (R138): Lane XOR with imm6. -/
  | vxorImm (f : Head)
  /-- VSHL_IMM (R138): Lane shift left by an immediate. -/
  | vshlImm (f : Head)
  /-- VSHR_IMM (R138): Lane logical shift right by an immediate. -/
  | vshrImm (f : Head)
  /-- VSRA_IMM (R138): Lane arithmetic shift right by an immediate. -/
  | vsraImm (f : Head)
  /-- VFADD (R172): Lane floating add with RNE. -/
  | vfadd (f : Head)
  /-- VFSUB (R172): Lane floating subtract with RNE. -/
  | vfsub (f : Head)
  /-- VFMUL (R172): Lane floating multiply with RNE. -/
  | vfmul (f : Head)
  /-- VFMA (R172): Lane fused multiply-add into vD with one rounding. -/
  | vfma (f : Head)
  /-- VFMIN (R173): Lane floating minimum. -/
  | vfmin (f : Head)
  /-- VFMAX (R173): Lane floating maximum. -/
  | vfmax (f : Head)
  /-- VFABS (R173): Clears the sign bit of each element. -/
  | vfabs (f : Head)
  /-- VFNEG (R173): Inverts the sign bit of each element. -/
  | vfneg (f : Head)
  /-- VCMP (R174): Compares lanes into a scalar mask triple. -/
  | vcmp (k : BitVec 3) (f : Head)
  /-- VRCP (R175): Lane reciprocal. -/
  | vrcp (f : Head)
  /-- VRSQ (R175): Lane reciprocal square root. -/
  | vrsq (f : Head)
  /-- VSQRT (R175): Lane square root. -/
  | vsqrt (f : Head)
  /-- VEXP2 (R175): Lane base-2 exponential. -/
  | vexp2 (f : Head)
  /-- VLOG2 (R175): Lane base-2 logarithm. -/
  | vlog2 (f : Head)
  /-- VSIN (R175): Lane sine of 2πx. -/
  | vsin (f : Head)
  /-- VCOS (R175): Lane cosine of 2πx. -/
  | vcos (f : Head)
  /-- VTANH (R175): Lane hyperbolic tangent. -/
  | vtanh (f : Head)
  /-- VMOV (R140): Copies vA to vD in the active lanes. -/
  | vmov (f : Head)
  /-- VSEL (R140): Selects vA or keeps vD per lane by a mask triple. -/
  | vsel (f : Head)
  /-- VBCS (R140): Broadcasts scalar sA into vD. -/
  | vbcs (f : Head)
  /-- VLANE_V (R140): Writes one source lane's value into vD of every active lane. -/
  | vlaneV (f : Head)
  /-- VLANE_S (R140): Writes one source lane's value into scalar sD. -/
  | vlaneS (f : Head)
  /-- VLANE_ID (R140): Writes each lane's index into vD. -/
  | vlaneId (f : Head)
  /-- VFCLASS (R141): Classifies floating values into a one-hot class word. -/
  | vfclass (f : Head)
  /-- VCVT (R177): Converts lane values between formats with a rounding mode. -/
  | vcvt (k : BitVec 3) (f : Head)
  /-- VQBLK (R180): Quantises each beat into an MX block with scale words. -/
  | vqblk (f : Head) (t : Word)
  /-- VDQBLK (R181): Dequantises MX block elements to FP32. -/
  | vdqblk (f : Head) (t : Word)
  /-- VSHFL (R141): Lane shuffle by per-lane source index. -/
  | vshfl (f : Head)
  /-- VROT (R141): Lane rotation across the group or within each beat. -/
  | vrot (f : Head)
  /-- VBLN (R141): Butterfly exchange by XOR of lane index. -/
  | vbln (f : Head)
  /-- VRED (R143): Reduction over active lanes in ascending order. -/
  | vred (f : Head)
  /-- VSCAN (R143): Inclusive or exclusive scan over active lanes. -/
  | vscan (f : Head)
  /-- VLI (R139): Writes a sign-extended 17-bit constant to the active lanes. -/
  | vli (f : LHead)
  /-- VLIX (R139): Writes a tail constant, halves or bytes to the active lanes. -/
  | vlix (k : BitVec 3) (f : Head) (t : Word)
  /-- VLD (R263): Vector load from device memory per lane. -/
  | vld (k : BitVec 3) (f : Head)
  /-- VST (R263): Vector store to device memory per lane. -/
  | vst (k : BitVec 3) (f : Head)
  /-- VLDS_32 (R226): Scratchpad load of one word per lane. -/
  | vlds_32 (f : Head)
  /-- VLDS_64 (R226): Scratchpad load of two words per lane. -/
  | vlds_64 (f : Head)
  /-- VLDS_128 (R226): Scratchpad load of four words per lane. -/
  | vlds_128 (f : Head)
  /-- VSTS_32 (R226): Scratchpad store of one word per lane. -/
  | vsts_32 (f : Head)
  /-- VSTS_64 (R226): Scratchpad store of two words per lane. -/
  | vsts_64 (f : Head)
  /-- VSTS_128 (R226): Scratchpad store of four words per lane. -/
  | vsts_128 (f : Head)
  /-- ATOM (R266): Device-memory atomic read-modify-write per lane with ordering and scope. -/
  | atom (k : BitVec 3) (f : Head) (t : Word)
  /-- ATOMS (R228): Scratchpad atomic read-modify-write per lane. -/
  | atoms (k : BitVec 3) (f : Head) (t : Word)
  /-- FATOM (R273): Floating add to device memory, ordered or unordered. -/
  | fatom (k : BitVec 3) (f : Head)
  /-- MON (R240): Arms the group's monitor on a line and clears its latch. -/
  | mon (f : Head)
  /-- MWAIT (R240): Waits for the monitor latch or a timeout. -/
  | mwait (f : Head)
  /-- MCLR (R240): Disarms the monitor and releases its waiters. -/
  | mclr (f : Head)
  /-- BARI (R236): Configures a barrier's expected count and operation. -/
  | bari (f : Head)
  /-- BARA (R236): Arrives at a barrier and returns its phase. -/
  | bara (f : Head)
  /-- BARW (R236): Waits while the barrier's phase equals sB. -/
  | barw (f : Head)
  /-- BARX (R236): Adds transaction bytes owed to a barrier. -/
  | barx (f : Head)
  /-- BRED (R236): Arrives with a contribution and waits for the phase's reduction. -/
  | bred (f : Head)
  /-- BARQ (R236): Queries barrier state by selector. -/
  | barq (f : Head)
  /-- BARINV (R236): Invalidates a barrier's current phase. -/
  | barinv (f : Head)
  /-- RACQ (R145): Requests k extended register blocks from the team's pool. -/
  | racq (f : Head)
  /-- RREL (R145): Returns the group's highest k extended blocks to the pool. -/
  | rrel (f : Head)
  /-- RQRY (R145): Reads pool and block counts. -/
  | rqry (f : Head)
  /-- EBEQ (R209): Bequeaths registers of each active lane as a pending estate. -/
  | ebeq (f : Head) (t : Word)
  /-- ECLM (R210): Claims one estate per active lane into registers with a status. -/
  | eclm (f : Head) (t : Word)
  /-- EDROP (R211): Frees estates of a key or of a namespace. -/
  | edrop (f : Head) (t : Word)
  /-- EQRY (R212): Queries the status and location of an estate. -/
  | eqry (f : Head) (t : Word)
  /-- EPIN (R212): Pins or unpins an estate in the core's Hayloft. -/
  | epin (f : Head) (t : Word)
  /-- PHEND (R213): Ends the group's phase, writes its phase record and queues the next phase. -/
  | phend (f : Head) (t : Word)
  /-- SRD (R116): Reads a special register into sD. -/
  | srd (f : Head)
  /-- SWR (R116): Writes sD to a special register. -/
  | swr (f : Head)
  /-- CPY (R305): Copies bytes between memory and scratchpad, optionally as a team collective. -/
  | cpy (f : Head) (t : Word)
  /-- CPYT (R308): Copies a tensor box between memory and scratchpad. -/
  | cpyt (f : Head) (t : Word)
  /-- CPYG (R309): Gathers indexed rows from memory into scratchpad. -/
  | cpyg (f : Head) (t : Word)
  /-- CPYS (R309): Scatters scratchpad rows to indexed memory rows. -/
  | cpys (f : Head) (t : Word)
  /-- CPYP (R310): Converts a tensor box into plane-image blocks in scratchpad. -/
  | cpyp (f : Head) (t : Word)
  /-- CFETCH (R312): Loads a code segment into an overlay slot. -/
  | cfetch (f : Head) (t : Word)
  /-- CPYZ (R307): Zero-fills bytes of memory or scratchpad. -/
  | cpyz (f : Head) (t : Word)
  /-- CPYA (R311): Moves accumulator rows to or from memory or scratchpad. -/
  | cpya (f : Head) (t : Word)
  /-- COLG (R313): Collective gather of every rank's elements. -/
  | colg (f : Head) (t : Word)
  /-- COLS (R313): Collective scatter of the root's blocks. -/
  | cols (f : Head) (t : Word)
  /-- COLR (R314): Collective reduction over ranks. -/
  | colr (f : Head) (t : Word)
  /-- COLB (R313): Collective broadcast from the root. -/
  | colb (f : Head) (t : Word)
  /-- QPUSH (R339): Pushes a scalar value into an operand queue. -/
  | qpush (f : Head)
  /-- QLD (R339): Address-slice run-ahead load into an operand queue entry. -/
  | qld (f : Head)
  /-- QST (R339): Stores a store-data queue entry to memory or scratchpad. -/
  | qst (f : Head)
  /-- QTOK (R334): Compute slice sends a token to the address slice. -/
  | qtok (f : Head)
  /-- QWTOK (R334): Address slice waits for and receives a token. -/
  | qwtok (f : Head)
  /-- QDRN (R339): Discards unpopped entries of selected queues. -/
  | qdrn (f : Head)
  /-- QSTAT (R339): Reads the state of a queue. -/
  | qstat (f : Head)
  /-- QAFF (R341): Starts an affine stream of N loads into an operand queue. -/
  | qaff (f : Head) (t : Word)
  /-- TIDQ (R349): Reads selected bits of a tensor identifier entry. -/
  | tidq (f : Head)
  /-- TIDLD (R349): Loads and checks a tensor identifier entry and invalidates cached copies. -/
  | tidld (f : Head)
  /-- MLOOP (R363): Starts a matrix loop of K steps into 64 accumulator rows. -/
  | mloop (f : Head) (t : Word)
  /-- MLOOPD (R392): Starts a delta matrix loop under the group's binding. -/
  | mloopd (f : Head) (t : Word)
  /-- ACCZ (R365): Zeroes accumulator rows and clears their poison. -/
  | accz (f : Head) (t : Word)
  /-- ACCRD (R366): Reads committed accumulator elements into lanes. -/
  | accrd (f : Head) (t : Word)
  /-- ACCWR (R366): Writes lane values into accumulator elements. -/
  | accwr (f : Head) (t : Word)
  /-- ACCDRN (R367): Drains accumulator rows with requantisation to memory or scratchpad. -/
  | accdrn (f : Head) (t : Word)
  /-- AWSET (R369): Sets a group's accumulator window. -/
  | awset (f : Head) (t : Word)
  /-- DBIND (R390): Binds the group to a delta directory entry and returns a handle. -/
  | dbind (f : Head)
  /-- DREF (R393): Sets REFNEXT on a key's entry. -/
  | dref (f : Head)
  /-- DINV (R394): Frees or marks dead the caller's entries of a key, tag or all. -/
  | dinv (f : Head)
  /-- DQRY (R395): Queries a delta directory entry. -/
  | dqry (f : Head)
  /-- WPOP (R449): Pops a 64-byte record from a work feed, sleeping if empty. -/
  | wpop (f : Head)
  /-- WPUSH (R449): Pushes a 64-byte record to a work feed. -/
  | wpush (f : Head)
  /-- WROOM (R449): Reads a feed's free capacity. -/
  | wroom (f : Head)
  /-- GSIG (R490): Decrements the count of a graph node of the launch's walk. -/
  | gsig (f : Head)
  /-- CORP (R451): Routes records of active lanes to the die's Corral. -/
  | corp (f : Head)
  /-- CORF (R452): Emits every nonempty bucket of the session. -/
  | corf (f : Head)
  /-- XBIND (R430): Returns an expert's weight address and may start a migration. -/
  | xbind (f : Head)
  /-- CNTRD (R454): Reads, and optionally clears, a per-expert counter. -/
  | cntrd (f : Head)
  /-- WATCH_REPORT (R521): A memory-side watch hit writes a kind-9 trace entry. -/
  | watchReport (part : Nat) (watch : Nat) (pa : Nat) (cls : Nat) (peer : Nat) (bytes : Nat) (group : Nat)
  /-- TEAM_SAVE_DONE (R411): Every group of a team is saved and the team leaves its core. -/
  | teamSaveDone (team : Nat)
  /-- STEP_COUNT_EXPIRE (R406): After n instructions the group stops again with BKPT and the STEP flag. -/
  | stepCountExpire (group : Nat)
  /-- LAUNCH_COMPLETE (R467): A launch completes and its accounting and completion records are written. -/
  | launchComplete (launch : Nat)
  /-- ORDERED_ADD_APPLY (R270): After a launch ends the ordered-add unit applies its held contributions. -/
  | orderedAddApply (launch : Nat)
  /-- RERUN_ROUND (R501): A .rerun launch with casualties places its casualty spans again. -/
  | rerunRound (launch : Nat)
  /-- MATRIX_OP_START (R357): A queued engine operation begins its first step. -/
  | matrixOpStart (core : Nat) (eng : Nat)
  /-- MATRIX_COMMIT (R358): An operation commits its rows at once and counts complete in class 2. -/
  | matrixCommit (core : Nat) (eng : Nat)
  /-- ACCDRN_COMPLETE (R368): A drain's bytes are all written and it counts complete. -/
  | accdrnComplete (core : Nat) (eng : Nat)
  /-- COPY_COMPLETE (R284): A copy finishes writing, credits its barrier, writes its record and counts complete. -/
  | copyComplete (core : Nat) (op : Nat)
  /-- COLLECTIVE_COPY_START (R305): A team-collective CPY starts once every participant has issued, exited or been killed. -/
  | collectiveCopyStart (core : Nat) (op : Nat)
  /-- CFETCH_DONE (R31): A segment load completes, making the slot resident, or records no slot. -/
  | cfetchDone (core : Nat) (op : Nat)
  /-- SEGMENT_LOAD_DONE (R33): A segment load completes and the waiting splits become eligible. -/
  | segmentLoadDone (core : Nat) (slot : Nat)
  /-- LOAD_RETURN (R50): An interlocked load or atomic result arrives in its register or save image. -/
  | loadReturn (group : Nat) (load : Nat)
  /-- TRANSLATION_CHECK_DONE (R256): Translation of an instruction's lanes completes; issue resumes or traps. -/
  | translationCheckDone (group : Nat) (stream : Nat)
  /-- CLAIM_DELIVER (R217): A claim's registers and status arrive in one write once every lane is served. -/
  | claimDeliver (group : Nat) (claim : Nat)
  /-- ESTATE_MIGRATE_ARRIVE (R199): A migrating or fetched estate arrives and is consumed by its claim. -/
  | estateMigrateArrive (group : Nat) (claim : Nat)
  /-- PADDOCK_RESUME (R206): A ready queued phase resumes on a quad with a free slot and registers. -/
  | paddockResume (group : Nat)
  /-- PHASE_RECORD_FETCH_DONE (R207): A phase record fetched from the HBM phase area arrives for its resume. -/
  | phaseRecordFetchDone (group : Nat)
  /-- QUEUE_ENTRY_FILL (R325): An operand entry's lanes resolve and it becomes filled or faulted. -/
  | queueEntryFill (group : Nat) (queue : Nat) (entry : Nat)
  /-- POP_FREEZE_EXPIRE (R80): A 16-cycle pop freeze ends unfilled and the popping instruction is withdrawn. -/
  | popFreezeExpire (group : Nat) (split : Nat)
  /-- MWAIT_TIMEOUT (R240): The MWAIT timeout elapses and the split returns with status 1. -/
  | mwaitTimeout (group : Nat) (split : Nat)
  /-- MIGRATION_COMPLETE (R435): Every byte is written home and RES becomes resident. -/
  | migrationComplete (part : Nat) (migration : Nat)
  /-- CORRAL_EMIT_RESUME (R443): A waiting emission proceeds once its slot is free or its feed has room. -/
  | corralEmitResume (part : Nat) (emission : Nat)
  /-- TIDLD_COMPLETE (R349): TIDLD's descriptor read returns and, once no core holds the old entry, the waiting split becomes eligible. -/
  | tidldComplete (group : Nat) (stream : Nat)
  /-- GSIG_APPLIED (R490): The walker applies a GSIG, decrementing the node's count or faulting the graph, and the signalling split becomes eligible or traps DEPUNF. -/
  | gsigApplied (group : Nat) (stream : Nat)
  /-- GRAPH_NODE_START (R492): The walker starts the head of its ready queue. -/
  | graphNodeStart (part : Nat)
  /-- GRAPH_NODE_COMPLETE (R485): A node completion decrements its successors' counts. -/
  | graphNodeComplete (part : Nat) (slot : Nat) (node : Nat) (status : Nat)
  /-- PLACE_SPAN (R472): The scheduler places the next span of the first launch that fits. -/
  | placeSpan (part : Nat)
  /-- LAUNCH_PACKET (R470): A LAUNCH packet submits a launch descriptor to the run list. -/
  | launchPacket (part : Nat) (queue : Nat) (index : Nat)
  /-- SIGNAL_PACKET (R470): A SIGNAL packet stores a value as a system-scope release. -/
  | signalPacket (part : Nat) (queue : Nat) (index : Nat)
  /-- WAIT_PACKET (R470): A WAIT packet starts polling a word for its condition. -/
  | waitPacket (part : Nat) (queue : Nat) (index : Nat)
  /-- WAIT_POLL (R470): A WAIT packet polls its word and completes when the condition holds. -/
  | waitPoll (part : Nat) (queue : Nat) (index : Nat)
  /-- RF_PASS_DONE (R133): The erasure pass ends, killing lanes and letting the access proceed. -/
  | rfPassDone (group : Nat)
  /-- ILLEGAL_INSTRUCTION (R44): Decode of an illegal encoding kills the issuing group with KillGroup(ILLEGAL), whatever its mask. -/
  | illegalInstruction
  /-- PAGE_SERVICE_DONE (R303): System cores finish servicing a not-present page and the engine resumes. -/
  | pageServiceDone (ctx : Nat) (va : Addr) (ok : Bool)
  /-- COLLECTIVE_COMPLETE (R315): A collective completes on this device, or ends with peer lost. -/
  | collectiveComplete (core : Nat) (op : Nat) (sent : Arrival)
  /-- MIGRATION_FAIL (R435): A backing read or home write fails and RES reverts. -/
  | migrationFail (part : Nat) (migration : Nat)
  /-- PAGE_ZERO_DONE (R286): The memory controller finishes zeroing a page and clears ZP. -/
  | pageZeroDone (part : Nat) (pa : Nat) (shift : Nat)
  /-- IMEM_ERROR (R35): An uncorrectable instruction-memory error empties the slot and reloads the segment. -/
  | imemError (core : Nat) (slot : Nat)
  /-- TIMING_REPLAY (R493): A shadow-latch mismatch discards a stage's result and recomputes it at half clock. -/
  | timingReplay (core : Nat) (quad : Nat)
  /-- CHECK_RESTART (R495): A residue, parity or scalar ECC failure restarts the split at its restart point or kills its lanes. -/
  | checkRestart (group : Nat) (split : Nat)
  /-- RF_UNCORRECTABLE (R133): An uncorrectable vector register code word starts the 96-cycle erasure pass. -/
  | rfUncorrectable (group : Nat) (reg : Nat) (beat : Nat) (lanes : WordError)
  /-- ADDR_SLICE_CHECK_FAIL (R497): A check failure in the address slice kills every living lane of the group. -/
  | addrSliceCheckFail (group : Nat)
  /-- MATRIX_CHECK_FAIL (R497): A matrix engine check failure re-executes the operation from its first step. -/
  | matrixCheckFail (core : Nat) (eng : Nat) (commit : Bool)
  /-- ACC_ROW_ERROR (R360): An uncorrectable accumulator error marks the row poisoned. -/
  | accRowError (team : Nat) (eng : Nat) (row : Nat)
  /-- SCRATCH_ECC_ERROR (R225): An uncorrectable scratchpad error poisons the sector. -/
  | scratchEccError (team : Nat) (off : Nat)
  /-- HAYLOFT_ERROR (R186): An uncorrectable Hayloft error marks an estate LOST. -/
  | hayloftError (ctx : Nat) (ns : Word) (ident : Word) (group : Nat) (lanes : Lanes)
  /-- HBM_UNCORRECTABLE (R503): An uncorrectable HBM sector error poisons the sector and writes a trace entry. -/
  | hbmUncorrectable (pa : Nat)
  /-- SCRUB_PASS (R504): The memory controllers scrub every HBM sector at least every 24 h. -/
  | scrubPass
  /-- ROW_SPARE_START (R505): A failing HBM row starts copying into a spare row. -/
  | rowSpareStart (bank : Nat) (row : Nat) (badReads : Nat) (pa : Nat)
  /-- ROW_SPARE_DONE (R505): The spare replaces the row between two accesses. -/
  | rowSpareDone (bank : Nat) (row : Nat)
  /-- CORE_SCAN_START (R508): The scheduler drains an idle core and starts its in-field scan. -/
  | coreScanStart (core : Nat)
  /-- SCAN_ABORT (R509): A launch that could use the scanned core aborts the scan. -/
  | scanAbort (core : Nat)
  /-- SCAN_DONE (R510): A scan ends: pass releases the core, mismatch repeats or retires it. -/
  | scanDone (core : Nat) (ok : Bool)
  /-- TRACE_SAMPLE (R517): Each core writes a sample trace entry every 2^interval cycles. -/
  | traceSample (part : Nat)
  /-- REPLAY_LOG_RECORD (R518): A system core logs a network, storage, interrupt or timer event. -/
  | replayLogRecord (part : Nat) (retired : Addr) (sys : Nat) (kind : Nat) (len : Nat) (value : Addr)
  /-- PCNT_WRITE (R523): A runtime write reprograms a performance counter. -/
  | pcntWrite (part : Nat) (core : Nat) (idx : Nat) (value : Addr)
  /-- REGISTER_WRITE (R511): A write to a debug-page or control register without a row of its own. -/
  | registerWrite (part : Nat) (reg : Nat) (value : Addr)
  /-- DOORBELL (R468): Writing the tail index to a queue's doorbell lets the engine start its packets. -/
  | doorbell (part : Nat) (queue : Nat) (tail : Word)
  /-- CTX_CREATE (R457): Creates a context from its descriptor. -/
  | ctxCreate (part : Nat) (queue : Nat) (desc : Addr)
  /-- CTX_DESTROY (R458): Ends a context, its queues, walks, groups, estates and sessions. -/
  | ctxDestroy (part : Nat) (ctx : Nat)
  /-- CTX_CLRERR (R403): Clears bits of a context's CTXERR. -/
  | ctxClrerr (part : Nat) (ctx : Nat) (bits : Word)
  /-- DEBUG (R403): Sets a context's DBGCTL. -/
  | debug (part : Nat) (ctx : Nat) (bits : Word)
  /-- TLB_INVAL (R254): Starts invalidation of cached translations of a range. -/
  | tlbInval (part : Nat) (queue : Nat) (index : Nat) (ctx : Nat) (va : Addr) (len : Addr)
  /-- TLB_INVAL_DONE (R254): Invalidation completes once TLBs, accesses and write-backs are drained. -/
  | tlbInvalDone (part : Nat) (command : Nat)
  /-- ZERO (R286): Discards cached copies of a page and zeroes it. -/
  | zero (part : Nat) (pa : Nat) (code : Nat)
  /-- LEASE_CLOSE (R192): Closes a namespace lease, writing open estates to wills or discarding them. -/
  | leaseClose (part : Nat) (ctx : Nat) (ns : Word)
  /-- RESUME (R406): Ends a stop and continues at the point its cause gives. -/
  | resume (part : Nat) (group : Nat)
  /-- RESUME_NEXT (R406): Ends a stop and continues after the stopped instruction. -/
  | resumeNext (part : Nat) (group : Nat)
  /-- STEP (R406): Continues a stopped group for n instructions. -/
  | step (part : Nat) (group : Nat) (n : Nat)
  /-- KILL (R406): Kills the stopped group. -/
  | kill (part : Nat) (group : Nat)
  /-- KILL_LAUNCH (R406): Kills the group and every other group of its launch. -/
  | killLaunch (part : Nat) (group : Nat)
  /-- HALT (R420): Halts named groups at their next instruction boundary. -/
  | halt (part : Nat) (launch : Nat) (ctx : Nat) (team : Nat) (gix : Nat)
  /-- FREEZE_TIMEOUT (R422): After 100 ms the frozen copy engine continues and CTXERR COPY is set. -/
  | freezeTimeout (core : Nat)
  /-- RESIDENCY (R429): Sets an expert's residency state. -/
  | residency (part : Nat) (ctx : Nat) (tid : Nat) (res : Nat)
  /-- POLICY (R433): Sets XPOL, the ordered-add area and the time-slice quantum. -/
  | policy (part : Nat) (xpol : Word) (area : Addr) (size : Nat) (quantum : Nat)
  /-- SESSION (R440): Writes a Corral session, flushing or discarding held records. -/
  | session (part : Nat) (session : Nat) (image : List Byte) (discard : Bool)
  /-- FEED_CREATE (R446): Creates a work feed and assigns it to a context. -/
  | feedCreate (part : Nat) (feed : Nat) (ctx : Nat) (cap : Nat)
  /-- FEED_CLOSE (R446): Closes a work feed and wakes its sleepers. -/
  | feedClose (part : Nat) (feed : Nat)
  /-- QUEUE_CREATE (R469): Creates a queue from its image and script. -/
  | queueCreate (part : Nat) (queue : Nat) (image : Addr)
  /-- QUEUE_DESTROY (R478): Stops a queue, optionally killing its placed spans. -/
  | queueDestroy (part : Nat) (queue : Nat) (kill : Bool)
  /-- GRAPH_UPLOAD (R481): Copies a graph image into a slot and sets INIT counts. -/
  | graphUpload (part : Nat) (slot : Nat) (image : Addr)
  /-- GRAPH_FREE (R481): Frees a graph slot after any walk in progress. -/
  | graphFree (part : Nat) (slot : Nat)
  /-- CTX_SET_CTLW (R457): Sets a context's CTLW. -/
  | ctxSetCtlw (part : Nat) (ctx : Nat) (value : Word)
  /-- CTX_SET_SAVE_AREA (R417): Grows a context's save area and retries waiting saves. -/
  | ctxSetSaveArea (part : Nat) (ctx : Nat) (addr : Addr) (size : Nat)
  /-- CTX_SET_PHASE_AREA (R417): Grows a context's HBM phase area. -/
  | ctxSetPhaseArea (part : Nat) (ctx : Nat) (addr : Addr) (size : Nat)
  /-- CTX_SET_ESTATE_AREA (R417): Grows a context's HBM estate area. -/
  | ctxSetEstateArea (part : Nat) (ctx : Nat) (addr : Addr) (size : Nat)
  /-- TRAP_CONSUMER_WRITE (R459): Sets a context's trap ring CONS, serving groups waiting for ring room. -/
  | trapConsumerWrite (part : Nat) (ctx : Nat) (cons : Word)
  /-- TRIGGER_WRITE (R483): A write to a graph slot's trigger register requests a walk. -/
  | triggerWrite (part : Nat) (slot : Nat) (value : Addr)
  /-- QUANTUM_EXPIRE (R474): A team's time-slice quantum expires and it is pre-empted. -/
  | quantumExpire (team : Nat)
  /-- HINT_TIMEOUT (R409): 20 µs without a save point force-stops and saves the group with a HINTTO record. -/
  | hintTimeout (team : Nat)
  /-- SCHED_CORE_ERROR (R479): An uncorrectable scheduler core error refetches firmware or resets and replays. -/
  | schedCoreError (part : Nat) (kind : Nat)
  /-- HOST_WRITE (R526): A host write through BAR2 or HDM is performed at the home slice. -/
  | hostWrite (fn : HostFn) (off : Nat) (bytes : List Byte)
  /-- HOST_READ (R526): A host read returns the home's value. -/
  | hostRead (fn : HostFn) (bar : Nat) (off : Nat) (size : Nat)
  /-- HOST_REQUEST_ERROR (R527): The host completes a device request with an error; reads return poison. -/
  | hostRequestError (part : Nat) (pa : Nat)
  /-- TIER_LINK_DOWN (R530): A second-tier port link goes down; reads poison and writes are discarded. -/
  | tierLinkDown (port : Nat)
  /-- TIER_LINK_UP (R530): A second-tier port retrains and serves again. -/
  | tierLinkUp (port : Nat)
  /-- TIER_POISON_REPORT (R530): A Type 3 device reports poison and the sector is marked poisoned. -/
  | tierPoisonReport (pa : Nat)
  /-- MILCA_PORT_FAIL (R531): A link port drops out and its flits are resent on others. -/
  | milcaPortFail (port : Nat)
  /-- PEER_UNREACHABLE (R533): A peer becomes unreachable; its in-flight accesses fail. -/
  | peerUnreachable (peer : Nat)
  /-- PEER_REQUEST (R532): A request from a peer is accepted or refused by its reach entry. -/
  | peerRequest (peer : Nat) (sender : Nat) (part : Nat) (pa : Nat) (op : PeerOp) (bytes : List Byte)
  /-- PART_START (R538): The part starts and Shuax runs the start sequence. -/
  | partStart (flash : Flash)
  /-- PARTITION_RESTART (R534): One partition restarts alone, its contexts destroyed and share zeroed. -/
  | partitionRestart (part : Nat)
  /-- POWER_LIMIT_SET (R543): The runtime sets the package power limit through PF0. -/
  | powerLimitSet (watts : Nat)
  /-- POWER_OVER_LIMIT (R24): Measured power above the limit throttles issue slots. -/
  | powerOverLimit
  /-- TEMP_THROTTLE (R543): A die at 100 °C is throttled. -/
  | tempThrottle
  /-- TEMP_SHUTDOWN (R22): A die at 115 °C stops the arithmetic clock. -/
  | tempShutdown
  /-- GET_VERSION (R541): SPDM request for supported versions. -/
  | getVersion
  /-- GET_CAPABILITIES (R541): SPDM request for capabilities. -/
  | getCapabilities
  /-- NEGOTIATE_ALGORITHMS (R541): SPDM request negotiating algorithms. -/
  | negotiateAlgorithms
  /-- GET_DIGESTS (R541): SPDM request for certificate digests. -/
  | getDigests
  /-- GET_CERTIFICATE (R541): SPDM request for the certificate chain. -/
  | getCertificate
  /-- CHALLENGE (R541): SPDM challenge answered with the alias key. -/
  | challenge (nonce : BitVec 256)
  /-- GET_MEASUREMENTS (R542): SPDM request returning the measurement registers. -/
  | getMeasurements
  /-- LATCH_SET_WITH_NO_WRITE (R238): The group's monitor latch is set although no agent wrote the armed line, waking MWAIT with status 0. -/
  | latchSetWithNoWrite (group : Nat)
  /-- L1_EVICTION (R248): A line is evicted from a core's L1, its dirty bytes written back to the coherent levels. -/
  | l1Eviction (core : Nat) (line : Nat)
  /-- HAYLOFT_WRITE_OUT_DONE (R187): A Hayloft write-out of an estate or phase record to HBM finishes, freeing its line for the bequest, migration, record or pin that waited. -/
  | hayloftWriteOutDone (core : Nat)
  /-- THROTTLE_END (R24): Measured package power falls back within the limit, or die temperature falls below 100 °C, and the management core stops withholding issue slots. -/
  | throttleEnd
  /-- POWER_FAIL (R539): The supply to the part is lost, ending all operation and possibly leaving a boot journal entry unwritten or with a failing CHECK. -/
  | powerFail (lost : Nat) (torn : Bool)
  /-- PEER_REACHABLE (R532): A path to a peer device exists again over a working Milca Link port, so its aperture becomes reachable once more. -/
  | peerReachable (path : Nat × BitVec 12)
  deriving DecidableEq, Repr

end Sys2Proof
end

