-- ==== Sys2Proof/Machine/State.lean ====
section
/-! DEFINITION. The state of the VJ-9 as plain data: the part, its partitions, contexts, launches, cores, teams
and groups, with every register the manual names (INVENTORY.md, State). -/

namespace Sys2Proof.Machine
open Sys2Proof

/-! ### Causes and records -/

/-- The trap causes of R401, in code order 1 to 25. -/
inductive Cause where
  | illegal | priv | align | xlate | prot | spbnd | awin | baruse | quse | segnp | fetch | scount
  | swtrap | bkpt | watch | depunf | rfover | estate | tensor | feed | token | copy | delta
  | hintto | expert
  deriving DecidableEq, Repr

/-- What a trap record says beyond the group's identity (R405). -/
structure TrapInfo where
  cause  : Cause
  lane   : Option Nat := none
  addr   : Option Addr := none
  /-- access kind: 0 read, 1 write, 2 atomic, 3 fetch -/
  kind   : Nat := 0
  /-- the reason codes of R405 -/
  reason : Nat := 0
  /-- n of TRAP or BKPT, or the watchpoint number (R519) -/
  code   : Nat := 0
  /-- a stop after STEP n (R406) -/
  step   : Bool := false
  /-- halted by the debugger (R420) -/
  halt   : Bool := false
  /-- the queue and the entry whose pop trapped (R332) -/
  entry  : Option (Nat × Nat) := none
  /-- the segment that a transfer found absent (R33), or whose load failed (R32) -/
  target : Option Nat := none
  /-- the runtime's load of that segment failed translation: the group stays stopped (R33) -/
  loadFailed : Bool := false
  deriving DecidableEq, Repr

/-! ### Groups -/

/-- One entry of the group's token stack (R81). -/
inductive Token where
  /-- join PC, lane set L, parked set P, the recorded `am` bits of P, and the chain below the token -/
  | join (pc : Word) (l p pam : Lanes) (below : List Nat)
  /-- owning split, resume PC, lane set, mask -/
  | deferred (owner : Nat) (pc : Word) (lanes mask : Lanes)
  deriving DecidableEq, Repr

/-- Why a split or an address slice is ineligible (R76). -/
inductive Wait where
  /-- the instruction at the program counter has not issued; it issues once it no longer has to wait -/
  | retry
  /-- a pop froze the quad for an entry that is pending (R80) -/
  | pop
  /-- its pop's freeze has ended with the entry still pending (R80) -/
  | late
  /-- waits at the join token with this index (R98) -/
  | join (tok : Nat)
  /-- issue suspended for the translation of these (lane, virtual address, access kind) (R256); lane 96 is none -/
  | xlate (reqs : List (Nat × Addr × Nat))
  /-- an access waits for pages with ZP set (R255) -/
  | zero (pages : List Addr)
  /-- waits in RACQ for this many blocks, result to this scalar register (R125) -/
  | racq (k : Nat) (d : Reg)
  /-- waits in BARW while this is the phase of barrier (span?, number) (R236) -/
  | barw (span : Bool) (n : Nat) (phase : Word)
  /-- waits in BRED for this phase of barrier (span?, number) (R236) -/
  | bred (span : Bool) (n : Nat) (phase : Word) (d : Reg)
  /-- waits in MWAIT; the TIME at which the timeout elapses, if any (R240) -/
  | mwait (deadline : Option Addr) (d : Reg)
  /-- sleeps in WPOP on this feed, block base (R448) -/
  | wpop (feed : Nat) (d : Reg)
  /-- waits for the walker to apply this node's signal (R490) -/
  | gsig (node : Nat)
  /-- waits in TIDLD for the descriptor read and the invalidation (R349) -/
  | tidld (t : Nat)
  /-- waits for an overlay slot that is loading this segment (R33) -/
  | segment (seg : Nat)
  /-- CORF waits for its emissions: how many it has made, result register (R452) -/
  | corf (made : Nat) (pending : List Nat) (d : Reg)
  /-- what it waited for came while its group was stopped: these scalar writes, and the following instruction, when the
  group goes on (R235, R397) -/
  | woken (writes : List (Nat × Word))
  deriving DecidableEq, Repr

/-- One split (R70), with the restart point of R424 and the captures of R119. -/
structure Split where
  pc          : Word := 0
  members     : Lanes := 0
  am          : Lanes := 0
  /-- the wait counter of R77 -/
  ctr         : Nat := 0
  /-- indices of token stack entries, top first (R70) -/
  chain       : List Nat := []
  /-- unfrozen quad cycle before which the split does not issue (R47, R62) -/
  stall       : Nat := 0
  wait        : Option Wait := none
  restart     : Word := 0
  restartable : Bool := true
  /-- an IDEM has set the restart point, and the next instruction is the first one after it (R424, R496) -/
  marked      : Bool := false
  first       : Bool := false
  tries       : Nat := 0
  clkHi       : Option Word := none
  timeHi      : Option Word := none
  deriving DecidableEq, Repr

/-- The address slice of a two-slice group (R319, R320). -/
structure ASlice where
  pc     : Word := 0
  /-- s0 to s31 -/
  sregs  : Cells 32 := []
  ctr    : Nat := 0
  /-- clock cycle before which the slice does not issue: no freeze stops it (R320) -/
  stall  : Nat := 0
  wait   : Option Wait := none
  exited : Bool := false
  clkHi  : Option Word := none
  timeHi : Option Word := none
  deriving DecidableEq, Repr

/-- Which instruction stream of a group acts. -/
inductive Stream where
  | split (n : Nat)
  | aslice
  deriving DecidableEq, Repr

/-- A write of one register: scalar, or vector in the lanes of `mask`. -/
structure RegWrite where
  isV    : Bool
  reg    : Nat
  mask   : Lanes := 0
  /-- by lane for a vector register, at key 0 for a scalar one -/
  vals   : Cells 32 := []
  /-- the stream whose scalar file and mask bank the write meets -/
  stream : Stream
  deriving DecidableEq, Repr

/-- A fixed-latency result that has not been written yet (R48); `due` counts unfrozen quad cycles, and for the address
slice clock cycles (R320). -/
structure Fly where
  due : Nat
  w   : RegWrite
  /-- an interlocked result that arrives at a stated cycle (R50, R146, R340, R349) -/
  lock : Bool := false
  deriving DecidableEq, Repr

/-- A register result that returns later and is interlocked (R50). -/
structure Pend where
  id     : Nat
  /-- the values it will write -/
  writes : List RegWrite
  /-- operation of engine class 0 it counts as (R291), if any -/
  op     : Option Nat
  stream : Stream
  /-- lanes that read the memory of a peer, by peer, or under 512 the host's (R514, R533) -/
  far    : AMap Lanes := []
  deriving DecidableEq, Repr

/-- The load descriptor of an operand entry: kind 0 memory, 1 memory nt, 2 scratchpad (R339). -/
structure LoadDesc where
  kind   : Nat
  base   : Addr
  stride : Addr
  deriving DecidableEq, Repr

/-- One entry of an operand queue or a store-data queue (R324, R325). -/
structure QEntry where
  id      : Nat
  vals    : Cells 32 := []
  /-- store-data: the valid mask; operand: the lanes its load accesses (R337) -/
  mask    : Lanes := 0
  /-- failed lanes (R331) -/
  faults  : AMap TrapInfo := []
  poison  : Lanes := 0
  pending : Bool := false
  /-- popped inside an idempotent region and held (R338) -/
  held    : Bool := false
  desc    : Option LoadDesc := none
  /-- store-data: filled from this unfrozen quad cycle on (R330) -/
  due     : Nat := 0
  /-- lanes whose load reads the memory of a peer or of the host, as in Pend (R514, R533) -/
  far     : AMap Lanes := []
  deriving DecidableEq, Repr

/-- A QAFF stream in progress on operand queue `q` (R341). -/
structure Affine where
  q      : Nat
  kind   : Nat
  base   : Addr
  stride : Addr
  step   : Addr
  left   : Nat
  deriving DecidableEq, Repr

/-- The group's monitor (R238). -/
structure Monitor where
  /-- armed on scratchpad rather than device memory -/
  sp    : Bool
  /-- first byte of the 64-byte line: physical address or scratchpad offset -/
  line  : Nat
  latch : Bool
  deriving DecidableEq, Repr

/-- A delta binding: what DBIND read and recorded (R390, R391), beside DSTAT. -/
structure Binding where
  entry : Nat
  /-- generation of the entry at the DBIND -/
  gen   : Nat := 0
  wid   : Nat
  steps : Nat
  xaddr : Addr
  yaddr : Addr
  /-- weight version read by the DBIND -/
  wver  : Word
  /-- the forming operation has committed (R382) -/
  formed : Bool := false
  /-- DPREC of the forming operation (R382) -/
  dprec : Nat := 0
  deriving DecidableEq, Repr

/-- A claim in flight: ECLM or `.heir` (R195, R197, R210). -/
structure Claim where
  id     : Nat
  /-- the claim is an automatic one, made before the group first issues -/
  heir   : Bool
  /-- lanes not yet served: (lane, identity) -/
  todo   : List (Nat × Word)
  ns     : Word
  tags   : Word
  /-- registers of the bitmap, ascending -/
  regs   : List Nat
  vs     : Nat
  mask   : Lanes
  /-- values by (register position × 96 + lane), and statuses by lane -/
  vals   : Cells 32 := []
  status : Cells 32 := []
  /-- an estate on its way, for this lane and identity -/
  moving : Option (Nat × Word) := none
  /-- registers whose values are discarded: a hint did not save them (R399) -/
  lost   : List Nat := []
  deriving DecidableEq, Repr

/-- What a group is doing. -/
inductive RunState where
  | running
  /-- stopped by a trap (R404), or halted by the debugger (R420) -/
  | stopped (t : TrapInfo) (stream : Stream)
  /-- stopped for its team's pre-emption and saved, or about to be (R408, R411) -/
  | parked
  /-- queued as a phase in the Paddock (R203, R206) -/
  | phase
  /-- exited, or killed -/
  | gone
  deriving DecidableEq, Repr

/-- The wait condition of a queued phase: a barrier phase to complete, or none (R213). -/
structure PhaseWait where
  span  : Bool
  n     : Nat
  phase : Word
  deriving DecidableEq, Repr

/-- A matrix operation's form (R379 to R382). -/
inductive Form where
  | plain
  /-- forming with the full product (ST 0, 2 or 3) -/
  | formFull (st : Nat)
  /-- forming the difference (ST 1) -/
  | formDelta
  /-- reuse that reads the D image -/
  | reuseDelta (dprec : Nat)
  /-- reuse that reads the X image -/
  | reuseFull
  /-- ACCDRN -/
  | drain
  deriving DecidableEq, Repr

/-- ACCDRN's tail and destinations (R367). -/
structure Drain where
  fmt  : Nat
  rnd  : Nat
  sat  : Bool
  xopt : Bool
  zero : Bool
  sp   : Bool
  dst  : Addr
  sdst : Addr
  deriving DecidableEq, Repr

/-- What a step of a matrix loop reads of its A side as it begins (R351, R353): the planes it skips, its 64 A blocks, and of a forming
operation the blocks that become X_prev, those of them that are bad, and whether one drifted (R380). -/
structure StepRead where
  skip  : List Nat := []
  a     : List (Nat × List Int) := []
  xrec  : List (Nat × List Int) := []
  bad   : List Bool := []
  drift : Bool := false
  deriving DecidableEq, Repr

/-- An operation of a matrix engine (R357, R363, R367, R392). -/
structure MatOp where
  id      : Nat
  eng     : Nat
  group   : Nat
  /-- first row and row count -/
  row     : Nat
  rows    : Nat
  form    : Form
  ovw     : Bool := false
  steps   : Nat := 0
  pa      : Nat := 0
  pb      : Nat := 0
  /-- the six operand registers of R363 -/
  regs    : List Word := []
  repro   : Bool := false
  drain   : Option Drain := none
  /-- first byte of the delta region, the planes of D, and the directory entry (R378, R390) -/
  region  : Nat := 0
  dprec   : Nat := 0
  bind    : Option Binding := none
  /-- code address, stochastic count and seed at issue, for R164 -/
  pc      : Word := 0
  count   : Word := 0
  seed    : Word := 0
  /-- the cycle before which its first step does not begin, and the cycle of its commit once begun (R357) -/
  ready   : Nat := 0
  due     : Nat := 0
  started : Bool := false
  /-- what each step begun so far read then, and the cycle in which the next step begins (R351) -/
  begun   : List StepRead := []
  next    : Nat := 0
  /-- rows' committed values at the first step (R358) -/
  acc     : Cells 32 := []
  accBad  : List Nat := []
  /-- ACCDRN: rows committed, bytes still to be written (R368) -/
  committed : Bool := false
  deriving DecidableEq, Repr

/-- An erasure pass over one beat of a register (R133). -/
structure Pass where
  /-- cycle in which it ends -/
  due   : Nat := 0
  reg   : Nat := 0
  beat  : Nat := 0
  /-- lanes that die at its end -/
  lanes : Lanes := 0
  /-- the erasure yields a code word other than the one that was written -/
  other : Bool := false
  deriving DecidableEq, Repr

/-- A group (R63 to R72) with its registers and everything a save image holds (R415). -/
structure Group where
  state    : RunState := .gone
  team     : Nat := 0
  gix      : Nat := 0
  role     : Nat := 0
  /-- quad of the core and resident slot on it (R65, R77) -/
  quad     : Nat := 0
  slot     : Nat := 0
  /-- resident, as against saved or queued -/
  resident : Bool := false
  /-- RBASE and REXT (R124) -/
  rbase    : Nat := 8
  rext     : Nat := 0
  /-- s1 to s60 -/
  sregs    : Cells 32 := []
  /-- lane i of vk at key 96k + i -/
  vregs    : Cells 32 := []
  splits   : AMap Split := []
  tokens   : AMap Token := []
  /-- lanes within the work-item count (R66) -/
  items    : Lanes := 0
  dead     : Lanes := 0
  exited   : Lanes := 0
  aslice   : Option ASlice := none
  fly      : List Fly := []
  pend     : List Pend := []
  /-- the four engine classes: operations outstanding in issue order, with done marks (R291) -/
  classes  : AMap (List (Nat × Bool)) := []
  q        : AMap (List QEntry) := []
  sq       : AMap (List QEntry) := []
  toks     : List Word := []
  affine   : List Affine := []
  slip     : Word := 32
  /-- the group has executed an IDEM, and holds the entries it pops (R338) -/
  idem     : Bool := false
  qloss    : Word := 0
  /-- one more than the cycle of the last SWR of QLOSS, for the same-cycle rule of R436 -/
  qlossAt  : Nat := 0
  /-- one more than the cycle of QLOSS's last count, for the same rule -/
  qlossInc : Nat := 0
  /-- one more than the cycle of the compute slice's last SRD of QLOSS, and its register, for the same rule -/
  lossRead : Nat × Nat := (0, 0)
  /-- the waiting QWTOK has already been counted in QLOSS (R334) -/
  qwCounted : Bool := false
  repro    : Word := 0
  seed     : Word := 0
  /-- count n of R164 with REPRO = 1 -/
  count    : Word := 0
  cring    : Word := 0
  dri      : Word := 16
  dprec    : Word := 3
  dstat    : Word := 0xE0000000
  binding  : Option Binding := none
  csess    : Word := 0
  tcause   : Word := 0
  monitor  : Option Monitor := none
  claims   : List Claim := []
  /-- automatic claims have been made (R197) -/
  claimed  : Bool := true
  /-- barriers of the team or span this group waits a phase on when queued (R213) -/
  phaseWait : Option PhaseWait := none
  /-- matrix operations abandoned by a stop, in issue order (R362) -/
  abandoned : List MatOp := []
  /-- instructions left of a STEP n (R406) -/
  stepLeft : Option Nat := none
  /-- the stream whose next issue ignores watchpoints (R520) -/
  watchSkip : Option Stream := none
  /-- an erasure pass in progress (R133) -/
  pass     : Option Pass := none
  /-- a pre-emption request is pending (R408) -/
  preempt  : Bool := false
  /-- saved without having reached a save point, with a HINTTO record (R409) -/
  forced   : Bool := false
  /-- results and claims in flight at a restore, before whose arrival nothing issues (R399) -/
  marks    : List Nat := []
  /-- saved by a hint: live vector registers to keep (R413) -/
  hintRegs : Option (List Nat) := none
  hintRanges : List (Nat × Nat) := []
  /-- a stop waits for trap ring room or save area room; save image address and size (R405, R417) -/
  recordDue : Bool := false
  /-- TIME when the group stopped (R405) -/
  stopTime : Addr := 0
  image    : Option (Addr × Nat) := none
  /-- the model's own: the draw of the image's first header byte (log 16) -/
  imageDraw : Nat := 0
  /-- carry registers kept by a queued phase (R204) -/
  carry    : Nat := 0
  /-- order in which the queued phases became ready (R206) -/
  readyAt  : Nat := 0
  /-- the FETCH trap of a failed preload that stops a queued phase when it resumes (R32) -/
  failDue  : Option TrapInfo := none
  /-- a queued phase that the debugger halts when it resumes (R420) -/
  haltDue  : Bool := false
  /-- lanes that an error in the phase record kills at resume (R208) -/
  recErr   : Lanes := 0
  deriving DecidableEq, Repr

/-! ### Teams and spans -/

/-- A barrier (R231). A group's key is 32 × SPIX + GIX. -/
structure Barrier where
  exp     : Nat := 0
  arr     : Nat := 0
  arrived : List Nat := []
  ph      : Word := 0
  /-- 32 bits, signed -/
  tx      : Word := 0
  op      : Nat := 0
  payload : AMap Word := []
  epoch   : Nat := 0
  deriving DecidableEq, Repr

/-- A pool of extended blocks (R121, R125); waiting requests oldest first: (group, split, blocks, result). -/
structure Pool where
  size    : Nat := 0
  free    : Nat := 0
  waiting : List (Nat × Nat × Nat × Reg) := []
  deriving DecidableEq, Repr

/-- A team (R63, R219, R354). -/
structure Team where
  launch   : Nat := 0
  /-- its span: the SPIX-0 team's linear index (R556) -/
  span     : Nat := 0
  lin      : Nat := 0
  core     : Nat := 0
  /-- placed on its core (false: saved) -/
  placed   : Bool := false
  ended    : Bool := false
  groups   : List Nat := []
  spbase   : Nat := 0
  spsize   : Nat := 0
  /-- scratchpad bytes by offset in the allotment -/
  sp       : Cells 8 := []
  spPoison : List Nat := []
  bars     : AMap Barrier := []
  pools    : AMap Pool := []
  /-- windows (AWB, AWL) by GIX (R356) -/
  windows  : AMap (Nat × Nat) := []
  accn     : Nat := 0
  accBase  : Nat := 0
  /-- element (engine, row, column) at key (512 × engine + row) × 64 + column -/
  acc      : Cells 32 := []
  /-- poisoned rows: 512 × engine + row -/
  accPoison : List Nat := []
  preempt  : Bool := false
  /-- TIME of the pre-emption request (R409) -/
  asked    : Addr := 0
  /-- time since which the team has run (R474) -/
  since    : Addr := 0
  deriving DecidableEq, Repr

/-- A span: its barriers (R230) and its number of teams (R556). -/
structure Span where
  launch : Nat := 0
  teams  : List Nat := []
  bars   : AMap Barrier := []
  deriving DecidableEq, Repr

/-! ### Cores -/

inductive SlotSt where
  | empty | loading | resident
  deriving DecidableEq, Repr

/-- An overlay slot (R29). -/
structure Slot where
  st    : SlotSt := .empty
  ctx   : Nat := 0
  base  : Addr := 0
  len   : Nat := 0
  bytes : Cells 8 := []
  /-- what a load in progress read of its pages when it began, by page (R36) -/
  snap  : AMap (List Byte) := []
  /-- one more than the cycle of its last use (R31) -/
  used  : Nat := 0
  /-- its load is stopped at a page being serviced, and pages whose service failed (R32, R303) -/
  service : Option Addr := none
  failed : List Addr := []
  deriving DecidableEq, Repr

/-- A line of an L1 (R248): 64 bytes, dirty mask per byte, write sequence number (R262). -/
structure Line where
  bytes : List Byte
  dirty : BitVec 64
  /-- sequence numbers of its last write, and of the first since it was clean (R262, R282) -/
  seq   : Nat
  first : Nat := 0
  /-- the group that wrote it last (R521) -/
  writer : Nat := 0
  /-- the poison marks that travel with the line's two sectors (R503) -/
  bad   : BitVec 2 := 0
  deriving DecidableEq, Repr

/-- The sizes of a page (R250): 64 KB, 2 MB and 1 GB. -/
inductive PageSize where
  | small | middle | large
  deriving DecidableEq, Repr

/-- A cached leaf translation (R253). -/
structure TlbEntry where
  ctx   : Nat
  size  : PageSize
  /-- virtual and physical page number, in pages of that size -/
  page  : Nat
  frame : Nat
  r     : Bool
  w     : Bool
  uc    : Bool
  deriving DecidableEq, Repr

/-- A tensor identifier entry (R344). -/
structure Tid where
  base    : Addr := 0
  sbase   : Addr := 0
  back    : Addr := 0
  fmt     : Nat := 0
  pl      : Nat := 0
  rank    : Nat := 0
  valid   : Bool := false
  mx      : Bool := false
  delta   : Bool := false
  res     : Nat := 0
  expert  : Bool := false
  xnum    : Nat := 0
  wver    : Word := 0
  pad     : Word := 0
  dims    : List Nat := []
  strides : List Int := []
  /-- a DELTA load watches these physical 4 KB pages, or the 2 MB regions around them (R386) -/
  pages   : List Nat := []
  wide    : Bool := false
  deriving DecidableEq, Repr

/-- How a copy-engine operation ends (R299). -/
structure Ended where
  status : Nat
  fcode  : Nat := 0
  faddr  : Addr := 0
  bytes  : Nat := 0
  reread : Bool := false
  deriving DecidableEq, Repr

/-- A copy-engine operation: major 0x30 or 0x31 (R293), with the operands and entries read at issue (R347). -/
structure CopyOp where
  id      : Nat
  coll    : Bool := false
  min     : Nat
  ty      : Nat := 0
  group   : Nat := 0
  team    : Nat := 0
  ctx     : Nat := 0
  dst     : Addr := 0
  src     : Addr := 0
  /-- length, or count of rows or elements -/
  len     : Nat := 0
  /-- bytes of a row, plane count, first accumulator row (engine × 512 + row), segment, or FMT -/
  arg     : Nat := 0
  /-- offset of the index list, of the exponent bytes; overlay slot; or set and root (256 × root + set) -/
  aux     : Nat := 0
  coords  : List Int := []
  /-- the memory tensor and the box, and the address that replaces the tensor's base (R308, R310) -/
  tensor  : Option Tid := none
  box     : Option Tid := none
  base    : Option Addr := none
  tag     : Nat := 0
  /-- barrier to credit: span?, number, epoch at issue (R232, R301) -/
  bar     : Option (Bool × Nat × Nat) := none
  /-- ring to record to, and the GIX whose CRING named it (R300) -/
  ring    : Option Nat := none
  ringGix : Nat := 0
  repro   : Bool := false
  /-- team collective: participants minus one, the values that must agree, who has issued, mismatch seen (R305) -/
  np      : Nat := 0
  values  : List Word := []
  issued  : List Nat := []
  clash   : Bool := false
  started : Bool := true
  /-- stopped at a page being serviced, and pages whose service failed (R303) -/
  service : Option Addr := none
  failed  : List Addr := []
  /-- how a CFETCH ends, once its segment is loaded, has failed to load, or found no slot (R31, R312) -/
  ended   : Option Ended := none
  /-- what the ranks of a collective sent, once it has come (R315) -/
  arrived : Option Arrival := none
  deriving DecidableEq, Repr

/-- A quad (R74 to R80). -/
structure Quad where
  /-- unfrozen cycles counted up to `clk`, the cycle from which the quad can issue -/
  now    : Nat := 0
  clk    : Nat := 0
  /-- stream that issued last (R77), and its code address then (R517) -/
  last   : Option (Nat × Nat) := none
  lastPc : Word := 0
  /-- one more than the cycle in which a split last issued (R517) -/
  lastAt : Nat := 0
  /-- the lane instruction in its beats lets its split's scalars co-issue (R75) -/
  window : Bool := false
  /-- cycles for which the quad freezes from `beatEnd` on (R129, R222) -/
  owed   : Nat := 0
  /-- cycle after the last beat, or after the issue, of the last instruction -/
  beatEnd : Nat := 0
  /-- cycles for which a pop has frozen the quad (R80) -/
  popFor : Nat := 0
  /-- cycle from which the affine address engine can issue (R320) -/
  affClk : Nat := 0
  /-- stochastic instructions issued on the quad, mod 2^32 (R164) -/
  count  : Word := 0
  deriving DecidableEq, Repr

/-- A logical core (R12). -/
structure Core where
  released : Bool := false
  slots    : AMap Slot := []
  l1       : AMap Line := []
  l1seq    : Nat := 0
  tlb      : List TlbEntry := []
  copies   : List CopyOp := []
  eng0     : List MatOp := []
  eng1     : List MatOp := []
  quads    : AMap Quad := []
  /-- groups queued in the Paddock, in the order they became ready or were queued (R206) -/
  paddock  : List Nat := []
  /-- phases that have become ready, oldest first -/
  ready    : List Nat := []
  /-- phases whose records are in the HBM phase area, and those of them whose records have been fetched (R187, R207) -/
  phaseOut : List Nat := []
  /-- lines of the write-outs of its Hayloft on their way to HBM, oldest first (R187) -/
  outgoing : List Nat := []
  fetched  : List Nat := []
  /-- TIME when FREEZE began to hold the copy engine (R422) -/
  frozenAt : Option Addr := none
  /-- the 100 ms for which FREEZE holds the copy engine are over (R422) -/
  thawed   : Bool := false
  /-- marked for in-field scan; scanning (R494, R508) -/
  marked   : Bool := false
  scanning : Bool := false
  scanFails : Nat := 0
  /-- a scan that was begun and has not passed; TIME when the core was last scanned (R508, R509) -/
  scanDue  : Bool := false
  scanned  : Addr := 0
  /-- TIMEs of the last 16 replays, oldest first (R494) -/
  replays  : List Addr := []
  offline  : Bool := false
  deriving DecidableEq, Repr

/-! ### Contexts -/

/-- A delta directory entry (R372). -/
structure DEntry where
  tag     : Word := 0
  strm    : Word := 0
  wid     : Nat := 0
  ks      : Nat := 0
  wseen   : Word := 0
  cnt     : Nat := 0
  /-- the tenant's CTXID -/
  ctx     : Nat := 0
  used    : Bool := false
  busy    : Bool := false
  drift   : Bool := false
  refnext : Bool := false
  dead    : Bool := false
  gen     : Nat := 0
  xaddr   : Addr := 0
  yaddr   : Addr := 0
  last    : Addr := 0
  deriving DecidableEq, Repr

/-- An estate (R185): pending, or open. -/
structure Estate where
  ns      : Word
  ident   : Word
  tags    : Word
  regs    : List Word
  isOpen  : Bool := false
  pinned  : Bool := false
  lost    : Bool := false
  launch  : Nat
  /-- bequeather (TeamLin, GIX, lane), the replacement order of R191, and its group -/
  lin     : Nat
  gix     : Nat
  lane    : Nat
  group   : Nat
  /-- core whose Hayloft holds it; none: the HBM estate area -/
  core    : Option Nat
  /-- its line of the HBM estate area, when no Hayloft holds it -/
  slot    : Option Nat := none
  /-- order of the bequests (R187) -/
  stamp   : Nat := 0
  /-- moved by a claim in flight (R199), and the number of that claim -/
  moving  : Bool := false
  mover   : Nat := 0
  /-- taken by this lease close in progress, no longer open to any launch (R192) -/
  closing : Option Nat := none
  deriving DecidableEq, Repr

/-- A context (R457). -/
structure Ctx where
  live    : Bool := false
  /-- being destroyed (R458) -/
  dying   : Bool := false
  part    : Nat := 0
  ptroot  : Addr := 0
  tidt    : Addr := 0
  ddira   : Addr := 0
  ringt   : Addr := 0
  trapb   : Addr := 0
  trapl   : Nat := 0
  trapn   : Word := 0
  trapc   : Word := 0
  savea   : Addr := 0
  saves   : Nat := 0
  esta    : Addr := 0
  ests    : Nat := 0
  phsa    : Addr := 0
  phss    : Nat := 0
  ctlw    : Word := 0
  dbgw    : Word := 0
  ctxerr  : Word := 0
  tids    : AMap Tid := []
  ddir    : AMap DEntry := []
  estates : List Estate := []
  /-- images in the save area and records in the phase area: (offset, size), by group -/
  saved   : AMap (Nat × Nat) := []
  phased  : AMap (Nat × Nat) := []
  /-- trap records that wait for room, oldest first: group, bytes, and whether they interrupt no one (R405, R409) -/
  recWait : List (Nat × List Byte × Bool) := []
  deriving DecidableEq, Repr

/-- A write of the part's own that waits for its page to be zeroed (R255): the context, the bytes from an address of one page, and
the core whose L1 it passes, and the group that issued it, 0 for none. -/
structure HeldWrite where
  ctx   : Nat
  va    : Addr
  bytes : List Byte
  core  : Option Nat
  group : Nat := 0
  deriving DecidableEq, Repr

/-! ### Launches -/

/-- One `.heir` line (R461). -/
structure Heir where
  map : Word
  tagw : Word
  vs  : Nat
  ca  : Word
  cb  : Word
  cc  : Word
  cd  : Word
  deriving DecidableEq, Repr

/-- A segment table entry (R28). -/
structure Seg where
  base    : Addr
  len     : Nat
  preload : Bool
  deriving DecidableEq, Repr

/-- A kernel header (R460), with its tables. -/
structure Kernel where
  segs   : List Seg := []
  entry  : Word := 0
  aentry : Word := 0
  regs   : Nat := 8
  pool   : Nat := 0
  team   : Nat := 1
  span   : Nat := 1
  scr    : Nat := 0
  nbar   : Nat := 1
  nsbar  : Nat := 0
  slices2 : Bool := false
  repro  : Bool := false
  rerun  : Bool := false
  phased : Bool := false
  prio   : Nat := 4
  carry  : Nat := 0
  resid  : Nat := 1
  roles  : List Nat := [1]
  willk  : Option Nat := none
  tids   : List Nat := []
  heirs  : List Heir := []
  deriving DecidableEq, Repr

/-- A casualty (R499). -/
structure Casualty where
  team  : Nat
  gix   : Nat
  lane  : Nat
  cause : Nat
  round : Nat
  time  : Addr
  deriving DecidableEq, Repr

/-- A held ordered contribution (R269): target word, format, key and value. -/
structure Contribution where
  pa    : Nat
  bf16  : Bool
  lin   : Nat
  gix   : Nat
  lane  : Nat
  k     : Nat
  val   : Word
  deriving DecidableEq, Repr

/-- Where a launch came from. -/
inductive Origin where
  | packet (q : Nat) (tag : Word)
  | node (slot n : Nat)
  | corral (session : Nat) (slot : Addr)
  deriving DecidableEq, Repr

/-- The accounting words of a LAUNCH packet (R512) and the queue engine's reading time. -/
structure Acct where
  addr : Addr := 0
  t0   : Addr := 0
  stor : Addr := 0
  proc : Word := 0
  thread : Word := 0
  cap  : Nat := 0
  qt   : Addr := 0
  /-- nanoseconds counted so far: QUEUE, FAULT, SAVED, NET, EXEC (R514) -/
  parts : List Nat := [0, 0, 0, 0, 0]
  seen : Addr := 0
  deriving DecidableEq, Repr

/-- A launch (R462 to R467). The LAUNCH value is its key. -/
structure Launch where
  part    : Nat := 0
  ctx     : Nat := 0
  origin  : Origin := .packet 0 0
  kernel  : Kernel := {}
  ntx     : Nat := 1
  nty     : Nat := 1
  ntz     : Nat := 1
  wi      : Nat := 0
  args    : Cells 32 := []
  argl    : Nat := 0
  seed    : Word := 0
  heirns  : Word := 0
  accn    : Nat := 0
  level   : Nat := 0
  acct    : Acct := {}
  /-- launches whose completion it is ordered after (R190) -/
  after   : List Nat := []
  spans   : Nat := 0
  /-- no further span is placed (R478) -/
  stopped : Bool := false
  killed  : Nat := 0
  fkGix   : Nat := 0
  fkCause : Nat := 0
  fkPc    : Word := 0
  fkTeam  : Nat := 0
  casualties : List Casualty := []
  round   : Nat := 0
  /-- teams to place again in a re-run round, by span (R501) -/
  again   : List Nat := []
  repl    : Nat := 0
  lost    : Nat := 0
  wills   : Nat := 0
  disc    : Nat := 0
  forced  : Nat := 0
  contribs : List Contribution := []
  /-- lines already written to its will area (R216) -/
  willFill : Nat := 0
  /-- lines that each lease close in progress has passed over since the last one written, by close (R216) -/
  willSkip : List (Nat × Nat) := []
  /-- its lease close waits for this page; or the page's service failed and the line is skipped (R216) -/
  leaseWait : Option Addr := none
  leaseSkip : Bool := false
  applied : Bool := false
  done    : Bool := false
  /-- a contribution of it waits for room in the ordered-add area; the area could not be enlarged (R269) -/
  areaWait : Bool := false
  areaFull : Bool := false
  /-- cause of its refusal (R464), 0 for none -/
  refused : Nat := 0
  /-- its record has status cancelled (R458, R478) -/
  cancelled : Bool := false
  /-- the loads that the placement or restore in progress has asked for: 4096 × core + segment (R31, R32) -/
  asked   : List Nat := []
  /-- segments whose load for a placement or a restore failed: core, segment, address, reason (R32) -/
  badSegs : List (Nat × Nat × Addr × Nat) := []
  deriving DecidableEq, Repr

/-! ### Queues, graphs, feeds, the Corral -/

/-- A packet that has started and not completed (R470). -/
structure Packet where
  index  : Nat
  words  : List Word
  /-- its launch, if it is a LAUNCH packet -/
  launch : Option Nat := none
  /-- it has started, and waits for a page that it names to be zeroed (R255) -/
  held   : Bool := false
  /-- the LAUNCH value of a held LAUNCH packet (R463) -/
  number : Option Nat := none
  deriving DecidableEq, Repr

/-- A user queue (R468, R469). -/
structure Queue where
  created : Bool := false
  pring   : Addr := 0
  cmpr    : Addr := 0
  log     : Nat := 1
  clog    : Nat := 1
  floor   : Nat := 0
  runtime : Bool := false
  intr    : Bool := false
  ctx     : Option Nat := none
  script  : List Word := []
  data    : Cells 32 := []
  head    : Word := 0
  tail    : Word := 0
  seq     : Word := 0
  packets : List Packet := []
  stopped : Bool := false
  /-- the doorbells not yet read to their tails, oldest first: the tail, and the context's launches that had completed when it was
  written (R190) -/
  rung    : List (Word × List Nat) := []
  /-- launches of the queue's packets; those that had completed when its last WAIT did; and those that its packets from the last
  BARRIER on are ordered after (R190, R278) -/
  past    : List Nat := []
  waited  : List Nat := []
  ordered : List Nat := []
  deriving DecidableEq, Repr

/-- A graph node record (R482) and its progress in the walk. -/
structure Node where
  type  : Nat
  prio  : Nat
  init  : Nat
  succ  : Nat
  nsucc : Nat
  nelse : Nat
  count : Nat := 0
  payload : List Byte
  /-- 0 waiting, 1 ready, 2 started, 3 completed, 4 skipped -/
  st    : Nat := 0
  /-- incoming edges that were skipped in this walk (R487) -/
  skips : Nat := 0
  /-- the cycle in which it became ready (R492) -/
  entered : Nat := 0
  /-- the launch of a started launch node, and whether it has completed -/
  launch : Option Nat := none
  ended : Bool := false
  /-- a started copy node is stopped at a page being serviced, and pages whose service failed (R303) -/
  service : Option Addr := none
  failed : List Addr := []
  deriving DecidableEq, Repr

/-- A graph slot (R480 to R489). -/
structure Graph where
  nodes   : List Node := []
  /-- (target, is a SIG edge) -/
  edges   : List (Nat × Bool) := []
  ctx     : Nat := 0
  ring    : Addr := 0
  log     : Nat := 1
  seq     : Word := 0
  requests : List Addr := []
  /-- for each request, the context's launches that had completed when it was made; and for the walk in progress, the launches that
  all of its own are ordered after (R190) -/
  asked   : List (List Nat) := []
  base    : List Nat := []
  walking : Bool := false
  walks   : Nat := 0
  faulted : Bool := false
  freeing : Bool := false
  /-- its context is being destroyed (R458) -/
  cancelled : Bool := false
  deriving DecidableEq, Repr

/-- A work feed (R446 to R448); sleepers oldest first: (group, stream, block base). -/
structure Feed where
  created  : Bool := false
  ctx      : Nat := 0
  cap      : Nat := 16
  closed   : Bool := false
  recs     : List (List Word) := []
  sleepers : List (Nat × Stream × Reg) := []
  deriving DecidableEq, Repr

/-- A Corral session (R439). -/
structure Session where
  mode  : Nat := 0
  feed  : Nat := 0
  batch : Nat := 0
  xbase : Nat := 0
  xcnt  : Nat := 0
  ctx   : Nat := 0
  nslot : Nat := 0
  area  : Addr := 0
  tmpl  : Addr := 0
  head  : Word := 0
  deriving DecidableEq, Repr

/-- One record held by a Corral (R450). -/
structure Rec where
  token : Word
  k     : Nat
  gate  : BitVec 16
  deriving DecidableEq, Repr

/-- An emission under way (R443): the slot it took and the step it waits in (2 or 4). -/
structure Emission where
  id      : Nat
  die     : Nat
  session : Nat
  e       : Nat
  recs    : List Rec
  head    : Word
  addr    : Addr
  step    : Nat
  /-- stopped at a page being serviced, and pages whose service failed (R555) -/
  service : Option Addr := none
  failed  : List Addr := []
  deriving DecidableEq, Repr

/-- A Corral's bucket (R442). -/
structure Bucket where
  die     : Nat
  session : Nat
  e       : Nat
  recs    : List Rec
  deriving DecidableEq, Repr

/-- A migration in flight (R434): context, identifier, the RES to return to, group and class operation. -/
structure Migration where
  id    : Nat
  ctx   : Nat
  tid   : Nat
  back  : Nat
  group : Nat
  cls   : Nat
  /-- a residency command waits on it (R429) -/
  claimed : Bool := false
  /-- the identifier's entry that its XBIND read (R347) -/
  entry : Option Tid := none
  deriving DecidableEq, Repr

/-- A command that waits before it completes: which, its packet and its operands. -/
structure Command where
  id    : Nat
  queue : Nat
  index : Nat
  cmd   : Nat
  args  : List Nat
  /-- launches placed when it was issued (R429) -/
  waits : List Nat := []
  deriving DecidableEq, Repr

/-! ### Partitions and the part -/

/-- A watchpoint (R511). -/
structure Watch where
  base : Addr := 0
  len  : Word := 0
  ctx  : Word := 0
  ctl  : Word := 0
  deriving DecidableEq, Repr

/-- A performance counter (R511, R522). -/
structure Pcnt where
  count : Nat := 0
  ovf   : Bool := false
  sel   : Word := 0
  /-- one more than the cycle of the last PCNT write, for the same-cycle rule of R436 -/
  setAt : Nat := 0
  /-- one more than the cycle of the last increments, and how many came in it (R436, R523) -/
  incAt : Nat := 0
  incs  : Nat := 0
  deriving DecidableEq, Repr

/-- A per-expert counter: its count, its overflow flag, and for the same-cycle rule of R436 one more than the cycle of the last
increments, reads or clears, with the increments of that cycle, the flag before it, and the reads made in it: a group and a
result in flight (R437). -/
structure Counter where
  count   : Nat := 0
  ovf     : Bool := false
  at_     : Nat := 0
  incs    : Nat := 0
  was     : Bool := false
  readers : List (Nat × Nat) := []
  deriving DecidableEq, Repr

/-- An entry of a run list: a launch with spans to place, or a saved team to restore (R472, R474). -/
inductive RunEntry where
  | launch (id : Nat)
  | team (id : Nat)
  deriving DecidableEq, Repr

/-- A partition (R17 to R19, R534). -/
structure Part where
  running  : Bool := false
  slots    : List Nat := []
  clusters : List Nat := []
  hbmBase  : Nat := 0
  hbmSize  : Nat := 0
  tierBase : Nat := 0
  tierSize : Nat := 0
  /-- reach table: device number to (peer partition) (R532) -/
  reach    : AMap Nat := []
  queues   : AMap Queue := []
  runlist  : List RunEntry := []
  graphs   : AMap Graph := []
  feeds    : AMap Feed := []
  sessions : AMap Session := []
  buckets  : List Bucket := []
  emissions : List Emission := []
  xpol     : Word := 0
  addArea  : Addr := 0
  addSize  : Nat := 0x4000000
  /-- the runtime has been interrupted to enlarge the area (R269) -/
  addFull  : Bool := false
  quantum  : Nat := 2000
  counters : AMap Counter := []
  migrations : List Migration := []
  commands : List Command := []
  launches : Nat := 0
  nextCtx  : Nat := 1
  watches  : AMap Watch := []
  tbase    : Addr := 0
  tctl     : Word := 0
  tnext    : Word := 0
  rbase    : Addr := 0
  rctl     : Word := 0
  rnext    : Word := 0
  pcnts    : AMap Pcnt := []
  /-- collective sets: devices by rank (13, Collectives) -/
  sets     : AMap (List Nat) := []
  /-- the walker's latest cycle, the events that it has applied in it, and the nodes that it has started (R485, R492) -/
  walkAt   : Nat := 0
  applied  : Nat := 0
  started  : Nat := 0
  deriving DecidableEq, Repr

/-- The part's condition (R15, R22, R538, R539). -/
inductive Power where
  | off | running | managementOnly | clockStopped
  deriving DecidableEq, Repr

/-- A boot journal entry (R539). -/
structure Journal where
  seq     : Nat
  step    : Nat
  part    : Nat
  outcome : Nat
  slot    : Nat
  time    : Addr
  code    : Nat
  /-- the CHECK field -/
  check   : Word := 0
  deriving DecidableEq, Repr

/-- A core map entry (R11, R16). -/
structure CoreMap where
  die     : Nat
  cluster : Nat
  core    : Nat
  offline : Bool
  deriving DecidableEq, Repr

/-- A core map record read from the flash: which copy, its sequence, its digest, its map and the homes (R14). -/
structure MapRecord where
  copy   : Nat
  seq    : Nat
  digest : BitVec 384
  cores  : List CoreMap
  homes  : List Nat
  deriving DecidableEq, Repr

/-- The records that step 2 of the start sequence chooses (R538). -/
structure Records where
  map   : MapRecord
  parts : PartsRecord
  link  : LinkRecord
  deriving DecidableEq, Repr

/-- A start of the part in progress (R538): what it finds, the valid entries of the last attempt, the records chosen, with the outcome
and the slot of that step, and how far it has come. -/
structure Boot where
  flash : Flash
  old   : List Journal
  recs  : Option Records := none
  how   : Nat × Nat := (0, 0)
  at_   : Nat := 0
  deriving DecidableEq, Repr

/-- An HBM row spare in progress or in use: bank, row, spare, serving, and bad spares (R505, R506). -/
structure Spare where
  bank    : Nat
  row     : Nat
  spare   : Nat
  serving : Bool
  bad     : Bool := false
  /-- a byte of the row, whose partition's trace the sparing is written to -/
  pa      : Nat := 0
  deriving DecidableEq, Repr

/-- A response of the management core or the host port, in order (R459, R526, R541). -/
inductive Response where
  | hostRead (bytes : List Byte)
  | peerRead (peer : Nat) (bytes : List Byte)
  | peerDone (peer : Nat)
  | peerError (peer : Nat)
  | spdm (what : Nat) (words : List Nat)
  | digests (ds : List (BitVec 384))
  | certificate (chain : List Byte)
  | measurements (ms : List (Nat × BitVec 384))
  | signature (sig : BitVec 768)
  deriving DecidableEq, Repr

/-- An interrupt raised outwards (R404, R507, R528, R530). -/
inductive Interrupt where
  | msix (part vector : Nat)
  | system (part core : Nat)
  | systemAll (part why : Nat)
  deriving DecidableEq, Repr

/-- The state of the part. Fields `agenda`, `fresh`, `nextId`, `who` are the model's own (log 2, 3 and 4). -/
structure State where
  power    : Power := .off
  clk      : Addr := 0
  time     : Addr := 0
  mem      : List Host.Cell := []
  poison   : List Nat := []
  /-- RSP release records by line: sequence number by releasing core (R262, R282) -/
  relRecs  : AMap (AMap Nat) := []
  /-- TLBs of the logical clusters' homes (R13, R253) -/
  clusterTlbs : AMap (List TlbEntry) := []
  /-- writes of the part's own that wait for a page to be zeroed, oldest first (R255) -/
  heldWrites : List HeldWrite := []
  parts    : AMap Part := []
  ctxs     : AMap Ctx := []
  launches : AMap Launch := []
  spans    : AMap Span := []
  teams    : AMap Team := []
  groups   : AMap Group := []
  cores    : AMap Core := []
  /-- physical numbers of the HBM stacks that serve, ascending (R245) -/
  serving  : List Nat := []
  /-- the second tier's size in GB (R529) -/
  tierGb   : Nat := 0
  /-- ports of the second tier's interleave, by residue (R529) -/
  tierPorts : List Nat := []
  tierDown : List Nat := []
  /-- the device's own number (R532) -/
  device   : Nat := 0
  /-- the ports that reach each peer (R531) -/
  paths    : AMap (BitVec 12) := []
  ports    : BitVec 12 := 0
  /-- sectors of host or peer memory whose next request completes with an error (R527) -/
  hostErr  : List Nat := []
  hostUp   : Bool := false
  powerLimit : Nat := 4500
  throttled : Bool := false
  hot      : Bool := false
  meas     : Cells 384 := []
  /-- the SHA-384 hash of the root key, which is in ROM (R536) -/
  rootHash : BitVec 384 := 0
  /-- what the configuration flash holds: the images, the records and the minimum versions, from the first start on; none before (R11,
  R534, R536) -/
  flash    : Option Flash := none
  /-- the start in progress (R538, R542) -/
  boot     : Option Boot := none
  journal  : List Journal := []
  attempt  : Nat := 0
  coreMap  : AMap CoreMap := []
  /-- home physical cluster of each logical cluster (R13) -/
  homes    : List Nat := []
  mapSeq   : Nat := 0
  /-- the copies of the core map record in the configuration flash that the part has rewritten, and the copy in use
  (R11, R15, R16) -/
  mapFlash : AMap (List Byte) := []
  mapCopy  : Nat := 0
  badSpares : List (Nat × Nat × Nat) := []
  spares   : List Spare := []
  /-- pages waiting for retirement, and pages released (R507) -/
  retire   : List Nat := []
  interrupts : List Interrupt := []
  responses : List Response := []
  /-- events due before the next instruction issues, first first -/
  agenda   : List Instr := []
  fresh    : Nat := 0
  nextId   : Nat := 1
  /-- the group and stream that issue -/
  who      : Nat × Stream := (0, .split 0)
  deriving DecidableEq, Repr

/-- The number w of HBM stacks that serve (R245). -/
def State.hbmStacks (s : State) : Nat := s.serving.length

/-- A peer is reachable: some working port reaches it (R531, R532). -/
def State.reaches (s : State) (d : Nat) : Bool := ((s.paths.find? fun e => e.1 == d).map (·.2)).getD 0 &&& s.ports != 0

/-- Why the machine stops. Raised by `step` only. -/
inductive Fault where
  /-- the part is not running: off, clock stopped at 115 °C (R22), or power lost (R539). Safe: the hardware
  executes nothing then. -/
  | notRunning
  deriving DecidableEq, Repr

/-- Why an instruction has no meaning. -/
inductive Refusal where
  /-- an instruction the model does not give a meaning to. Safe. -/
  | notModelled (mnemonic : String)
  deriving DecidableEq, Repr

/-- The outcome of one step or one instruction. -/
abbrev Out := Host.Outcome State Fault Refusal

/-- The part right after reset: off, with every field at the value INVENTORY.md names. -/
def State.reset : State := {}

end Sys2Proof.Machine
end

