-- ==== Sys2Proof/Machine/Crypto.lean ====
section
/-! DEFINITION. The functions that the start sequence and the boot journal name from outside the spec: SHA-384, ECDSA verification on
the curve brainpoolP384r1, and CRC-32 (R535 to R539). PRESUMED: FIPS 180-4, RFC 5639 and the CRC of IEEE 802.3 (log 60). -/

namespace Sys2Proof.Machine
open Sys2Proof

/-! ### SHA-384 (R536, R537) -/

/-- A word of the hash. -/
abbrev HashWord := BitVec 64

/-- The constants of the 80 rounds. -/
def roundKeys : List (BitVec 64) :=
  [0x428A2F98D728AE22, 0x7137449123EF65CD, 0xB5C0FBCFEC4D3B2F, 0xE9B5DBA58189DBBC,
    0x3956C25BF348B538, 0x59F111F1B605D019, 0x923F82A4AF194F9B, 0xAB1C5ED5DA6D8118,
    0xD807AA98A3030242, 0x12835B0145706FBE, 0x243185BE4EE4B28C, 0x550C7DC3D5FFB4E2,
    0x72BE5D74F27B896F, 0x80DEB1FE3B1696B1, 0x9BDC06A725C71235, 0xC19BF174CF692694,
    0xE49B69C19EF14AD2, 0xEFBE4786384F25E3, 0x0FC19DC68B8CD5B5, 0x240CA1CC77AC9C65]
  ++ [0x2DE92C6F592B0275, 0x4A7484AA6EA6E483, 0x5CB0A9DCBD41FBD4, 0x76F988DA831153B5,
    0x983E5152EE66DFAB, 0xA831C66D2DB43210, 0xB00327C898FB213F, 0xBF597FC7BEEF0EE4,
    0xC6E00BF33DA88FC2, 0xD5A79147930AA725, 0x06CA6351E003826F, 0x142929670A0E6E70,
    0x27B70A8546D22FFC, 0x2E1B21385C26C926, 0x4D2C6DFC5AC42AED, 0x53380D139D95B3DF,
    0x650A73548BAF63DE, 0x766A0ABB3C77B2A8, 0x81C2C92E47EDAEE6, 0x92722C851482353B]
  ++ [0xA2BFE8A14CF10364, 0xA81A664BBC423001, 0xC24B8B70D0F89791, 0xC76C51A30654BE30,
    0xD192E819D6EF5218, 0xD69906245565A910, 0xF40E35855771202A, 0x106AA07032BBD1B8,
    0x19A4C116B8D2D0C8, 0x1E376C085141AB53, 0x2748774CDF8EEB99, 0x34B0BCB5E19B48A8,
    0x391C0CB3C5C95A63, 0x4ED8AA4AE3418ACB, 0x5B9CCA4F7763E373, 0x682E6FF3D6B2B8A3,
    0x748F82EE5DEFB2FC, 0x78A5636F43172F60, 0x84C87814A1F0AB72, 0x8CC702081A6439EC]
  ++ [0x90BEFFFA23631E28, 0xA4506CEBDE82BDE9, 0xBEF9A3F7B2C67915, 0xC67178F2E372532B,
    0xCA273ECEEA26619C, 0xD186B8C721C0C207, 0xEADA7DD6CDE0EB1E, 0xF57D4F7FEE6ED178,
    0x06F067AA72176FBA, 0x0A637DC5A2C898A6, 0x113F9804BEF90DAE, 0x1B710B35131C471B,
    0x28DB77F523047D84, 0x32CAAB7B40C72493, 0x3C9EBE0A15C9BEBC, 0x431D67C49C100D4C,
    0x4CC5D4BECB3E42B6, 0x597F299CFC657E2A, 0x5FCB6FAB3AD6FAEC, 0x6C44198C4A475817]

/-- The eight words that the hash begins with. -/
def hashStart : List (BitVec 64) :=
  [0xCBBB9D5DC1059ED8, 0x629A292A367CD507, 0x9159015A3070DD17, 0x152FECD8F70E5939,
    0x67332667FFC00B31, 0x8EB44A8768581511, 0xDB0C2E0D64F98FA7, 0x47B5481DBEFA4FA4]

def rotr (x : HashWord) (n : Nat) : HashWord := (x >>> n) ||| (x <<< (64 - n))

/-- The word that the message schedule gives after sixteen others. -/
def nextWord (w : List HashWord) : HashWord :=
  let a := w.getD 1 0
  let b := w.getD 14 0
  (rotr b 19 ^^^ rotr b 61 ^^^ (b >>> 6)) + w.getD 9 0 + (rotr a 1 ^^^ rotr a 8 ^^^ (a >>> 7)) + w.getD 0 0

/-- One round, over the eight words of the state and the next sixteen of the schedule. -/
def hashRound (x : List HashWord × List HashWord) (k : HashWord) : List HashWord × List HashWord :=
  match x.1 with
  | [a, b, c, d, e, f, g, h] =>
    let t1 := h + (rotr e 14 ^^^ rotr e 18 ^^^ rotr e 41) + ((e &&& f) ^^^ (~~~ e &&& g)) + k + x.2.getD 0 0
    let t2 := (rotr a 28 ^^^ rotr a 34 ^^^ rotr a 39) + ((a &&& b) ^^^ (a &&& c) ^^^ (b &&& c))
    ([t1 + t2, a, b, c, d + t1, e, f, g], x.2.drop 1 ++ [nextWord x.2])
  | _ => x

/-- The number that bytes make, the first the most significant. -/
def beNat (bs : List Byte) : Nat := bs.foldl (fun n b => n * 256 + b.toNat) 0

/-- The n bytes of a number, the most significant first. -/
def beBytes (v n : Nat) : List Byte := (List.range n).map fun i => BitVec.ofNat 8 (v / 256 ^ (n - 1 - i))

/-- The state after one block of 128 bytes. -/
def hashBlock (h : List HashWord) (block : List Byte) : List HashWord :=
  let ws : List HashWord := (List.range 16).map fun i => BitVec.ofNat 64 (beNat ((block.drop (8 * i)).take 8))
  (h.zip (roundKeys.foldl hashRound (h, ws)).1).map fun p => p.1 + p.2

/-- A message with its padding. -/
def padded (bs : List Byte) : List Byte :=
  bs ++ [0x80] ++ List.replicate ((239 - bs.length % 128) % 128) 0 ++ beBytes (8 * bs.length) 16

/-- SHA-384 of bytes; the first byte of the digest is its most significant. -/
def sha384 (bs : List Byte) : BitVec 384 :=
  let m := padded bs
  let h := (List.range (m.length / 128)).foldl (fun h i => hashBlock h ((m.drop (128 * i)).take 128)) hashStart
  BitVec.ofNat 384 ((h.take 6).foldl (fun n w => n * 2 ^ 64 + w.toNat) 0)

/-- The 48 bytes of a digest. -/
def digestBytes (d : BitVec 384) : List Byte := beBytes d.toNat 48

/-! ### CRC-32 (R539) -/

/-- One bit of the division. -/
def crcBit (c : Word) : Word := if c.getLsbD 0 then (c >>> 1) ^^^ 0xEDB88320 else c >>> 1

/-- CRC-32 of bytes. -/
def crc32 (bs : List Byte) : Word :=
  ~~~ (bs.foldl (fun c b => (List.range 8).foldl (fun c _ => crcBit c) (c ^^^ b.setWidth 32)) 0xFFFFFFFF)

/-! ### ECDSA on brainpoolP384r1 (R14, R535, R536) -/

/-- The field, the curve's coefficient a, the order of its base point, and that point. -/
def fieldP : Nat := 0x8CB91E82A3386D280F5D6F7E50E641DF152F7109ED5456B412B1DA197FB71123ACD3A729901D1A71874700133107EC53
def curveA : Nat := 0x7BC382C63D8C150C3C72080ACE05AFA0C2BEA28E4FB22787139165EFBA91F90F8AA5814A503AD4EB04A8C7DD22CE2826
def curveB : Nat := 0x04A8C7DD22CE28268B39B55416F0447C2FB77DE107DCD2A62E880EA53EEB62D57CB4390295DBC9943AB78696FA504C11
def curveN : Nat := 0x8CB91E82A3386D280F5D6F7E50E641DF152F7109ED5456B31F166E6CAC0425A7CF3AB6AF6B7FC3103B883202E9046565
def baseX : Nat := 0x1D1C64F068CF45FFA2A63A81B7C13F6B8847A3E77EF14FE3DB7FCAFE0CBD10E8E826E03436D646AAEF87B2E247D4AF1E
def baseY : Nat := 0x8ABE1D7520F9C2A45CB1EB8E95CFD55262B70B29FEEC5864E19C054FF99129280E4646217791811142820341263C5315

/-- x to the e modulo m, for an exponent of at most `bits` bits. -/
def powMod (m : Nat) : Nat → Nat → Nat → Nat
  | 0, _, _ => 1 % m
  | bits + 1, x, e =>
    let r := powMod m bits (x * x % m) (e / 2)
    if e % 2 = 1 then r * x % m else r

/-- The inverse modulo a prime. -/
def invMod (m x : Nat) : Nat := powMod m 384 (x % m) (m - 2)

/-- A point: x / z² and y / z³, or the point at infinity where z is 0. -/
structure CurvePoint where
  x : Nat
  y : Nat
  z : Nat
  deriving DecidableEq, Repr

/-- a − b in the field. -/
def subP (a b : Nat) : Nat := (a + fieldP - b % fieldP) % fieldP

/-- Twice a point. -/
def doubleP (u : CurvePoint) : CurvePoint :=
  let y2 := u.y * u.y % fieldP
  let s := 4 * u.x * y2 % fieldP
  let z2 := u.z * u.z % fieldP
  let m := (3 * u.x * u.x + curveA * (z2 * z2 % fieldP)) % fieldP
  let x := subP (m * m) (2 * s)
  { x := x, y := subP (m * subP s x) (8 * y2 * y2), z := 2 * u.y * u.z % fieldP }

/-- The sum of two points. -/
def addP (u v : CurvePoint) : CurvePoint :=
  if u.z = 0 then v
  else if v.z = 0 then u
  else
    let uz := u.z * u.z % fieldP
    let vz := v.z * v.z % fieldP
    let u1 := u.x * vz % fieldP
    let s1 := u.y * (vz * v.z % fieldP) % fieldP
    let h := subP (v.x * uz) u1
    let r := subP (v.y * (uz * u.z % fieldP)) s1
    if h = 0 then (if r = 0 then doubleP u else { x := 1, y := 1, z := 0 })
    else
      let h2 := h * h % fieldP
      let h3 := h2 * h % fieldP
      let w := u1 * h2 % fieldP
      let x := subP (r * r) (h3 + 2 * w)
      { x := x, y := subP (r * subP w x) (s1 * h3), z := h * (u.z * v.z % fieldP) % fieldP }

/-- k times a point, k of at most `bits` bits. -/
def timesP : Nat → Nat → CurvePoint → CurvePoint
  | 0, _, _ => { x := 1, y := 1, z := 0 }
  | bits + 1, k, u =>
    let r := doubleP (timesP bits (k / 2) u)
    if k % 2 = 1 then addP r u else r

/-- A point lies on the curve. -/
def onCurve (x y : Nat) : Bool :=
  decide (x < fieldP) && decide (y < fieldP) && y * y % fieldP == (x * x * x + curveA * x + curveB) % fieldP

/-- The signature of a digest, r in the upper half and s in the lower, verifies with a public key, x in the upper half and y in the
lower. -/
def ecdsaVerifies (key : BitVec 768) (digest : BitVec 384) (sig : BitVec 768) : Bool :=
  let x := key.toNat / 2 ^ 384
  let y := key.toNat % 2 ^ 384
  let r := sig.toNat / 2 ^ 384
  let s := sig.toNat % 2 ^ 384
  onCurve x y && decide (1 ≤ r) && decide (r < curveN) && decide (1 ≤ s) && decide (s < curveN)
    && (let w := invMod curveN s
        let p := addP (timesP 384 (digest.toNat * w % curveN) { x := baseX, y := baseY, z := 1 })
          (timesP 384 (r * w % curveN) { x := x, y := y, z := 1 })
        p.z != 0 && r == p.x * (let i := invMod fieldP p.z; i * i % fieldP) % fieldP % curveN)

/-- The public key of a private one. -/
def publicKey (d : BitVec 384) : BitVec 768 :=
  let p := timesP 384 (d.toNat % curveN) { x := baseX, y := baseY, z := 1 }
  let i := invMod fieldP p.z
  BitVec.ofNat 768 (p.x * (i * i % fieldP) % fieldP * 2 ^ 384 + p.y * (i * i % fieldP * i % fieldP) % fieldP)

end Sys2Proof.Machine
end

