-- ==== Sys2Proof/WellFormed.lean ====
section
/-! DEFINITION. Which encodings are legal (R43): the reserved fields, types, minors, register classes and ranges of
each instruction's entry. An event has no encoding. -/

namespace Sys2Proof

/-- A pair is named by its even register (R42, R102). -/
def even (r : Reg) : Bool := !(r.getLsbD 0)

/-- A mask triple's base is even and at most 60 (R103). -/
def triple (r : Reg) : Bool := even r && r != 62

/-- A field that may not name a queue (R42). -/
def vreg (r : Reg) : Bool := decide (r.toNat ≤ 59)

/-- The first of n vector registers: a multiple of n, ending at v59 or below (R226, R265). -/
def vspan (r : Reg) (n : Nat) : Bool := decide (r.toNat % n = 0) && decide (r.toNat + n ≤ 60)

def pairIf (c : Bool) (r : Reg) : Bool := !c || even r

/-- D and A name pairs when TY is .s64 or .n64 (R107). -/
def Head.wide2 (f : Head) : Bool := decide (f.ty.toNat < 2) || (even f.d && even f.a)

/-- D, A and B name pairs when TY is .s64 or .n64 (R107). -/
def Head.wide3 (f : Head) : Bool := decide (f.ty.toNat < 2) || (even f.d && even f.a && even f.b)

/-- TY, POS and SAT of each conversion kind (the table before R177). -/
def cvtLegal (k : BitVec 3) (f : Head) : Bool :=
  let pos := f.b.extractLsb' 1 2
  let sat := f.b.getLsbD 0
  f.b.extractLsb' 3 3 == 0 &&
  match k.toNat with
  | 0 | 1 => pos == 0 && !sat
  | 2 | 4 => decide (pos.toNat ≤ 1) && vreg f.d
  | 3 | 5 => f.ty == 0 && decide (pos.toNat ≤ 1) && !sat
  | 6 => !sat && vreg f.d
  | _ => vreg f.d

/-- R182, for VQBLK (q) and VDQBLK. -/
def blkLegal (q : Bool) (f : Head) (t : Word) : Bool :=
  let fmt := (t.extractLsb' 0 3).toNat
  even f.b && t.extractLsb' 8 24 == 0 && decide (fmt ≤ 3) && (decide (fmt = 3) || decide ((t.extractLsb' 3 3).toNat ≤ 3))
    && (!(t.getLsbD 6) || (q && decide (fmt = 1))) && (!(t.getLsbD 7) || (q && decide (fmt = 3) && f.ty == 0))
    && (q || f.ty == 0)

/-- R268. -/
def atomLegal (k : BitVec 3) (f : Head) (t : Word) : Bool :=
  let ord := (t.extractLsb' 29 3).toNat
  let scope := (t.extractLsb' 26 3).toNat
  let c := t.extractLsb' 16 6
  let v := t.extractLsb' 10 6
  let wide := decide (2 ≤ f.ty.toNat)
  vreg f.d && vreg v && vreg c && even f.b && pairIf wide f.d && pairIf wide v && pairIf wide c
    && (!(t.getLsbD 22) || f.d == 0) && (k == 7 || c == 0) && decide (ord ≤ 4) && decide (scope ≤ 4)
    && t.extractLsb' 8 2 != 3 && (!(t.getLsbD 25) || (ord != 0 && ord != 2 && decide (2 ≤ scope)))
    && t.extractLsb' 23 2 == 0 && t.extractLsb' 0 8 == 0

/-- R229. -/
def atomsLegal (k : BitVec 3) (f : Head) (t : Word) : Bool :=
  let c := t.extractLsb' 16 6
  f.ty != 3 && (decide (k.toNat ≤ 2) || f.ty != 2) && vreg f.d && vreg c && (!(t.getLsbD 22) || f.d == 0)
    && (k == 7 || c == 0) && t.extractLsb' 23 9 == 0 && t.extractLsb' 10 6 == 0

/-- TY and barrier number of major 0x28 (R237). -/
def bar (f : Head) : Bool := f.ty == 0 || (f.ty == 1 && decide (f.a.toNat ≤ 15))

/-- A block count of 1 to 13 (R145). -/
def blocks (r : Reg) : Bool := r != 0 && decide (r.toNat ≤ 13)

/-- A register bitmap of 1 to 8 registers (R215). -/
def bitmap (t : Word) : Bool :=
  let n := ((List.range 32).filter fun i => t.getLsbD i).length
  decide (1 ≤ n) && decide (n ≤ 8)

/-- Special registers an SRD may read (R69, R116 to R118 and the chapters' tables). -/
def readable (n : BitVec 12) : Bool :=
  let n := n.toNat
  decide (n ≤ 0x00E) || (decide (0x010 ≤ n) && decide (n ≤ 0x013)) || n == 0x040 || n == 0x041 || n == 0x048
    || (decide (0x080 ≤ n) && decide (n ≤ 0x082)) || (decide (0x0C0 ≤ n) && decide (n ≤ 0x0C2))
    || (decide (0x100 ≤ n) && decide (n ≤ 0x102)) || n == 0x140 || n == 0x141 || n == 0x180 || n == 0x181
    || (decide (0x1C0 ≤ n) && decide (n ≤ 0x1C2)) || n == 0x200 || n == 0x202 || n == 0x240 || n == 0x241

/-- Special registers whose access is read/write. -/
def writable (n : BitVec 12) : Bool :=
  let n := n.toNat
  n == 0x100 || n == 0x101 || n == 0x140 || n == 0x141 || n == 0x180 || n == 0x200 || n == 0x202 || n == 0x240

/-- The special register whose access is "runtime": SWR traps PRIV (R116). -/
def runtimeOnly (n : BitVec 12) : Bool := n.toNat == 0x1C2

/-- NPM1 of the common tail of majors 0x30 and 0x31. -/
def np (t : Word) : BitVec 5 := t.extractLsb' 19 5

/-- XF of the common tail. -/
def xf (t : Word) : BitVec 10 := t.extractLsb' 0 10

/-- FMT of a collective. -/
def fmt3 (t : Word) : BitVec 3 := t.extractLsb' 0 3

/-- BNUM of the common tail: 0 when BAR is clear, at most 15 with BSP (R317). -/
def tailLegal (t : Word) : Bool :=
  let bnum := (t.extractLsb' 11 6).toNat
  (t.getLsbD 18 || bnum == 0) && (!(t.getLsbD 17) || decide (bnum ≤ 15))

/-- What every collective's encoding has in common (R313 to R317). -/
def colLegal (f : Head) (t : Word) : Bool :=
  tailLegal t && np t == 0 && t.extractLsb' 3 7 == 0 && even f.d && even f.a && even f.b

/-- A TIDQ selector that is not reserved (R349). -/
def selector (r : Reg) : Bool :=
  let n := r.toNat
  decide (n ≤ 10) || (decide (16 ≤ n) && decide (n ≤ 27)) || (decide (32 ≤ n) && decide (n ≤ 55))

/-- MLOOP and MLOOPD: A at most 55, TY 0 or 1, tail bits [31:17] zero. -/
def loopLegal (f : Head) (t : Word) : Bool :=
  decide (f.a.toNat ≤ 55) && decide (f.ty.toNat < 2) && t.extractLsb' 17 15 == 0

/-- The engine tail: E in bit 16, H in bit 0, all else zero. -/
def engTail (t : Word) : Bool := t.extractLsb' 17 15 == 0 && t.extractLsb' 1 15 == 0

/-- ACCDRN (R370). -/
def drnLegal (f : Head) (t : Word) : Bool :=
  let fmt := (t.extractLsb' 0 3).toNat
  decide (f.ty.toNat < 2) && t.extractLsb' 17 15 == 0 && t.extractLsb' 8 8 == 0 && decide (fmt ≤ 5)
    && pairIf (f.ty == 0) f.d && pairIf (f.ty == 0) f.b && (decide (fmt < 4) || f.b == 0)
    && (!(t.getLsbD 6) || fmt == 1) && (!(t.getLsbD 5) || (fmt == 3 && t.extractLsb' 3 2 == 0))

/-- A feed operand's high field: F[11:8] is zero (R455). -/
def feed (r : Reg) : Bool := decide (r.toNat < 4)

/-- The base of a block of 16 registers (R449, R455). -/
def block (r : Reg) : Bool := decide (r.toNat % 8 = 0) && decide (8 ≤ r.toNat) && decide (r.toNat + 15 ≤ 60)

/-- The encoding of `i` is legal (R43). Events and the decode of an illegal encoding have no encoding. -/
def Instr.wellFormed (i : Instr) : Bool :=
  match i with
  | .vmov_16 f => vreg f.d
  | .vadd_16 f => vreg f.d
  | .vsub_16 f => vreg f.d
  | .vmul_16 f => vreg f.d
  | .vmin_16 f => vreg f.d
  | .vmax_16 f => vreg f.d
  | .vand_16 f => vreg f.d
  | .vor_16 f => vreg f.d
  | .vxor_16 f => vreg f.d
  | .vshl_16 f => vreg f.d
  | .vshr_16 f => vreg f.d
  | .vfadd_16 f => vreg f.d
  | .vfsub_16 f => vreg f.d
  | .vfmul_16 f => vreg f.d
  | .vfmin_16 f => vreg f.d
  | .vfmax_16 f => vreg f.d
  | .sadd f => f.wide3
  | .ssub f => f.wide3
  | .smul f => f.wide3
  | .smulh f => f.wide3
  | .sand f => f.wide3
  | .sor f => f.wide3
  | .sxor f => f.wide3
  | .sshl f => f.wide3
  | .sshr f => f.wide3
  | .ssra f => f.wide3
  | .smin f => f.wide3
  | .smax f => f.wide3
  | .ssel f => f.wide3
  | .sbfx f => f.wide3
  | .sbfi f => f.wide3
  | .smov f => f.b == 0 && f.wide2
  | .saddImm f => f.wide2
  | .ssubImm f => f.wide2
  | .smulImm f => f.wide2
  | .smulhImm f => f.wide2
  | .sandImm f => f.wide2
  | .sorImm f => f.wide2
  | .sxorImm f => f.wide2
  | .sshlImm f => f.wide2 && decide (f.b.toNat < 32)
  | .scmp k f => decide (k.toNat ≤ 6) && (decide (f.ty.toNat < 2) || (even f.a && even f.b))
  | .spopc f => f.b == 0 && (decide (f.ty.toNat < 2) || even f.a)
  | .sclz f => f.b == 0 && (decide (f.ty.toNat < 2) || even f.a)
  | .sffs f => f.b == 0 && (decide (f.ty.toNat < 2) || even f.a)
  | .srev f => f.b == 0 && f.wide2
  | .sli _ => true
  | .slix k f _ => f.a == 0 && f.b == 0 && f.ty == 0 && decide (k.toNat ≤ 3) && (k == 0 || even f.d)
  | .sld_32 f => decide (f.ty.toNat ≤ 1) && even f.a
  | .sld_64 f => decide (f.ty.toNat ≤ 1) && even f.a && even f.d
  | .sst_32 f => decide (f.ty.toNat ≤ 1) && even f.a
  | .sst_64 f => decide (f.ty.toNat ≤ 1) && even f.a && even f.d
  | .sldk f => decide (f.ty.toNat ≤ 1) && (f.ty == 0 || (even f.d && even f.b))
  | .bra f => f.s == 0
  | .brz _ => true
  | .brnz _ => true
  | .call _ => true
  | .sdbnz f => f.s != 0
  | .bany f => triple f.s
  | .ball f => triple f.s
  | .jmpr f => f.b == 0 && f.d == 0 && f.ty == 0
  | .ret f => f.b == 0 && f.d == 0 && f.ty == 0
  | .jfnc f => f.b == 0 && f.ty == 0
  | .exit f => f.b == 0 && f.a == 0 && f.d == 0 && f.ty == 0
  | .trap f => f.a == 0 && f.d == 0 && f.ty == 0
  | .bkpt f => f.a == 0 && f.d == 0 && f.ty == 0
  | .nops f => f.b != 0 && f.a == 0 && f.d == 0 && f.ty == 0
  | .vbr f => triple f.s
  | .vbrn f => triple f.s
  | .vbrk f => triple f.s && f.off == 0
  | .jtok f => f.s == 0
  | .join f => f.s == 0 && f.off == 0
  | .waite f => f.a == 0 && f.d == 0
  | .fence f => f.a == 0 && f.d == 0 && decide (f.b.toNat ≤ 4)
  | .idem f => f.b == 0 && f.a == 0 && f.d == 0 && f.ty == 0
  | .phint f _ _ => f.ty == 0 && decide (f.d.toNat < 32)
  | .vadd _ => true
  | .vsub _ => true
  | .vmul _ => true
  | .vmulh _ => true
  | .vmin _ => true
  | .vmax _ => true
  | .vabs f => f.b == 0
  | .vmad f => vreg f.d
  | .vand f => f.ty != 3
  | .vor f => f.ty != 3
  | .vxor f => f.ty != 3
  | .vshl f => f.ty != 3
  | .vshr f => f.ty != 3
  | .vsra f => f.ty != 3
  | .vpopc f => f.ty != 3 && f.b == 0
  | .vclz f => f.ty != 3 && f.b == 0
  | .vaddImm _ => true
  | .vsubImm _ => true
  | .vmulImm _ => true
  | .vmulhImm _ => true
  | .vminImm _ => true
  | .vmaxImm _ => true
  | .vmadImm f => vreg f.d
  | .vandImm f => f.ty != 3
  | .vorImm f => f.ty != 3
  | .vxorImm f => f.ty != 3
  | .vshlImm f => f.ty != 3 && decide (f.b.toNat < 32 >>> f.ty.toNat)
  | .vshrImm f => f.ty != 3 && decide (f.b.toNat < 32 >>> f.ty.toNat)
  | .vsraImm f => f.ty != 3 && decide (f.b.toNat < 32 >>> f.ty.toNat)
  | .vfadd f => f.ty != 3
  | .vfsub f => f.ty != 3
  | .vfmul f => f.ty != 3
  | .vfma f => f.ty != 3 && vreg f.d
  | .vfmin f => f.ty != 3
  | .vfmax f => f.ty != 3
  | .vfabs f => f.ty != 3 && f.b == 0
  | .vfneg f => f.ty != 3 && f.b == 0
  | .vcmp k f => triple f.d && !(k == 6 && decide (f.ty.toNat < 2))
  | .vrcp f => f.b == 0 && decide (f.ty.toNat < 2)
  | .vrsq f => f.b == 0 && decide (f.ty.toNat < 2)
  | .vsqrt f => f.b == 0 && decide (f.ty.toNat < 2)
  | .vexp2 f => f.b == 0 && decide (f.ty.toNat < 2)
  | .vlog2 f => f.b == 0 && decide (f.ty.toNat < 2)
  | .vsin f => f.b == 0 && decide (f.ty.toNat < 2)
  | .vcos f => f.b == 0 && decide (f.ty.toNat < 2)
  | .vtanh f => f.b == 0 && decide (f.ty.toNat < 2)
  | .vmov f => f.b == 0 && f.ty == 0
  | .vsel f => f.ty == 0 && vreg f.d && triple f.b
  | .vbcs f => f.b == 0 && f.ty == 0
  | .vlaneV f => f.ty == 0
  | .vlaneS f => f.ty == 1
  | .vlaneId f => f.ty == 2 && f.a == 0 && f.b == 0
  | .vfclass f => f.b == 0 && decide (f.ty.toNat < 2)
  | .vcvt k f => cvtLegal k f
  | .vqblk f t => blkLegal true f t && vreg f.d
  | .vdqblk f t => blkLegal false f t
  | .vshfl f => f.ty == 0
  | .vrot f => decide (f.ty.toNat < 2)
  | .vbln f => f.ty == 0
  | .vred f => decide (f.ty.toNat < 2) && decide (f.b.toNat ≤ 10)
  | .vscan f => decide (f.ty.toNat < 2) && decide (f.b.toNat ≤ 10)
  | .vli _ => true
  | .vlix k f t => f.a == 0 && f.b == 0 && f.ty == 0 && (k == 0 || (k == 1 && t.extractLsb' 16 16 == 0) || (k == 2 && t.extractLsb' 8 24 == 0))
  | .vld k f => even f.b && f.ty != 3 && vspan f.d (if k == 5 then 2 else if k == 6 then 4 else 1)
  | .vst k f => even f.b && f.ty != 3 && decide (k.toNat ≤ 5) && vspan f.d (if k == 3 then 2 else if k == 4 then 4 else 1)
  | .vlds_32 f => f.ty == 0 && vspan f.d 1
  | .vlds_64 f => f.ty == 0 && vspan f.d 2
  | .vlds_128 f => f.ty == 0 && vspan f.d 4
  | .vsts_32 f => f.ty == 0 && vspan f.d 1
  | .vsts_64 f => f.ty == 0 && vspan f.d 2
  | .vsts_128 f => f.ty == 0 && vspan f.d 4
  | .atom k f t => atomLegal k f t
  | .atoms k f t => atomsLegal k f t
  | .fatom k f => decide (k.toNat ≤ 2) && even f.b && f.ty != 3 && vreg f.d
  | .mon f => f.b == 0 && f.d == 0 && decide (f.ty.toNat < 2) && (f.ty == 1 || even f.a)
  | .mwait f => f.a == 0 && f.ty == 0
  | .mclr f => f.b == 0 && f.a == 0 && f.d == 0 && f.ty == 0
  | .bari f => bar f && f.d == 0
  | .bara f => bar f && f.b == 0
  | .barw f => bar f && f.d == 0
  | .barx f => bar f && f.d == 0
  | .bred f => bar f
  | .barq f => bar f && decide (f.b.toNat ≤ 3)
  | .barinv f => bar f && f.d == 0 && f.b == 0
  | .racq f => f.a == 0 && decide (f.ty.toNat < 2) && blocks f.b
  | .rrel f => f.a == 0 && f.d == 0 && f.ty == 0 && blocks f.b
  | .rqry f => f.a == 0 && f.b == 0 && f.ty == 0
  | .ebeq f t => f.d == 0 && f.ty == 0 && even f.a && bitmap t
  | .eclm f t => f.ty == 0 && even f.a && bitmap t && vreg f.d && !(t.getLsbD f.d.toNat)
  | .edrop f t => t == 0 && ((f.ty == 0 && vreg f.d) || (f.ty == 1 && f.b == 0))
  | .eqry f t => t == 0 && f.ty == 0 && vreg f.d
  | .epin f t => t == 0 && decide (f.ty.toNat < 2) && vreg f.d
  | .phend f t => f.d == 0 && decide (f.b.toNat ≤ 60) && (f.ty == 1 || (f.ty == 0 && f.a == 0) || (f.ty == 2 && decide (f.a.toNat ≤ 15))) && t.extractLsb' 24 8 == 0 && !(t.getLsbD 0)
  | .srd f => f.ty == 0 && readable (f.a ++ f.b)
  | .swr f => f.ty == 0 && (writable (f.a ++ f.b) || runtimeOnly (f.a ++ f.b))
  | .cpy f t => tailLegal t && xf t == 0 && pairIf (f.ty == 0 || f.ty == 2) f.d && pairIf (f.ty == 0 || f.ty == 1) f.a
  | .cpyt f t => tailLegal t && np t == 0 && xf t == 0 && decide (f.ty.toNat < 2)
  | .cpyg f t => tailLegal t && np t == 0 && decide (f.ty.toNat < 2) && even f.a && even f.b
  | .cpys f t => tailLegal t && np t == 0 && decide (f.ty.toNat < 2) && even f.d && even f.b
  | .cpyp f t => tailLegal t && np t == 0 && decide (f.ty.toNat < 2) && f.d.extractLsb' 0 2 == 0 && t.extractLsb' 5 5 == 0
  | .cfetch f t => tailLegal t && np t == 0 && xf t == 0 && !(t.getLsbD 18) && f.d == 0 && f.b == 0 && f.ty == 0
  | .cpyz f t => tailLegal t && xf t == 0 && f.a == 0 && decide (f.ty.toNat < 2) && pairIf (f.ty == 0) f.d
  | .cpya f t => tailLegal t && np t == 0 && xf t == 0 && pairIf (f.ty == 0 || f.ty == 2) f.d
  | .colg f t => colLegal f t && f.ty == 0 && decide ((fmt3 t).toNat ≤ 6)
  | .cols f t => colLegal f t && f.ty == 0 && decide ((fmt3 t).toNat ≤ 6)
  | .colr f t => colLegal f t && f.ty != 3 && decide ((fmt3 t).toNat ≤ 1)
  | .colb f t => colLegal f t && f.ty == 0 && (decide ((fmt3 t).toNat ≤ 1) || fmt3 t == 6)
  | .qpush f => f.b == 0 && f.ty == 0 && decide (f.d.toNat ≤ 3)
  | .qld f => decide (f.d.toNat ≤ 3) && f.ty != 3 && pairIf (f.ty != 2) f.a
  | .qst f => decide (f.d.toNat ≤ 3) && f.ty != 3 && pairIf (f.ty != 2) f.a
  | .qtok f => f.b == 0 && f.d == 0 && f.ty == 0
  | .qwtok f => f.a == 0 && f.b == 0 && f.ty == 0
  | .qdrn f => f.a == 0 && f.d == 0 && f.ty != 3 && (if f.ty == 2 then f.b == 0 else decide (f.b.toNat < 16))
  | .qstat f => f.a == 0 && f.ty == 0 && decide (f.b.toNat ≤ 8)
  | .qaff f t => f.ty == 0 && decide (f.d.toNat ≤ 3) && even f.b && t.extractLsb' 22 10 == 0 && t.extractLsb' 0 8 == 0 && t.extractLsb' 20 2 != 3 && t.extractLsb' 8 12 != 0 && pairIf (t.extractLsb' 20 2 != 2) f.a
  | .tidq f => f.ty == 0 && selector f.b
  | .tidld f => f.ty == 0 && f.b == 0 && even f.a
  | .mloop f t => f.b == 0 && loopLegal f t
  | .mloopd f t => loopLegal f t
  | .accz f t => f.d == 0 && f.ty == 0 && engTail t && !(t.getLsbD 0)
  | .accrd f t => f.b == 0 && f.ty == 0 && vreg f.d && engTail t
  | .accwr f t => f.d == 0 && f.ty == 0 && engTail t
  | .accdrn f t => drnLegal f t
  | .awset f t => f.ty == 0 && t == 0
  | .dbind f => f.b == 0 && f.ty == 0 && f.a.extractLsb' 0 3 == 0 && decide (f.a.toNat ≤ 56)
  | .dref f => f.b == 0 && f.ty == 0 && even f.a
  | .dinv f => f.b == 0 && f.ty != 3 && (if f.ty == 2 then f.a == 0 else even f.a)
  | .dqry f => f.ty == 0 && even f.a && decide (f.b.toNat ≤ 9)
  | .wpop f => decide (f.ty.toNat < 2) && feed f.a && block f.d
  | .wpush f => f.ty == 0 && feed f.d && block f.a
  | .wroom f => f.ty == 0 && feed f.a
  | .gsig f => f.b == 0 && f.d == 0 && f.ty == 0
  | .corp f => f.ty == 0 && vreg f.d
  | .corf f => decide (f.ty.toNat < 2) && f.a == 0 && f.b == 0
  | .xbind f => decide (f.ty.toNat < 2) && f.b == 0 && even f.d && decide (f.d.toNat ≤ 58)
  | .cntrd f => decide (f.ty.toNat < 2) && f.b == 0 && even f.d
  | .watchReport _ _ _ _ _ _ _ => false
  | .teamSaveDone _ => false
  | .stepCountExpire _ => false
  | .launchComplete _ => false
  | .orderedAddApply _ => false
  | .rerunRound _ => false
  | .matrixOpStart _ _ => false
  | .matrixCommit _ _ => false
  | .accdrnComplete _ _ => false
  | .copyComplete _ _ => false
  | .collectiveCopyStart _ _ => false
  | .cfetchDone _ _ => false
  | .segmentLoadDone _ _ => false
  | .loadReturn _ _ => false
  | .translationCheckDone _ _ => false
  | .claimDeliver _ _ => false
  | .estateMigrateArrive _ _ => false
  | .paddockResume _ => false
  | .phaseRecordFetchDone _ => false
  | .queueEntryFill _ _ _ => false
  | .popFreezeExpire _ _ => false
  | .mwaitTimeout _ _ => false
  | .migrationComplete _ _ => false
  | .corralEmitResume _ _ => false
  | .tidldComplete _ _ => false
  | .gsigApplied _ _ => false
  | .graphNodeStart _ => false
  | .graphNodeComplete _ _ _ _ => false
  | .placeSpan _ => false
  | .launchPacket _ _ _ => false
  | .signalPacket _ _ _ => false
  | .waitPacket _ _ _ => false
  | .waitPoll _ _ _ => false
  | .rfPassDone _ => false
  | .illegalInstruction => false
  | .pageServiceDone _ _ _ => false
  | .collectiveComplete _ _ _ => false
  | .migrationFail _ _ => false
  | .pageZeroDone _ _ _ => false
  | .imemError _ _ => false
  | .timingReplay _ _ => false
  | .checkRestart _ _ => false
  | .rfUncorrectable _ _ _ _ => false
  | .addrSliceCheckFail _ => false
  | .matrixCheckFail _ _ _ => false
  | .accRowError _ _ _ => false
  | .scratchEccError _ _ => false
  | .hayloftError _ _ _ _ _ => false
  | .hbmUncorrectable _ => false
  | .scrubPass => false
  | .rowSpareStart _ _ _ _ => false
  | .rowSpareDone _ _ => false
  | .coreScanStart _ => false
  | .scanAbort _ => false
  | .scanDone _ _ => false
  | .traceSample _ => false
  | .replayLogRecord _ _ _ _ _ _ => false
  | .pcntWrite _ _ _ _ => false
  | .registerWrite _ _ _ => false
  | .doorbell _ _ _ => false
  | .ctxCreate _ _ _ => false
  | .ctxDestroy _ _ => false
  | .ctxClrerr _ _ _ => false
  | .debug _ _ _ => false
  | .tlbInval _ _ _ _ _ _ => false
  | .tlbInvalDone _ _ => false
  | .zero _ _ _ => false
  | .leaseClose _ _ _ => false
  | .resume _ _ => false
  | .resumeNext _ _ => false
  | .step _ _ _ => false
  | .kill _ _ => false
  | .killLaunch _ _ => false
  | .halt _ _ _ _ _ => false
  | .freezeTimeout _ => false
  | .residency _ _ _ _ => false
  | .policy _ _ _ _ _ => false
  | .session _ _ _ _ => false
  | .feedCreate _ _ _ _ => false
  | .feedClose _ _ => false
  | .queueCreate _ _ _ => false
  | .queueDestroy _ _ _ => false
  | .graphUpload _ _ _ => false
  | .graphFree _ _ => false
  | .ctxSetCtlw _ _ _ => false
  | .ctxSetSaveArea _ _ _ _ => false
  | .ctxSetPhaseArea _ _ _ _ => false
  | .ctxSetEstateArea _ _ _ _ => false
  | .trapConsumerWrite _ _ _ => false
  | .triggerWrite _ _ _ => false
  | .quantumExpire _ => false
  | .hintTimeout _ => false
  | .schedCoreError _ _ => false
  | .hostWrite _ _ _ => false
  | .hostRead _ _ _ _ => false
  | .hostRequestError _ _ => false
  | .tierLinkDown _ => false
  | .tierLinkUp _ => false
  | .tierPoisonReport _ => false
  | .milcaPortFail _ => false
  | .peerUnreachable _ => false
  | .peerRequest _ _ _ _ _ _ => false
  | .partStart _ => false
  | .partitionRestart _ => false
  | .powerLimitSet _ => false
  | .powerOverLimit => false
  | .tempThrottle => false
  | .tempShutdown => false
  | .getVersion => false
  | .getCapabilities => false
  | .negotiateAlgorithms => false
  | .getDigests => false
  | .getCertificate => false
  | .challenge _ => false
  | .getMeasurements => false
  | .latchSetWithNoWrite _ => false
  | .l1Eviction _ _ => false
  | .hayloftWriteOutDone _ => false
  | .throttleEnd => false
  | .powerFail _ _ => false
  | .peerReachable _ => false

end Sys2Proof
end

