-- ==== Sys2Proof/Decode.lean ====
section
/-! DEFINITION. The decoder, from the halfwords of an instruction to the instruction (R37 to R43), and after it the
encoder, written from the same tables. An encoding that is not legal is rejected by name. -/

namespace Sys2Proof

/-- What the decoder finds at an address. -/
inductive Decoded where
  /-- a legal instruction and its length in halfwords -/
  | ok (i : Instr) (halfwords : Nat)
  /-- not an instruction (R43) -/
  | illegal
  /-- the halfwords end before the instruction does -/
  | short
  deriving DecidableEq, Repr

/-! ### Fields -/

/-- MAJ (R39). -/
def majorOf (w : Word) : BitVec 6 := w.extractLsb' 3 6

/-- MIN (R39). -/
def minorOf (w : Word) : BitVec 3 := w.extractLsb' 9 3

/-- The head fields of formats A, I, M and X (R39). -/
def Head.ofWord (w : Word) : Head :=
  { b := w.extractLsb' 26 6, a := w.extractLsb' 20 6, d := w.extractLsb' 14 6, ty := w.extractLsb' 12 2
    sc := w.extractLsb' 1 2 }

/-- The head fields of format J (R40). -/
def JHead.ofWord (w : Word) : JHead :=
  { off := w.extractLsb' 18 14, s := w.extractLsb' 12 6, sc := w.extractLsb' 1 2 }

/-- The head fields of format L (R40). -/
def LHead.ofWord (w : Word) : LHead :=
  { imm := w.extractLsb' 20 12 ++ w.extractLsb' 9 5, d := w.extractLsb' 14 6, sc := w.extractLsb' 1 2 }

/-- The fields of a 16-bit form (R38). -/
def Short.ofHalf (h : BitVec 16) : Short :=
  { b := h.extractLsb' 11 5, d := h.extractLsb' 5 6 }

/-- How many tails follow a head of this major (R41). -/
def tailsOf (maj : BitVec 6) : Nat :=
  match maj.toNat with
  | 0x06 | 0x19 | 0x1D | 0x23 | 0x24 | 0x2A | 0x30 | 0x31 | 0x33 | 0x38 => 1
  | 0x0C => 2
  | _ => 0

/-! ### The major opcode map (R41) -/

def major00 (w : Word) : Option Instr :=
  match (minorOf w).toNat with
  | 0 => some (.sadd (Head.ofWord w))
  | 1 => some (.ssub (Head.ofWord w))
  | 2 => some (.smul (Head.ofWord w))
  | 3 => some (.smulh (Head.ofWord w))
  | 4 => some (.sand (Head.ofWord w))
  | 5 => some (.sor (Head.ofWord w))
  | 6 => some (.sxor (Head.ofWord w))
  | _ => some (.sshl (Head.ofWord w))

def major01 (w : Word) : Option Instr :=
  match (minorOf w).toNat with
  | 0 => some (.sshr (Head.ofWord w))
  | 1 => some (.ssra (Head.ofWord w))
  | 2 => some (.smin (Head.ofWord w))
  | 3 => some (.smax (Head.ofWord w))
  | 4 => some (.ssel (Head.ofWord w))
  | 5 => some (.sbfx (Head.ofWord w))
  | 6 => some (.sbfi (Head.ofWord w))
  | _ => some (.smov (Head.ofWord w))

def major02 (w : Word) : Option Instr :=
  match (minorOf w).toNat with
  | 0 => some (.saddImm (Head.ofWord w))
  | 1 => some (.ssubImm (Head.ofWord w))
  | 2 => some (.smulImm (Head.ofWord w))
  | 3 => some (.smulhImm (Head.ofWord w))
  | 4 => some (.sandImm (Head.ofWord w))
  | 5 => some (.sorImm (Head.ofWord w))
  | 6 => some (.sxorImm (Head.ofWord w))
  | _ => some (.sshlImm (Head.ofWord w))

def major03 (w : Word) : Option Instr :=
  some (.scmp (minorOf w) (Head.ofWord w))

def major04 (w : Word) : Option Instr :=
  match (minorOf w).toNat with
  | 0 => some (.spopc (Head.ofWord w))
  | 1 => some (.sclz (Head.ofWord w))
  | 2 => some (.sffs (Head.ofWord w))
  | 3 => some (.srev (Head.ofWord w))
  | _ => none

def major05 (w : Word) : Option Instr :=
  some (.sli (LHead.ofWord w))

def major06 (w t : Word) : Option Instr :=
  some (.slix (minorOf w) (Head.ofWord w) t)

def major07 (w : Word) : Option Instr :=
  match (minorOf w).toNat with
  | 0 => some (.sld_32 (Head.ofWord w))
  | 1 => some (.sld_64 (Head.ofWord w))
  | 2 => some (.sst_32 (Head.ofWord w))
  | 3 => some (.sst_64 (Head.ofWord w))
  | 4 => some (.sldk (Head.ofWord w))
  | _ => none

def major08 (w : Word) : Option Instr :=
  match (minorOf w).toNat with
  | 0 => some (.bra (JHead.ofWord w))
  | 1 => some (.brz (JHead.ofWord w))
  | 2 => some (.brnz (JHead.ofWord w))
  | 3 => some (.call (JHead.ofWord w))
  | 4 => some (.sdbnz (JHead.ofWord w))
  | 5 => some (.bany (JHead.ofWord w))
  | 6 => some (.ball (JHead.ofWord w))
  | _ => none

def major09 (w : Word) : Option Instr :=
  match (minorOf w).toNat with
  | 0 => some (.jmpr (Head.ofWord w))
  | 1 => some (.ret (Head.ofWord w))
  | 2 => some (.jfnc (Head.ofWord w))
  | 3 => some (.exit (Head.ofWord w))
  | 4 => some (.trap (Head.ofWord w))
  | 5 => some (.bkpt (Head.ofWord w))
  | 6 => some (.nops (Head.ofWord w))
  | _ => none

def major0A (w : Word) : Option Instr :=
  match (minorOf w).toNat with
  | 0 => some (.vbr (JHead.ofWord w))
  | 1 => some (.vbrn (JHead.ofWord w))
  | 2 => some (.vbrk (JHead.ofWord w))
  | 3 => some (.jtok (JHead.ofWord w))
  | 4 => some (.join (JHead.ofWord w))
  | _ => none

def major0B (w : Word) : Option Instr :=
  match (minorOf w).toNat with
  | 0 => some (.waite (Head.ofWord w))
  | 1 => some (.fence (Head.ofWord w))
  | 2 => some (.idem (Head.ofWord w))
  | _ => none

def major0C (w t u : Word) : Option Instr :=
  match (minorOf w).toNat with
  | 0 => some (.phint (Head.ofWord w) t u)
  | _ => none

def major10 (w : Word) : Option Instr :=
  match (minorOf w).toNat with
  | 0 => some (.vadd (Head.ofWord w))
  | 1 => some (.vsub (Head.ofWord w))
  | 2 => some (.vmul (Head.ofWord w))
  | 3 => some (.vmulh (Head.ofWord w))
  | 4 => some (.vmin (Head.ofWord w))
  | 5 => some (.vmax (Head.ofWord w))
  | 6 => some (.vabs (Head.ofWord w))
  | _ => some (.vmad (Head.ofWord w))

def major11 (w : Word) : Option Instr :=
  match (minorOf w).toNat with
  | 0 => some (.vand (Head.ofWord w))
  | 1 => some (.vor (Head.ofWord w))
  | 2 => some (.vxor (Head.ofWord w))
  | 3 => some (.vshl (Head.ofWord w))
  | 4 => some (.vshr (Head.ofWord w))
  | 5 => some (.vsra (Head.ofWord w))
  | 6 => some (.vpopc (Head.ofWord w))
  | _ => some (.vclz (Head.ofWord w))

def major12 (w : Word) : Option Instr :=
  match (minorOf w).toNat with
  | 0 => some (.vaddImm (Head.ofWord w))
  | 1 => some (.vsubImm (Head.ofWord w))
  | 2 => some (.vmulImm (Head.ofWord w))
  | 3 => some (.vmulhImm (Head.ofWord w))
  | 4 => some (.vminImm (Head.ofWord w))
  | 5 => some (.vmaxImm (Head.ofWord w))
  | 7 => some (.vmadImm (Head.ofWord w))
  | _ => none

def major13 (w : Word) : Option Instr :=
  match (minorOf w).toNat with
  | 0 => some (.vandImm (Head.ofWord w))
  | 1 => some (.vorImm (Head.ofWord w))
  | 2 => some (.vxorImm (Head.ofWord w))
  | 3 => some (.vshlImm (Head.ofWord w))
  | 4 => some (.vshrImm (Head.ofWord w))
  | 5 => some (.vsraImm (Head.ofWord w))
  | _ => none

def major14 (w : Word) : Option Instr :=
  match (minorOf w).toNat with
  | 0 => some (.vfadd (Head.ofWord w))
  | 1 => some (.vfsub (Head.ofWord w))
  | 2 => some (.vfmul (Head.ofWord w))
  | 3 => some (.vfma (Head.ofWord w))
  | 4 => some (.vfmin (Head.ofWord w))
  | 5 => some (.vfmax (Head.ofWord w))
  | 6 => some (.vfabs (Head.ofWord w))
  | _ => some (.vfneg (Head.ofWord w))

def major15 (w : Word) : Option Instr :=
  some (.vcmp (minorOf w) (Head.ofWord w))

def major16 (w : Word) : Option Instr :=
  match (minorOf w).toNat with
  | 0 => some (.vrcp (Head.ofWord w))
  | 1 => some (.vrsq (Head.ofWord w))
  | 2 => some (.vsqrt (Head.ofWord w))
  | 3 => some (.vexp2 (Head.ofWord w))
  | 4 => some (.vlog2 (Head.ofWord w))
  | 5 => some (.vsin (Head.ofWord w))
  | 6 => some (.vcos (Head.ofWord w))
  | _ => some (.vtanh (Head.ofWord w))

def major17 (w : Word) : Option Instr :=
  match (minorOf w).toNat with
  | 0 => some (.vmov (Head.ofWord w))
  | 1 => some (.vsel (Head.ofWord w))
  | 2 => some (.vbcs (Head.ofWord w))
  | 3 =>
    match (Head.ofWord w).ty.toNat with
    | 0 => some (.vlaneV (Head.ofWord w))
    | 1 => some (.vlaneS (Head.ofWord w))
    | 2 => some (.vlaneId (Head.ofWord w))
    | _ => none
  | 4 => some (.vfclass (Head.ofWord w))
  | _ => none

def major18 (w : Word) : Option Instr :=
  some (.vcvt (minorOf w) (Head.ofWord w))

def major19 (w t : Word) : Option Instr :=
  match (minorOf w).toNat with
  | 0 => some (.vqblk (Head.ofWord w) t)
  | 1 => some (.vdqblk (Head.ofWord w) t)
  | _ => none

def major1A (w : Word) : Option Instr :=
  match (minorOf w).toNat with
  | 0 => some (.vshfl (Head.ofWord w))
  | 1 => some (.vrot (Head.ofWord w))
  | 2 => some (.vbln (Head.ofWord w))
  | 3 => some (.vred (Head.ofWord w))
  | 4 => some (.vscan (Head.ofWord w))
  | _ => none

def major1C (w : Word) : Option Instr :=
  some (.vli (LHead.ofWord w))

def major1D (w t : Word) : Option Instr :=
  some (.vlix (minorOf w) (Head.ofWord w) t)

def major20 (w : Word) : Option Instr :=
  some (.vld (minorOf w) (Head.ofWord w))

def major21 (w : Word) : Option Instr :=
  some (.vst (minorOf w) (Head.ofWord w))

def major22 (w : Word) : Option Instr :=
  match (minorOf w).toNat with
  | 0 => some (.vlds_32 (Head.ofWord w))
  | 1 => some (.vlds_64 (Head.ofWord w))
  | 2 => some (.vlds_128 (Head.ofWord w))
  | 3 => some (.vsts_32 (Head.ofWord w))
  | 4 => some (.vsts_64 (Head.ofWord w))
  | 5 => some (.vsts_128 (Head.ofWord w))
  | _ => none

def major23 (w t : Word) : Option Instr :=
  some (.atom (minorOf w) (Head.ofWord w) t)

def major24 (w t : Word) : Option Instr :=
  some (.atoms (minorOf w) (Head.ofWord w) t)

def major25 (w : Word) : Option Instr :=
  some (.fatom (minorOf w) (Head.ofWord w))

def major26 (w : Word) : Option Instr :=
  match (minorOf w).toNat with
  | 0 => some (.mon (Head.ofWord w))
  | 1 => some (.mwait (Head.ofWord w))
  | 2 => some (.mclr (Head.ofWord w))
  | _ => none

def major28 (w : Word) : Option Instr :=
  match (minorOf w).toNat with
  | 0 => some (.bari (Head.ofWord w))
  | 1 => some (.bara (Head.ofWord w))
  | 2 => some (.barw (Head.ofWord w))
  | 3 => some (.barx (Head.ofWord w))
  | 4 => some (.bred (Head.ofWord w))
  | 5 => some (.barq (Head.ofWord w))
  | 6 => some (.barinv (Head.ofWord w))
  | _ => none

def major29 (w : Word) : Option Instr :=
  match (minorOf w).toNat with
  | 0 => some (.racq (Head.ofWord w))
  | 1 => some (.rrel (Head.ofWord w))
  | 2 => some (.rqry (Head.ofWord w))
  | _ => none

def major2A (w t : Word) : Option Instr :=
  match (minorOf w).toNat with
  | 0 => some (.ebeq (Head.ofWord w) t)
  | 1 => some (.eclm (Head.ofWord w) t)
  | 2 => some (.edrop (Head.ofWord w) t)
  | 3 => some (.eqry (Head.ofWord w) t)
  | 4 => some (.epin (Head.ofWord w) t)
  | 5 => some (.phend (Head.ofWord w) t)
  | _ => none

def major2B (w : Word) : Option Instr :=
  match (minorOf w).toNat with
  | 0 => some (.srd (Head.ofWord w))
  | 1 => some (.swr (Head.ofWord w))
  | _ => none

def major30 (w t : Word) : Option Instr :=
  match (minorOf w).toNat with
  | 0 => some (.cpy (Head.ofWord w) t)
  | 1 => some (.cpyt (Head.ofWord w) t)
  | 2 => some (.cpyg (Head.ofWord w) t)
  | 3 => some (.cpys (Head.ofWord w) t)
  | 4 => some (.cpyp (Head.ofWord w) t)
  | 5 => some (.cfetch (Head.ofWord w) t)
  | 6 => some (.cpyz (Head.ofWord w) t)
  | _ => some (.cpya (Head.ofWord w) t)

def major31 (w t : Word) : Option Instr :=
  match (minorOf w).toNat with
  | 0 => some (.colg (Head.ofWord w) t)
  | 1 => some (.cols (Head.ofWord w) t)
  | 2 => some (.colr (Head.ofWord w) t)
  | 3 => some (.colb (Head.ofWord w) t)
  | _ => none

def major32 (w : Word) : Option Instr :=
  match (minorOf w).toNat with
  | 0 => some (.qpush (Head.ofWord w))
  | 1 => some (.qld (Head.ofWord w))
  | 2 => some (.qst (Head.ofWord w))
  | 3 => some (.qtok (Head.ofWord w))
  | 4 => some (.qwtok (Head.ofWord w))
  | 5 => some (.qdrn (Head.ofWord w))
  | 6 => some (.qstat (Head.ofWord w))
  | _ => none

def major33 (w t : Word) : Option Instr :=
  match (minorOf w).toNat with
  | 0 => some (.qaff (Head.ofWord w) t)
  | _ => none

def major34 (w : Word) : Option Instr :=
  match (minorOf w).toNat with
  | 0 => some (.tidq (Head.ofWord w))
  | 1 => some (.tidld (Head.ofWord w))
  | _ => none

def major38 (w t : Word) : Option Instr :=
  match (minorOf w).toNat with
  | 0 => some (.mloop (Head.ofWord w) t)
  | 1 => some (.mloopd (Head.ofWord w) t)
  | 2 => some (.accz (Head.ofWord w) t)
  | 3 => some (.accrd (Head.ofWord w) t)
  | 4 => some (.accwr (Head.ofWord w) t)
  | 5 => some (.accdrn (Head.ofWord w) t)
  | 6 => some (.awset (Head.ofWord w) t)
  | _ => none

def major39 (w : Word) : Option Instr :=
  match (minorOf w).toNat with
  | 0 => some (.dbind (Head.ofWord w))
  | 1 => some (.dref (Head.ofWord w))
  | 2 => some (.dinv (Head.ofWord w))
  | 3 => some (.dqry (Head.ofWord w))
  | _ => none

def major3A (w : Word) : Option Instr :=
  match (minorOf w).toNat with
  | 0 => some (.wpop (Head.ofWord w))
  | 1 => some (.wpush (Head.ofWord w))
  | 2 => some (.wroom (Head.ofWord w))
  | 3 => some (.gsig (Head.ofWord w))
  | 4 => some (.corp (Head.ofWord w))
  | 5 => some (.corf (Head.ofWord w))
  | 6 => some (.xbind (Head.ofWord w))
  | _ => some (.cntrd (Head.ofWord w))

/-- The instruction a head and its tails name, legal or not; none for an unassigned major or a reserved minor. -/
def ofHead (w t u : Word) : Option Instr :=
  match (majorOf w).toNat with
  | 0x00 => major00 w
  | 0x01 => major01 w
  | 0x02 => major02 w
  | 0x03 => major03 w
  | 0x04 => major04 w
  | 0x05 => major05 w
  | 0x06 => major06 w t
  | 0x07 => major07 w
  | 0x08 => major08 w
  | 0x09 => major09 w
  | 0x0a => major0A w
  | 0x0b => major0B w
  | 0x0c => major0C w t u
  | 0x10 => major10 w
  | 0x11 => major11 w
  | 0x12 => major12 w
  | 0x13 => major13 w
  | 0x14 => major14 w
  | 0x15 => major15 w
  | 0x16 => major16 w
  | 0x17 => major17 w
  | 0x18 => major18 w
  | 0x19 => major19 w t
  | 0x1a => major1A w
  | 0x1c => major1C w
  | 0x1d => major1D w t
  | 0x20 => major20 w
  | 0x21 => major21 w
  | 0x22 => major22 w
  | 0x23 => major23 w t
  | 0x24 => major24 w t
  | 0x25 => major25 w
  | 0x26 => major26 w
  | 0x28 => major28 w
  | 0x29 => major29 w
  | 0x2a => major2A w t
  | 0x2b => major2B w
  | 0x30 => major30 w t
  | 0x31 => major31 w t
  | 0x32 => major32 w
  | 0x33 => major33 w t
  | 0x34 => major34 w
  | 0x38 => major38 w t
  | 0x39 => major39 w
  | 0x3a => major3A w
  | _ => none

/-- The instruction a 16-bit form names (R38). -/
def ofHalf (h : BitVec 16) : Instr :=
  let f := Short.ofHalf h
  match (h.extractLsb' 1 4).toNat with
  | 0 => .vmov_16 f
  | 1 => .vadd_16 f
  | 2 => .vsub_16 f
  | 3 => .vmul_16 f
  | 4 => .vmin_16 f
  | 5 => .vmax_16 f
  | 6 => .vand_16 f
  | 7 => .vor_16 f
  | 8 => .vxor_16 f
  | 9 => .vshl_16 f
  | 10 => .vshr_16 f
  | 11 => .vfadd_16 f
  | 12 => .vfsub_16 f
  | 13 => .vfmul_16 f
  | 14 => .vfmin_16 f
  | _ => .vfmax_16 f

/-- A legal instruction, or illegal (R43). -/
def judge (i : Option Instr) (len : Nat) : Decoded :=
  match i with
  | some i => if i.wellFormed then .ok i len else .illegal
  | none => .illegal

/-- The 32-bit word of two halfwords, the first the less significant (R2). -/
def wordOf (lo hi : BitVec 16) : Word := hi ++ lo

/-- Decodes a head whose tails follow in `rest` (R37). -/
def decodeLong (w : Word) (rest : List (BitVec 16)) : Decoded :=
  match tailsOf (majorOf w), rest with
  | 0, _ => judge (ofHead w 0 0) 2
  | 1, a :: b :: _ => judge (ofHead w (wordOf a b) 0) 4
  | 2, a :: b :: c :: d :: _ => judge (ofHead w (wordOf a b) (wordOf c d)) 6
  | _, _ => .short

/-- Decodes the instruction whose halfwords these are; halfwords after it are ignored (R37). -/
def decode (hs : List (BitVec 16)) : Decoded :=
  match hs with
  | [] => .short
  | h :: rest =>
    if h.getLsbD 0 then
      match rest with
      | [] => .short
      | h2 :: more => decodeLong (wordOf h h2) more
    else judge (some (ofHalf h)) 1

/-- Halfword `n` of an instruction whose bits are `w`. -/
def halfOf (w n : Nat) : BitVec 16 := BitVec.ofNat 16 (w >>> (16 * n))

/-- The instruction the decoder reads from the bits `w`, bit 0 the least significant bit of the first halfword;
bits at and above `nbits` are zero. -/
def decodeTableWord (nbits w : Nat) : Option Instr :=
  let w := w % 2 ^ nbits
  match decode [halfOf w 0, halfOf w 1, halfOf w 2, halfOf w 3, halfOf w 4, halfOf w 5] with
  | .ok i _ => some i
  | _ => none

/-! ### The encoder -/

/-- The two halfwords of a word, the less significant first. -/
def halves (w : Word) : List (BitVec 16) := [w.extractLsb' 0 16, w.extractLsb' 16 16]

/-- A head of format A, I, M or X. -/
def Head.word (f : Head) (maj : BitVec 6) (min : BitVec 3) : Word :=
  f.b ++ f.a ++ f.d ++ f.ty ++ min ++ maj ++ f.sc ++ 1#1

/-- A head of format J. -/
def JHead.word (f : JHead) (maj : BitVec 6) (min : BitVec 3) : Word :=
  f.off ++ f.s ++ min ++ maj ++ f.sc ++ 1#1

/-- A head of format L. -/
def LHead.word (f : LHead) (maj : BitVec 6) : Word :=
  f.imm.extractLsb' 5 12 ++ f.d ++ f.imm.extractLsb' 0 5 ++ maj ++ f.sc ++ 1#1

/-- A 16-bit form. -/
def Short.word (f : Short) (op : BitVec 4) : BitVec 16 := f.b ++ f.d ++ op ++ 0#1

/-- The halfwords of an instruction; nothing for an event. -/
def encode (i : Instr) : List (BitVec 16) :=
  match i with
  | .vmov_16 f => [f.word 0]
  | .vadd_16 f => [f.word 1]
  | .vsub_16 f => [f.word 2]
  | .vmul_16 f => [f.word 3]
  | .vmin_16 f => [f.word 4]
  | .vmax_16 f => [f.word 5]
  | .vand_16 f => [f.word 6]
  | .vor_16 f => [f.word 7]
  | .vxor_16 f => [f.word 8]
  | .vshl_16 f => [f.word 9]
  | .vshr_16 f => [f.word 10]
  | .vfadd_16 f => [f.word 11]
  | .vfsub_16 f => [f.word 12]
  | .vfmul_16 f => [f.word 13]
  | .vfmin_16 f => [f.word 14]
  | .vfmax_16 f => [f.word 15]
  | .sadd f => halves (f.word 0x00 0)
  | .ssub f => halves (f.word 0x00 1)
  | .smul f => halves (f.word 0x00 2)
  | .smulh f => halves (f.word 0x00 3)
  | .sand f => halves (f.word 0x00 4)
  | .sor f => halves (f.word 0x00 5)
  | .sxor f => halves (f.word 0x00 6)
  | .sshl f => halves (f.word 0x00 7)
  | .sshr f => halves (f.word 0x01 0)
  | .ssra f => halves (f.word 0x01 1)
  | .smin f => halves (f.word 0x01 2)
  | .smax f => halves (f.word 0x01 3)
  | .ssel f => halves (f.word 0x01 4)
  | .sbfx f => halves (f.word 0x01 5)
  | .sbfi f => halves (f.word 0x01 6)
  | .smov f => halves (f.word 0x01 7)
  | .saddImm f => halves (f.word 0x02 0)
  | .ssubImm f => halves (f.word 0x02 1)
  | .smulImm f => halves (f.word 0x02 2)
  | .smulhImm f => halves (f.word 0x02 3)
  | .sandImm f => halves (f.word 0x02 4)
  | .sorImm f => halves (f.word 0x02 5)
  | .sxorImm f => halves (f.word 0x02 6)
  | .sshlImm f => halves (f.word 0x02 7)
  | .scmp k f => halves (f.word 0x03 k)
  | .spopc f => halves (f.word 0x04 0)
  | .sclz f => halves (f.word 0x04 1)
  | .sffs f => halves (f.word 0x04 2)
  | .srev f => halves (f.word 0x04 3)
  | .sli f => halves (f.word 0x05)
  | .slix k f t => halves (f.word 0x06 k) ++ halves t
  | .sld_32 f => halves (f.word 0x07 0)
  | .sld_64 f => halves (f.word 0x07 1)
  | .sst_32 f => halves (f.word 0x07 2)
  | .sst_64 f => halves (f.word 0x07 3)
  | .sldk f => halves (f.word 0x07 4)
  | .bra f => halves (f.word 0x08 0)
  | .brz f => halves (f.word 0x08 1)
  | .brnz f => halves (f.word 0x08 2)
  | .call f => halves (f.word 0x08 3)
  | .sdbnz f => halves (f.word 0x08 4)
  | .bany f => halves (f.word 0x08 5)
  | .ball f => halves (f.word 0x08 6)
  | .jmpr f => halves (f.word 0x09 0)
  | .ret f => halves (f.word 0x09 1)
  | .jfnc f => halves (f.word 0x09 2)
  | .exit f => halves (f.word 0x09 3)
  | .trap f => halves (f.word 0x09 4)
  | .bkpt f => halves (f.word 0x09 5)
  | .nops f => halves (f.word 0x09 6)
  | .vbr f => halves (f.word 0x0a 0)
  | .vbrn f => halves (f.word 0x0a 1)
  | .vbrk f => halves (f.word 0x0a 2)
  | .jtok f => halves (f.word 0x0a 3)
  | .join f => halves (f.word 0x0a 4)
  | .waite f => halves (f.word 0x0b 0)
  | .fence f => halves (f.word 0x0b 1)
  | .idem f => halves (f.word 0x0b 2)
  | .phint f t u => halves (f.word 0x0c 0) ++ halves t ++ halves u
  | .vadd f => halves (f.word 0x10 0)
  | .vsub f => halves (f.word 0x10 1)
  | .vmul f => halves (f.word 0x10 2)
  | .vmulh f => halves (f.word 0x10 3)
  | .vmin f => halves (f.word 0x10 4)
  | .vmax f => halves (f.word 0x10 5)
  | .vabs f => halves (f.word 0x10 6)
  | .vmad f => halves (f.word 0x10 7)
  | .vand f => halves (f.word 0x11 0)
  | .vor f => halves (f.word 0x11 1)
  | .vxor f => halves (f.word 0x11 2)
  | .vshl f => halves (f.word 0x11 3)
  | .vshr f => halves (f.word 0x11 4)
  | .vsra f => halves (f.word 0x11 5)
  | .vpopc f => halves (f.word 0x11 6)
  | .vclz f => halves (f.word 0x11 7)
  | .vaddImm f => halves (f.word 0x12 0)
  | .vsubImm f => halves (f.word 0x12 1)
  | .vmulImm f => halves (f.word 0x12 2)
  | .vmulhImm f => halves (f.word 0x12 3)
  | .vminImm f => halves (f.word 0x12 4)
  | .vmaxImm f => halves (f.word 0x12 5)
  | .vmadImm f => halves (f.word 0x12 7)
  | .vandImm f => halves (f.word 0x13 0)
  | .vorImm f => halves (f.word 0x13 1)
  | .vxorImm f => halves (f.word 0x13 2)
  | .vshlImm f => halves (f.word 0x13 3)
  | .vshrImm f => halves (f.word 0x13 4)
  | .vsraImm f => halves (f.word 0x13 5)
  | .vfadd f => halves (f.word 0x14 0)
  | .vfsub f => halves (f.word 0x14 1)
  | .vfmul f => halves (f.word 0x14 2)
  | .vfma f => halves (f.word 0x14 3)
  | .vfmin f => halves (f.word 0x14 4)
  | .vfmax f => halves (f.word 0x14 5)
  | .vfabs f => halves (f.word 0x14 6)
  | .vfneg f => halves (f.word 0x14 7)
  | .vcmp k f => halves (f.word 0x15 k)
  | .vrcp f => halves (f.word 0x16 0)
  | .vrsq f => halves (f.word 0x16 1)
  | .vsqrt f => halves (f.word 0x16 2)
  | .vexp2 f => halves (f.word 0x16 3)
  | .vlog2 f => halves (f.word 0x16 4)
  | .vsin f => halves (f.word 0x16 5)
  | .vcos f => halves (f.word 0x16 6)
  | .vtanh f => halves (f.word 0x16 7)
  | .vmov f => halves (f.word 0x17 0)
  | .vsel f => halves (f.word 0x17 1)
  | .vbcs f => halves (f.word 0x17 2)
  | .vlaneV f => halves (f.word 0x17 3)
  | .vlaneS f => halves (f.word 0x17 3)
  | .vlaneId f => halves (f.word 0x17 3)
  | .vfclass f => halves (f.word 0x17 4)
  | .vcvt k f => halves (f.word 0x18 k)
  | .vqblk f t => halves (f.word 0x19 0) ++ halves t
  | .vdqblk f t => halves (f.word 0x19 1) ++ halves t
  | .vshfl f => halves (f.word 0x1a 0)
  | .vrot f => halves (f.word 0x1a 1)
  | .vbln f => halves (f.word 0x1a 2)
  | .vred f => halves (f.word 0x1a 3)
  | .vscan f => halves (f.word 0x1a 4)
  | .vli f => halves (f.word 0x1c)
  | .vlix k f t => halves (f.word 0x1d k) ++ halves t
  | .vld k f => halves (f.word 0x20 k)
  | .vst k f => halves (f.word 0x21 k)
  | .vlds_32 f => halves (f.word 0x22 0)
  | .vlds_64 f => halves (f.word 0x22 1)
  | .vlds_128 f => halves (f.word 0x22 2)
  | .vsts_32 f => halves (f.word 0x22 3)
  | .vsts_64 f => halves (f.word 0x22 4)
  | .vsts_128 f => halves (f.word 0x22 5)
  | .atom k f t => halves (f.word 0x23 k) ++ halves t
  | .atoms k f t => halves (f.word 0x24 k) ++ halves t
  | .fatom k f => halves (f.word 0x25 k)
  | .mon f => halves (f.word 0x26 0)
  | .mwait f => halves (f.word 0x26 1)
  | .mclr f => halves (f.word 0x26 2)
  | .bari f => halves (f.word 0x28 0)
  | .bara f => halves (f.word 0x28 1)
  | .barw f => halves (f.word 0x28 2)
  | .barx f => halves (f.word 0x28 3)
  | .bred f => halves (f.word 0x28 4)
  | .barq f => halves (f.word 0x28 5)
  | .barinv f => halves (f.word 0x28 6)
  | .racq f => halves (f.word 0x29 0)
  | .rrel f => halves (f.word 0x29 1)
  | .rqry f => halves (f.word 0x29 2)
  | .ebeq f t => halves (f.word 0x2a 0) ++ halves t
  | .eclm f t => halves (f.word 0x2a 1) ++ halves t
  | .edrop f t => halves (f.word 0x2a 2) ++ halves t
  | .eqry f t => halves (f.word 0x2a 3) ++ halves t
  | .epin f t => halves (f.word 0x2a 4) ++ halves t
  | .phend f t => halves (f.word 0x2a 5) ++ halves t
  | .srd f => halves (f.word 0x2b 0)
  | .swr f => halves (f.word 0x2b 1)
  | .cpy f t => halves (f.word 0x30 0) ++ halves t
  | .cpyt f t => halves (f.word 0x30 1) ++ halves t
  | .cpyg f t => halves (f.word 0x30 2) ++ halves t
  | .cpys f t => halves (f.word 0x30 3) ++ halves t
  | .cpyp f t => halves (f.word 0x30 4) ++ halves t
  | .cfetch f t => halves (f.word 0x30 5) ++ halves t
  | .cpyz f t => halves (f.word 0x30 6) ++ halves t
  | .cpya f t => halves (f.word 0x30 7) ++ halves t
  | .colg f t => halves (f.word 0x31 0) ++ halves t
  | .cols f t => halves (f.word 0x31 1) ++ halves t
  | .colr f t => halves (f.word 0x31 2) ++ halves t
  | .colb f t => halves (f.word 0x31 3) ++ halves t
  | .qpush f => halves (f.word 0x32 0)
  | .qld f => halves (f.word 0x32 1)
  | .qst f => halves (f.word 0x32 2)
  | .qtok f => halves (f.word 0x32 3)
  | .qwtok f => halves (f.word 0x32 4)
  | .qdrn f => halves (f.word 0x32 5)
  | .qstat f => halves (f.word 0x32 6)
  | .qaff f t => halves (f.word 0x33 0) ++ halves t
  | .tidq f => halves (f.word 0x34 0)
  | .tidld f => halves (f.word 0x34 1)
  | .mloop f t => halves (f.word 0x38 0) ++ halves t
  | .mloopd f t => halves (f.word 0x38 1) ++ halves t
  | .accz f t => halves (f.word 0x38 2) ++ halves t
  | .accrd f t => halves (f.word 0x38 3) ++ halves t
  | .accwr f t => halves (f.word 0x38 4) ++ halves t
  | .accdrn f t => halves (f.word 0x38 5) ++ halves t
  | .awset f t => halves (f.word 0x38 6) ++ halves t
  | .dbind f => halves (f.word 0x39 0)
  | .dref f => halves (f.word 0x39 1)
  | .dinv f => halves (f.word 0x39 2)
  | .dqry f => halves (f.word 0x39 3)
  | .wpop f => halves (f.word 0x3a 0)
  | .wpush f => halves (f.word 0x3a 1)
  | .wroom f => halves (f.word 0x3a 2)
  | .gsig f => halves (f.word 0x3a 3)
  | .corp f => halves (f.word 0x3a 4)
  | .corf f => halves (f.word 0x3a 5)
  | .xbind f => halves (f.word 0x3a 6)
  | .cntrd f => halves (f.word 0x3a 7)
  | .watchReport _ _ _ _ _ _ _ => []
  | .teamSaveDone _ => []
  | .stepCountExpire _ => []
  | .launchComplete _ => []
  | .orderedAddApply _ => []
  | .rerunRound _ => []
  | .matrixOpStart _ _ => []
  | .matrixCommit _ _ => []
  | .accdrnComplete _ _ => []
  | .copyComplete _ _ => []
  | .collectiveCopyStart _ _ => []
  | .cfetchDone _ _ => []
  | .segmentLoadDone _ _ => []
  | .loadReturn _ _ => []
  | .translationCheckDone _ _ => []
  | .claimDeliver _ _ => []
  | .estateMigrateArrive _ _ => []
  | .paddockResume _ => []
  | .phaseRecordFetchDone _ => []
  | .queueEntryFill _ _ _ => []
  | .popFreezeExpire _ _ => []
  | .mwaitTimeout _ _ => []
  | .migrationComplete _ _ => []
  | .corralEmitResume _ _ => []
  | .tidldComplete _ _ => []
  | .gsigApplied _ _ => []
  | .graphNodeStart _ => []
  | .graphNodeComplete _ _ _ _ => []
  | .placeSpan _ => []
  | .launchPacket _ _ _ => []
  | .signalPacket _ _ _ => []
  | .waitPacket _ _ _ => []
  | .waitPoll _ _ _ => []
  | .rfPassDone _ => []
  | .illegalInstruction => []
  | .pageServiceDone _ _ _ => []
  | .collectiveComplete _ _ _ => []
  | .migrationFail _ _ => []
  | .pageZeroDone _ _ _ => []
  | .imemError _ _ => []
  | .timingReplay _ _ => []
  | .checkRestart _ _ => []
  | .rfUncorrectable _ _ _ _ => []
  | .addrSliceCheckFail _ => []
  | .matrixCheckFail _ _ _ => []
  | .accRowError _ _ _ => []
  | .scratchEccError _ _ => []
  | .hayloftError _ _ _ _ _ => []
  | .hbmUncorrectable _ => []
  | .scrubPass => []
  | .rowSpareStart _ _ _ _ => []
  | .rowSpareDone _ _ => []
  | .coreScanStart _ => []
  | .scanAbort _ => []
  | .scanDone _ _ => []
  | .traceSample _ => []
  | .replayLogRecord _ _ _ _ _ _ => []
  | .pcntWrite _ _ _ _ => []
  | .registerWrite _ _ _ => []
  | .doorbell _ _ _ => []
  | .ctxCreate _ _ _ => []
  | .ctxDestroy _ _ => []
  | .ctxClrerr _ _ _ => []
  | .debug _ _ _ => []
  | .tlbInval _ _ _ _ _ _ => []
  | .tlbInvalDone _ _ => []
  | .zero _ _ _ => []
  | .leaseClose _ _ _ => []
  | .resume _ _ => []
  | .resumeNext _ _ => []
  | .step _ _ _ => []
  | .kill _ _ => []
  | .killLaunch _ _ => []
  | .halt _ _ _ _ _ => []
  | .freezeTimeout _ => []
  | .residency _ _ _ _ => []
  | .policy _ _ _ _ _ => []
  | .session _ _ _ _ => []
  | .feedCreate _ _ _ _ => []
  | .feedClose _ _ => []
  | .queueCreate _ _ _ => []
  | .queueDestroy _ _ _ => []
  | .graphUpload _ _ _ => []
  | .graphFree _ _ => []
  | .ctxSetCtlw _ _ _ => []
  | .ctxSetSaveArea _ _ _ _ => []
  | .ctxSetPhaseArea _ _ _ _ => []
  | .ctxSetEstateArea _ _ _ _ => []
  | .trapConsumerWrite _ _ _ => []
  | .triggerWrite _ _ _ => []
  | .quantumExpire _ => []
  | .hintTimeout _ => []
  | .schedCoreError _ _ => []
  | .hostWrite _ _ _ => []
  | .hostRead _ _ _ _ => []
  | .hostRequestError _ _ => []
  | .tierLinkDown _ => []
  | .tierLinkUp _ => []
  | .tierPoisonReport _ => []
  | .milcaPortFail _ => []
  | .peerUnreachable _ => []
  | .peerRequest _ _ _ _ _ _ => []
  | .partStart _ => []
  | .partitionRestart _ => []
  | .powerLimitSet _ => []
  | .powerOverLimit => []
  | .tempThrottle => []
  | .tempShutdown => []
  | .getVersion => []
  | .getCapabilities => []
  | .negotiateAlgorithms => []
  | .getDigests => []
  | .getCertificate => []
  | .challenge _ => []
  | .getMeasurements => []
  | .latchSetWithNoWrite _ => []
  | .l1Eviction _ _ => []
  | .hayloftWriteOutDone _ => []
  | .throttleEnd => []
  | .powerFail _ _ => []
  | .peerReachable _ => []

end Sys2Proof
end

