-- ==== Sys2Proof/Machine/Cells.lean ====
section
/-! DEFINITION. Operations on sparse data: lists of (key, value) pairs with keys strictly rising. -/

namespace Sys2Proof.Machine
open Sys2Proof

/-! ### Maps -/

/-- The value at a key, if the key is listed. -/
def mapGet {β : Type} : AMap β → Nat → Option β
  | [], _ => none
  | (k, v) :: rest, n => if k = n then some v else mapGet rest n

/-- The value at a key, or a default. -/
def mapGetD {β : Type} (m : AMap β) (n : Nat) (d : β) : β :=
  match mapGet m n with
  | some v => v
  | none => d

/-- Lists a value at a key, in key order. -/
def mapPut {β : Type} : AMap β → Nat → β → AMap β
  | [], n, v => [(n, v)]
  | (k, w) :: rest, n, v =>
    if n < k then (n, v) :: (k, w) :: rest
    else if k = n then (n, v) :: rest
    else (k, w) :: mapPut rest n v

/-- The keys of a map, each once. -/
def keysOf {β : Type} (m : AMap β) : List Nat := (m.map (·.1)).eraseDups

/-- Removes a key. -/
def mapDel {β : Type} : AMap β → Nat → AMap β
  | [], _ => []
  | (k, w) :: rest, n => if k = n then mapDel rest n else (k, w) :: mapDel rest n

/-! ### Cells: unlisted keys read as zero -/

/-- The value of a cell; an unlisted cell reads as zero. -/
def cellGet {w : Nat} (m : Cells w) (n : Nat) : BitVec w := mapGetD m n 0

/-- Writes a cell; a zero is not listed. -/
def cellSet {w : Nat} (m : Cells w) (n : Nat) (v : BitVec w) : Cells w :=
  if v = 0 then mapDel m n else mapPut m n v

/-- `n` bytes from address `a`, the lowest address first. -/
def bytesAt (m : Cells 8) (a : Nat) : Nat → List Byte
  | 0 => []
  | n + 1 => cellGet m a :: bytesAt m (a + 1) n

/-- Writes bytes from address `a` up. -/
def setBytes (m : Cells 8) (a : Nat) : List Byte → Cells 8
  | [] => m
  | b :: bs => setBytes (cellSet m a b) (a + 1) bs

/-- Keys strictly rising. -/
def sortedKeys {β : Type} : AMap β → Bool
  | [] => true
  | [_] => true
  | (a, _) :: (b, w) :: rest => decide (a < b) && sortedKeys ((b, w) :: rest)

/-- The canonical form of cells: keys strictly rising and no listed zero. -/
def cellsWf {w : Nat} (m : Cells w) : Bool := sortedKeys m && m.all fun c => decide (c.2 ≠ 0)

/-! ### Bytes and words (R2) -/

/-- The little-endian value of bytes, the first the least significant. -/
def leNat : List Byte → Nat
  | [] => 0
  | b :: bs => b.toNat + 256 * leNat bs

/-- The `n` low bytes of a value, the least significant first. -/
def leBytes (v : Nat) : Nat → List Byte
  | 0 => []
  | n + 1 => BitVec.ofNat 8 v :: leBytes (v / 256) n

/-! ### Lists -/

/-- Replaces an element of a list by position; nothing when there is none. -/
def setAt {α : Type} : List α → Nat → α → List α
  | [], _, _ => []
  | _ :: xs, 0, y => y :: xs
  | x :: xs, n + 1, y => x :: setAt xs n y

/-- Inserts an element behind every one that does not follow it. -/
def insertBy {α : Type} (le : α → α → Bool) (x : α) : List α → List α
  | [] => [x]
  | y :: ys => if le y x then y :: insertBy le x ys else x :: y :: ys

/-- A stable sort by insertion. -/
def sortBy {α : Type} (le : α → α → Bool) (xs : List α) : List α := xs.foldl (fun acc x => insertBy le x acc) []

/-- Whether a list of numbers holds a number. -/
def has (xs : List Nat) (n : Nat) : Bool := xs.any fun x => x == n

/-- Adds a number to a list that does not hold it. -/
def addTo (xs : List Nat) (n : Nat) : List Nat := if has xs n then xs else xs ++ [n]

/-- Removes a number from a list. -/
def without (xs : List Nat) (n : Nat) : List Nat := xs.filter fun x => x != n

/-- The lanes of a set, ascending. -/
def lanesOf (l : Lanes) : List Nat := (List.range 96).filter fun i => l.getLsbD i

/-- The set of one lane. -/
def laneBit (i : Nat) : Lanes := 1#96 <<< i

end Sys2Proof.Machine
end

