-- ==== Sys2Proof/Machine/Numbers.lean ====
section
/-! DEFINITION. Number formats, exact values, rounding, saturation, stochastic bits, MX blocks and plane images
(R148 to R164, R172 to R178). Values are kept exact: a sign, a natural mantissa and a power of two. -/

namespace Sys2Proof.Machine
open Sys2Proof

/-! ### Formats (R148, R152) -/

/-- A floating format: widths of E and M, bias, and whether it has infinities; without them `top` is the largest
finite code's magnitude bits. -/
structure Fmt where
  e    : Nat
  m    : Nat
  bias : Nat
  inf  : Bool
  top  : Nat
  /-- a NaN code exists -/
  nan  : Bool
  deriving DecidableEq, Repr

def fp32 : Fmt := { e := 8, m := 23, bias := 127, inf := true, top := 0x7F7FFFFF, nan := true }
def fp16 : Fmt := { e := 5, m := 10, bias := 15, inf := true, top := 0x7BFF, nan := true }
def bf16 : Fmt := { e := 8, m := 7, bias := 127, inf := true, top := 0x7F7F, nan := true }
def e4m3 : Fmt := { e := 4, m := 3, bias := 7, inf := false, top := 0x7E, nan := true }
def e5m2 : Fmt := { e := 5, m := 2, bias := 15, inf := true, top := 0x7B, nan := true }
def e2m1 : Fmt := { e := 2, m := 1, bias := 1, inf := false, top := 7, nan := false }

/-- The sign bit of a format. -/
def Fmt.sign (f : Fmt) : Nat := 2 ^ (f.e + f.m)

/-- The canonical NaN (R148). -/
def Fmt.qnan (f : Fmt) : Nat := if f.inf then (2 ^ f.e - 1) * 2 ^ f.m + 2 ^ (f.m - 1) else 2 ^ (f.e + f.m) - 1

/-- The code of infinity. -/
def Fmt.infinity (f : Fmt) : Nat := (2 ^ f.e - 1) * 2 ^ f.m

/-- A value: a NaN, an infinity, or (−1)^neg × m × 2^x exactly; m = 0 is a signed zero. -/
inductive Val where
  | nan
  | inf (neg : Bool)
  | fin (neg : Bool) (m : Nat) (x : Int)
  deriving DecidableEq, Repr

/-- The value of a code (R148, R152 without X). -/
def Fmt.val (f : Fmt) (c : Nat) : Val :=
  let neg := decide (c / f.sign % 2 = 1)
  let ex := c / 2 ^ f.m % 2 ^ f.e
  let ma := c % 2 ^ f.m
  if f.inf && ex == 2 ^ f.e - 1 then (if ma = 0 then .inf neg else .nan)
  else if !f.inf && f.nan && c % f.sign == f.sign - 1 then .nan
  else if ex = 0 then .fin neg ma (1 - f.bias - f.m)
  else .fin neg (2 ^ f.m + ma) ((ex : Int) - f.bias - f.m)

/-! ### Exact arithmetic (R163, R172) -/

def Val.neg : Val → Val
  | .nan => .nan
  | .inf n => .inf (!n)
  | .fin n m x => .fin (!n) m x

/-- The signed mantissa at an exponent not above the value's own. -/
def mantAt (n : Bool) (m : Nat) (x e : Int) : Int :=
  let k : Int := (m * 2 ^ (x - e).toNat : Nat)
  if n then -k else k

/-- Exact sum; a zero from opposite signs is +0 (R163); ∞ − ∞ is a NaN (R172). -/
def Val.add : Val → Val → Val
  | .nan, _ => .nan
  | _, .nan => .nan
  | .inf a, .inf b => if a = b then .inf a else .nan
  | .inf a, .fin .. => .inf a
  | .fin .., .inf b => .inf b
  | .fin a m x, .fin b n y =>
    let e := min x y
    let k := mantAt a m x e + mantAt b n y e
    if k = 0 then .fin (a && b) 0 0 else .fin (decide (k < 0)) k.natAbs e

/-- Exact product; 0 × ∞ is a NaN (R172). -/
def Val.mul : Val → Val → Val
  | .nan, _ => .nan
  | _, .nan => .nan
  | .inf a, .inf b => .inf (a != b)
  | .inf a, .fin b n _ => if n = 0 then .nan else .inf (a != b)
  | .fin a m _, .inf b => if m = 0 then .nan else .inf (a != b)
  | .fin a m x, .fin b n y => .fin (a != b) (m * n) (x + y)

/-- Multiplies by a power of two. -/
def Val.scale (v : Val) (k : Int) : Val :=
  match v with
  | .fin n m x => .fin n m (x + k)
  | v => v

/-! ### Rounding (R161, R162) -/

/-- Rounds m / 2^r to a natural number: modes 0 to nearest even, 1 toward zero, 2 toward −∞, 3 stochastic with
`bits` (R161). -/
def roundNat (neg : Bool) (m r mode bits : Nat) : Nat :=
  let lo := m / 2 ^ r
  let rem := m % 2 ^ r
  if rem = 0 then lo
  else
    match mode with
    | 0 => if 2 * rem > 2 ^ r ∨ (2 * rem = 2 ^ r ∧ lo % 2 = 1) then lo + 1 else lo
    | 1 => lo
    | 2 => if neg then lo + 1 else lo
    | _ => if 65536 * rem / 2 ^ r + bits ≥ 65536 then lo + 1 else lo

/-- The code of a magnitude k × 2^q with k ≤ 2^(m+1), or none where it exceeds the largest finite value. -/
def Fmt.codeOf (f : Fmt) (k : Nat) (q : Int) : Option Nat :=
  let (k, q) := if k = 2 ^ (f.m + 1) then (2 ^ f.m, q + 1) else (k, q)
  let c : Nat := if k < 2 ^ f.m then k else ((q + f.m + f.bias).toNat) * 2 ^ f.m + (k - 2 ^ f.m)
  if c ≤ f.top then some c else none

/-- Round(x, fmt, mode) with overflow per R162. -/
def Fmt.round (f : Fmt) (v : Val) (mode bits : Nat) : Nat :=
  match v with
  | .nan => f.qnan
  | .inf n => (if f.inf then f.infinity else f.top) + (if n then f.sign else 0)
  | .fin n m x =>
    let s := if n then f.sign else 0
    if m = 0 then s
    else
      let q := max (x + m.log2) (1 - (f.bias : Int)) - f.m
      let k := if q ≤ x then m * 2 ^ (x - q).toNat else roundNat n m (q - x).toNat mode bits
      match f.codeOf k q with
      | some c => c + s
      | none =>
        if f.inf && (mode == 0 || mode == 3 || (mode == 2 && n)) then f.infinity + s else f.top + s

/-- Saturate(x, fmt) on a code (R162). -/
def Fmt.saturate (f : Fmt) (c : Nat) : Nat :=
  if f.inf && c % f.sign == f.infinity then f.top + c / f.sign * f.sign else c

/-- Rounds an exact value to an integer. -/
def roundInt (n : Bool) (m : Nat) (x : Int) (mode bits : Nat) : Int :=
  let k : Nat := if 0 ≤ x then m * 2 ^ x.toNat else roundNat n m (-x).toNat mode bits
  if n then -(k : Int) else k

def clampInt (lo hi v : Int) : Int := max lo (min hi v)

/-! ### Operations on codes (R172, R173, R174) -/

def addF (f : Fmt) (a b : Nat) : Nat := f.round ((f.val a).add (f.val b)) 0 0
def subF (f : Fmt) (a b : Nat) : Nat := f.round ((f.val a).add (f.val b).neg) 0 0
def mulF (f : Fmt) (a b : Nat) : Nat := f.round ((f.val a).mul (f.val b)) 0 0
def fmaF (f : Fmt) (a b d : Nat) : Nat := f.round (((f.val a).mul (f.val b)).add (f.val d)) 0 0

/-- The order of codes that puts −0 below +0. -/
def orderF (f : Fmt) (c : Nat) : Int := if c / f.sign % 2 = 1 then -((c % f.sign : Nat) : Int) - 1 else c

/-- The order of codes in which −0 equals +0. -/
def cmpKey (f : Fmt) (c : Nat) : Int := if c / f.sign % 2 = 1 then -((c % f.sign : Nat) : Int) else c

def isNan (f : Fmt) (c : Nat) : Bool := f.val c == .nan

/-- VFMIN and VFMAX (R173). -/
def minF (f : Fmt) (a b : Nat) : Nat :=
  if isNan f a && isNan f b then f.qnan else if isNan f a then b else if isNan f b then a
  else if orderF f b < orderF f a then b else a

def maxF (f : Fmt) (a b : Nat) : Nat :=
  if isNan f a && isNan f b then f.qnan else if isNan f a then b else if isNan f b then a
  else if orderF f a < orderF f b then b else a

/-- Class (R141). -/
def classF (f : Fmt) (c : Nat) : Nat :=
  let neg := decide (c / f.sign % 2 = 1)
  match f.val c with
  | .nan => if c / 2 ^ (f.m - 1) % 2 = 1 then 2 ^ 9 else 2 ^ 8
  | .inf n => if n then 1 else 2 ^ 7
  | .fin _ m _ =>
    if m = 0 then (if neg then 2 ^ 3 else 2 ^ 4)
    else if c / 2 ^ f.m % 2 ^ f.e = 0 then (if neg then 2 ^ 2 else 2 ^ 5)
    else (if neg then 2 ^ 1 else 2 ^ 6)

/-! ### Special functions (R175, R176) -/

/-- The integer square root of `n`, from a bit count down. -/
def sqrtFrom (n : Nat) : Nat → Nat → Nat
  | 0, r => r
  | b + 1, r => if (r + 2 ^ b) * (r + 2 ^ b) ≤ n then sqrtFrom n b (r + 2 ^ b) else sqrtFrom n b r

/-- The square root of m × 2^x with a sticky last bit: exact enough to round once. -/
def sqrtVal (m : Nat) (x : Int) : Val :=
  let (m, x) := if x % 2 = 0 then (m, x) else (2 * m, x - 1)
  let n := m * 2 ^ 64
  let r := sqrtFrom n (n.log2 / 2 + 1) 0
  .fin false (2 * r + (if r * r = n then 0 else 1)) (x / 2 - 33)

/-- The reciprocal of m × 2^x with a sticky last bit. -/
def rcpVal (neg : Bool) (m : Nat) (x : Int) : Val :=
  let n := 2 ^ (m.log2 + 40)
  .fin neg (2 * (n / m) + (if n % m = 0 then 0 else 1)) (-x - (m.log2 + 40) - 1)

/-- The reciprocal square root of m × 2^x, near enough to find its code (R175). -/
def rsqVal (m : Nat) (x : Int) : Val :=
  let (m, x) := if x % 2 = 0 then (m, x) else (2 * m, x - 1)
  let n := 2 ^ (m.log2 / 2 * 2 + 128) / m
  .fin false (sqrtFrom n (n.log2 / 2 + 1) 0) (-(x / 2) - (m.log2 / 2 + 64 : Nat))

/-- x × 4 where x is a multiple of 0.25; none otherwise. -/
def quarters (neg : Bool) (m : Nat) (x : Int) : Option Int :=
  let x := x + 2
  if 0 ≤ x then some (let k : Int := (m * 2 ^ x.toNat : Nat); if neg then -k else k)
  else if m % 2 ^ (-x).toNat = 0 then some (let k : Int := (m / 2 ^ (-x).toNat : Nat); if neg then -k else k)
  else none

/-- The exact cases of the special functions, by minor (R176); none where the result is only bounded (R175). -/
def sfuExact (f : Fmt) (k : Nat) (c : Nat) : Option Nat :=
  let one := f.round (.fin false 1 0) 0 0
  match f.val c with
  | .nan => some f.qnan
  | .inf n =>
    match k with
    | 0 => some (if n then f.sign else 0)
    | 1 => some (if n then f.qnan else 0)
    | 2 | 4 => some (if n then f.qnan else f.infinity)
    | 3 => some (if n then 0 else f.infinity)
    | 5 | 6 => some f.qnan
    | _ => some (one + (if n then f.sign else 0))
  | .fin n m x =>
    match k with
    | 0 =>
      if m = 0 then some (f.infinity + (if n then f.sign else 0))
      else if f.m = 10 then some (f.round (rcpVal n m x) 0 0) else none
    | 1 => if m = 0 then some (f.infinity + (if n then f.sign else 0)) else if n then some f.qnan else none
    | 2 => if m = 0 then some c else if n then some f.qnan else some (f.round (sqrtVal m x) 0 0)
    | 3 =>
      if m = 0 then some one
      else
        match quarters n m x with
        | some q => if q % 4 = 0 then some (f.round (.fin false 1 (clampInt (-1000) 1000 (q / 4))) 0 0) else none
        | none => none
    | 4 =>
      if m = 0 then some (f.infinity + f.sign)
      else if n then some f.qnan
      else if m = 2 ^ m.log2 then
        let p := x + m.log2
        some (f.round (.fin (decide (p < 0)) p.natAbs 0) 0 0)
      else none
    | 5 =>
      match quarters n m x with
      | some q =>
        if q % 2 = 0 then some (if n then f.sign else 0) else if q % 4 = 1 then some one else some (one + f.sign)
      | none => none
    | 6 =>
      match quarters n m x with
      | some q => if q % 4 = 0 then some one else if q % 4 = 2 then some (one + f.sign) else some 0
      | none => none
    | _ => if m = 0 then some c else none

/-- A code moved into a range of codes. -/
def within (f : Fmt) (lo hi c : Nat) : Nat :=
  if isNan f c || decide (orderF f c < orderF f lo) then lo else if orderF f hi < orderF f c then hi else c

/-- Two numbers in units of 2^q that hold a result between them: strictly, unless they are equal. -/
structure Near where
  lo : Int
  hi : Int
  q  : Int
  deriving DecidableEq, Repr

/-- A result within `err` units of `v`. -/
def about (v : Int) (err : Nat) (q : Int) : Near := { lo := v - err, hi := v + err, q := q }

/-- The negative of such a result, where `n` holds. -/
def Near.signed (n : Bool) (r : Near) : Near := if n then { r with lo := -r.hi, hi := -r.lo } else r

/-- ln 2, 2π and 2 / ln 2 in units of 2^−128. -/
def ln2Bits : Nat := 235865763225513294137944142764154484399
def turnBits : Nat := 2138057168129933495719360746323741566601
def twoLogE : Nat := 981847366517593131492738692572186475043

/-- A value in units of 2^−128, toward −∞. -/
def fixed128 (neg : Bool) (m : Nat) (x : Int) : Int := roundInt neg m (x + 128) 2 0

/-- The Taylor series of e^y, y in units of 2^−128: the terms from the `k`-th on. -/
def expTerms (y : Nat) : Nat → Nat → Nat → Nat
  | 0, _, _ => 0
  | fuel + 1, k, t => t + expTerms y fuel (k + 1) (t * y / 2 ^ 128 / (k + 1))

/-- The Taylor series of sin y. -/
def sinTerms (y : Nat) : Nat → Nat → Nat → Int
  | 0, _, _ => 0
  | fuel + 1, k, t => (t : Int) - sinTerms y fuel (k + 2) (t * y / 2 ^ 128 * y / 2 ^ 128 / ((k + 1) * (k + 2)))

/-- e^y, y in units of 2^−128. -/
def expBits (y : Nat) : Nat := expTerms y 40 0 (2 ^ 128)

/-- 2^t, t in units of 2^−128. -/
def exp2Near (t : Int) : Near := about (expBits ((t % 2 ^ 128).toNat * ln2Bits / 2 ^ 128)) 256 (t / 2 ^ 128 - 128)

/-- The first bits of the base-2 logarithm of M, 1 ≤ M < 2 in units of 2^−128. -/
def logBits : Nat → Nat → Nat → Nat
  | 0, _, acc => acc
  | fuel + 1, v, acc =>
    let v := v * v / 2 ^ 128
    if 2 ^ 129 ≤ v then logBits fuel (v / 2) (2 * acc + 1) else logBits fuel v (2 * acc)

/-- sin(2πt), t in units of 2^−128. -/
def sinNear (t : Int) : Near := about (sinTerms ((t % 2 ^ 128).toNat * turnBits / 2 ^ 128) 40 1 ((t % 2 ^ 128).toNat * turnBits / 2 ^ 128)) (2 ^ 24) (-128)

/-- tanh of a magnitude: below the argument where that is small, and below 1 where it is large. -/
def tanhNear (m : Nat) (x : Int) : Near :=
  if 5 ≤ x + m.log2 then { lo := 2 ^ 128 - 2 ^ 38, hi := 2 ^ 128, q := -128 }
  else if x + m.log2 < -30 then { lo := m * 2 ^ 50 - m, hi := m * 2 ^ 50, q := x - 50 }
  else
    let t : Int := ((fixed128 false m x).toNat * twoLogE / 2 ^ 128 : Nat)
    let v : Nat := expBits ((t % 2 ^ 128).toNat * ln2Bits / 2 ^ 128) * 2 ^ (t / 2 ^ 128).toNat
    about ((v - 2 ^ 128) * 2 ^ 128 / (v + 2 ^ 128) : Nat) (2 ^ 12) (-128)

/-- The exact result of a special function, near enough that its bound decides its codes (R175): for an argument near 0, that it lies
beyond 1, or beyond 0, on the one side. -/
def sfuNear (k : Nat) (n : Bool) (m : Nat) (x : Int) : Near :=
  let size := x + m.log2
  match k with
  | 0 =>
    let h := m.log2 + 128
    let v := 2 ^ h / m
    Near.signed n { lo := v, hi := if 2 ^ h % m = 0 then v else v + 1, q := -x - h }
  | 1 =>
    match rsqVal m x with
    | .fin _ r y => if m = 2 ^ m.log2 ∧ size % 2 = 0 then { lo := r, hi := r, q := y } else about r 2 y
    | _ => { lo := 0, hi := 0, q := 0 }
  | 3 =>
    if 10 ≤ size then { lo := 1, hi := 1, q := if n then -1000 else 1000 }
    else if size < -100 then { lo := if n then 2 ^ 100 - 1 else 2 ^ 100, hi := if n then 2 ^ 100 else 2 ^ 100 + 1, q := -100 }
    else exp2Near (fixed128 n m x)
  | 4 => about (size * 2 ^ 80 + (logBits 80 (m * 2 ^ 128 / 2 ^ m.log2) 0 : Nat)) 4 (-80)
  | 5 => if size < -90 then Near.signed n { lo := 0, hi := 1, q := -86 } else sinNear (fixed128 n m x)
  | 6 => if size < -50 then { lo := 2 ^ 94 - 1, hi := 2 ^ 94, q := -94 } else sinNear (fixed128 n m x + 2 ^ 126)
  | _ => Near.signed n (tanhNear m x)

/-- The bound of R175 beside a result whose ulp is 2^u: so many times a power of two. -/
def sfuBound (f : Fmt) (k : Nat) (l u : Int) : Nat × Int :=
  let wide := decide (f.m = 23)
  match k with
  | 0 => (1, u)
  | 5 | 6 => (1, if wide then -22 else -10)
  | 4 => if l = 0 || l = -1 then (1, if wide then -22 else -10) else (if wide then 2 else 1, u)
  | 7 => if wide then (if u + 1 < -24 then (1, -24) else (2, u)) else (1, u)
  | _ => (if wide then 2 else 1, u)

/-- The greatest code at or below v × 2^q, and the least at or above. -/
def codeBelow (f : Fmt) (v q : Int) : Nat := f.round (.fin (decide (v < 0)) v.natAbs q) 2 0
def codeAbove (f : Fmt) (v q : Int) : Nat :=
  let c := codeBelow f (-v) q
  if c < f.sign then c + f.sign else c - f.sign

/-- The codes that lie within the bound of R175 of the exact result; where that result overflows (R162), infinity too. -/
def sfuBounds (f : Fmt) (k : Nat) (c : Nat) : Nat × Nat :=
  match f.val c with
  | .fin n m x =>
    let r := sfuNear k n m x
    let u := max (r.q + (min r.lo.natAbs r.hi.natAbs).log2) (1 - (f.bias : Int)) - f.m
    let (b, p) := sfuBound f k (x + m.log2) u
    let e := min r.q p
    let d := b * 2 ^ (p - e).toNat
    let near := f.round (.fin (decide (r.lo < 0)) r.lo.natAbs r.q) 0 0
    let lo := codeAbove f (r.hi * 2 ^ (r.q - e).toNat - d) e
    let hi := codeBelow f (r.lo * 2 ^ (r.q - e).toNat + d) e
    (if orderF f near < orderF f lo then near else lo, if orderF f hi < orderF f near then near else hi)
  | _ => (0, 0)

/-- A special function on one element: minor `k`, type `ty` 0 .f32 or 1 .f16 (log 5). -/
def sfu (k ty : Nat) (c : Nat) : Nat :=
  let f := if ty = 0 then fp32 else fp16
  match sfuExact f k c with
  | some r => r
  | none =>
    let (lo, hi) := sfuBounds f k c
    within f lo hi ((Config.sfu k ty (BitVec.ofNat 32 c)).toNat % (2 * f.sign))

/-! ### Stochastic bits (R164) -/

def mix64 (x : BitVec 64) : BitVec 64 :=
  let x := (x ^^^ (x >>> 33)) * 0xFF51AFD7ED558CCD
  let x := (x ^^^ (x >>> 33)) * 0xC4CEB9FE1A85EC53
  x ^^^ (x >>> 33)

/-- What the bits of one instruction depend on, beside lane and element. -/
structure Stoch where
  seed : Word := 0
  lin  : Nat := 0
  gix  : Nat := 0
  pc   : Word := 0
  n    : Word := 0
  deriving DecidableEq, Repr

/-- StochBits(16) for lane `i`, element `e`. -/
def Stoch.bits (h : Stoch) (i e : Nat) : Nat :=
  let x := mix64 (h.seed.setWidth 64)
  let key : BitVec 64 := (BitVec.ofNat 32 h.lin) ++ (BitVec.ofNat 8 h.gix) ++ (BitVec.ofNat 8 i) ++ (BitVec.ofNat 16 e)
  let x := mix64 (x ^^^ key)
  (mix64 (x ^^^ (h.pc ++ h.n))).toNat % 65536

/-! ### MX blocks (R153 to R157) -/

/-- The extra value X of a field, in quarters (R153). -/
def xQuarters (field : Nat) : Int :=
  let mag : Int := [1, 3, 5, 7, 10, 14, 20, 28].getD (field % 8) 0
  if field / 8 % 2 = 1 then -mag else mag

/-- A number of quarters as a value. -/
def quarterVal (q : Int) : Val := .fin (decide (q < 0)) q.natAbs (-2)

/-- The format of an MX element: 0 E4M3, 1 E5M2, 2 INT8, 3 E2M1X (R182). -/
def mxFmt (fmt : Nat) : Fmt := if fmt = 0 then e4m3 else if fmt = 1 then e5m2 else e2m1

/-- The value of an INT code of `w` bits. -/
def intVal (w c : Nat) : Val :=
  let v : Int := if c % 2 ^ w < 2 ^ (w - 1) then (c % 2 ^ w : Nat) else (c % 2 ^ w : Nat) - (2 ^ w : Nat)
  .fin (decide (v < 0)) v.natAbs 0

/-- MXValue(code, fmt, word) (R156). -/
def mxValue (code fmt word : Nat) : Val :=
  let se := word % 256
  if se = 255 then .nan
  else
    let v :=
      match fmt with
      | 2 => intVal 8 code
      | 3 => if code % 16 = 8 then quarterVal (xQuarters (word / 256 % 16)) else e2m1.val (code % 16)
      | _ => (mxFmt fmt).val (code % 256)
    v.scale ((se : Int) - 127)

def isFinite : Val → Bool
  | .fin .. => true
  | _ => false

/-- floor(log2 |v|) of a finite nonzero value. -/
def ilog2 : Val → Option Int
  | .fin _ m x => if m = 0 then none else some (x + m.log2)
  | _ => none

/-- The greatest floor(log2) of a list. -/
def maxLog2 (vs : List Val) : Option Int :=
  vs.foldl (fun acc v =>
    match acc, ilog2 v with
    | none, r => r
    | some a, some b => some (max a b)
    | some a, none => some a) none

/-- Round(u, E2M1X, RNE) as a code without 0b1000, and as quarters. -/
def gridCode (v : Val) (mode bits : Nat) : Nat :=
  let c := e2m1.round v mode bits
  if c = 8 then 0 else c

def codeQuarters (c : Nat) : Int :=
  match e2m1.val c with
  | .fin n m x => let k : Int := (m * 2 ^ (x + 2).toNat : Nat); if n then -k else k
  | _ => 0

/-- |u − q/4| at an exponent `e` at most −2 and at most u's own. -/
def gapAt (u : Val) (q : Int) (e : Int) : Nat :=
  match u with
  | .fin n m x => (mantAt n m x e - q * 2 ^ (-2 - e).toNat).natAbs
  | _ => 0

/-- X is strictly nearer to u than its rounded grid value (R157). -/
def takesX (u : Val) (field : Nat) (e : Int) : Bool :=
  decide (gapAt u (xQuarters field) e < gapAt u (codeQuarters (gridCode u 0 0)) e)

/-- The least exponent of a list of values, at most −2. -/
def minExp (us : List Val) : Int :=
  us.foldl (fun e u => match u with | .fin _ m x => if m = 0 then e else min e x | _ => e) (-2)

/-- err(x) of R157 at a common exponent. -/
def xErr (us : List Val) (field : Nat) (e : Int) : Nat :=
  us.foldl (fun acc u =>
    let g := gapAt u (codeQuarters (gridCode u 0 0)) e
    let x := gapAt u (xQuarters field) e
    let d := if x < g then x else g
    acc + d * d) 0

/-- MXQuantise (R157): codes, SE, XF. DESIGN CHOICE: INT8 holds what lies below −127.5 as −128 (log 57). `bits k` are the stochastic bits of element k; `sat` applies R162's flag. -/
def mxQuantise (vs : List Val) (fmt mode : Nat) (xopt sat : Bool) (bits : Nat → Nat) : List Nat × Nat × Nat :=
  if vs.any fun v => !isFinite v then (vs.map fun _ => 0, 255, 0)
  else
    let emax : Int := match fmt with | 0 => 8 | 1 => 15 | 2 => 6 | _ => 2
    let se : Int := match maxLog2 vs with | none => 0 | some l => clampInt 0 254 (l - emax + 127)
    let us := vs.map fun v => v.scale (127 - se)
    let idx := List.range us.length
    let code := fun (k : Nat) =>
      let u := us.getD k .nan
      match fmt with
      | 2 =>
        match u with
        | .fin n m x => ((clampInt (-128) 127 (roundInt n m x mode (bits k))) % 256).toNat
        | _ => 0
      | 3 => gridCode u mode (bits k)
      | _ => let c := (mxFmt fmt).round u mode (bits k); if sat then (mxFmt fmt).saturate c else c
    if xopt then
      let e := minExp us
      let best := (List.range 16).foldl (fun b x => if xErr us x e < xErr us b e then x else b) 0
      (idx.map fun k => if takesX (us.getD k .nan) best e then 8 else code k, se.toNat, best)
    else (idx.map code, se.toNat, 0)

/-- The scale word 0 : XF : SE. -/
def scaleWord (se xf : Nat) : Nat := 256 * xf + se

/-! ### Plane images (R158 to R160) -/

/-- RoundNE(v / 2^(pe − 127)) of a finite value. -/
def fitAt (v : Val) (pe : Int) : Int :=
  match v with
  | .fin n m x => roundInt n m (x - (pe - 127)) 0 0
  | _ => 0

/-- The smallest pe from `lo` for which every RoundNE is at most 2^(P−1) − 1 in magnitude, or 254 (R160). -/
def fitFrom (vs : List Val) (p : Nat) : Nat → Nat → Nat
  | pe, 0 => pe
  | pe, fuel + 1 =>
    if vs.all fun v => decide ((fitAt v pe).natAbs ≤ 2 ^ (p - 1) - 1) then pe else fitFrom vs p (pe + 1) fuel

/-- A start below the answer: no smaller pe can fit. -/
def fitStart (vs : List Val) (p : Nat) : Nat :=
  match maxLog2 vs with
  | none => 0
  | some l => (l + 127 - (p : Int)).toNat

/-- The fit rule (R160): pe and the integers. -/
def fitBlock (vs : List Val) (p : Nat) : Nat × List Int :=
  if vs.any fun v => !isFinite v then (255, vs.map fun _ => 0)
  else
    match maxLog2 vs with
    | none => (0, vs.map fun _ => 0)
    | some _ =>
      let start := Nat.min 254 (fitStart vs p)
      let pe := fitFrom vs p start (254 - start)
      (pe, vs.map fun v => clampInt (-(2 ^ (p - 1) : Nat)) ((2 ^ (p - 1) : Nat) - 1) (fitAt v pe))

/-- Bit p of each integer, as a plane word (R159). -/
def planeWord (qs : List Int) (p : Nat) : Nat :=
  qs.foldr (fun (q : Int) acc => 2 * acc + (q / ((2 ^ p : Nat) : Int) % 2).toNat) 0

/-- The integers of `n` plane words: two's complement, the last plane the sign (R158, R159). -/
def planeInts (words : List Nat) (n : Nat) : List Int :=
  (List.range 32).map fun k =>
    (List.range n).foldl (fun (acc : Int) p =>
      let b : Int := (words.getD p 0 / 2 ^ k % 2 : Nat)
      if p + 1 = n then acc - b * (2 ^ p : Nat) else acc + b * (2 ^ p : Nat)) 0

/-! ### Combining operations (R142) -/

/-- a ⊕ b for the codes 0 to 10 of R142. -/
def combine (op : Nat) (a b : Word) : Word :=
  match op with
  | 0 => a + b
  | 1 => if b.slt a then b else a
  | 2 => if a.slt b then b else a
  | 3 => if b < a then b else a
  | 4 => if a < b then b else a
  | 5 => a &&& b
  | 6 => a ||| b
  | 7 => a ^^^ b
  | 8 => BitVec.ofNat 32 (addF fp32 a.toNat b.toNat)
  | 9 => BitVec.ofNat 32 (minF fp32 a.toNat b.toNat)
  | _ => BitVec.ofNat 32 (maxF fp32 a.toNat b.toNat)

/-- The identity of a combining operation (R142). -/
def identityOf (op : Nat) : Word :=
  match op with
  | 1 => 0x7FFFFFFF
  | 2 => 0x80000000
  | 3 | 5 => 0xFFFFFFFF
  | 9 => 0x7F800000
  | 10 => 0xFF800000
  | _ => 0

/-- Combines a list in order; the identity of the empty list. -/
def combineAll (op : Nat) : List Word → Word
  | [] => identityOf op
  | w :: ws => ws.foldl (combine op) w

end Sys2Proof.Machine
end

