-- ==== Sys2Proof/Machine/Registers.lean ====
section
/-! DEFINITION. Finding and replacing the parts of the state, and every read and write of a scalar or vector
register (R48, R71, R101 to R106, R120 to R130). -/

namespace Sys2Proof.Machine
open Sys2Proof

/-! ### Parts of the state -/

def grp (s : State) (id : Nat) : Group := mapGetD s.groups id {}
def setGrp (s : State) (id : Nat) (g : Group) : State := { s with groups := mapPut s.groups id g }
def updGrp (s : State) (id : Nat) (f : Group → Group) : State := setGrp s id (f (grp s id))

def team (s : State) (id : Nat) : Team := mapGetD s.teams id {}
def setTeam (s : State) (id : Nat) (t : Team) : State := { s with teams := mapPut s.teams id t }
def updTeam (s : State) (id : Nat) (f : Team → Team) : State := setTeam s id (f (team s id))

def span (s : State) (id : Nat) : Span := mapGetD s.spans id {}
def updSpan (s : State) (id : Nat) (f : Span → Span) : State := { s with spans := mapPut s.spans id (f (span s id)) }

def launch (s : State) (id : Nat) : Launch := mapGetD s.launches id {}
def updLaunch (s : State) (id : Nat) (f : Launch → Launch) : State :=
  { s with launches := mapPut s.launches id (f (launch s id)) }

def ctx (s : State) (id : Nat) : Ctx := mapGetD s.ctxs id {}
def updCtx (s : State) (id : Nat) (f : Ctx → Ctx) : State := { s with ctxs := mapPut s.ctxs id (f (ctx s id)) }

def core (s : State) (id : Nat) : Core := mapGetD s.cores id {}
def updCore (s : State) (id : Nat) (f : Core → Core) : State := { s with cores := mapPut s.cores id (f (core s id)) }

def part (s : State) (id : Nat) : Part := mapGetD s.parts id {}
def updPart (s : State) (id : Nat) (f : Part → Part) : State := { s with parts := mapPut s.parts id (f (part s id)) }

def quad (c : Core) (n : Nat) : Quad := mapGetD c.quads n {}
def updQuad (s : State) (c n : Nat) (f : Quad → Quad) : State :=
  updCore s c fun k => { k with quads := mapPut k.quads n (f (quad k n)) }

/-- A quad at a cycle: the freezes it owes follow the beats, and the cycles since are idle ones (R80, R129). -/
def settleQuad (c : Nat) (q : Quad) : Quad :=
  if q.owed ≠ 0 ∧ q.beatEnd ≤ c then
    let now := q.now + (q.beatEnd - q.clk)
    let clk := max q.clk q.beatEnd + q.owed
    { q with owed := 0, now := now + (c - clk), clk := max clk c }
  else { q with now := q.now + (c - q.clk), clk := max q.clk c }

def split (g : Group) (n : Nat) : Split := mapGetD g.splits n {}
def setSplit (g : Group) (n : Nat) (p : Split) : Group := { g with splits := mapPut g.splits n p }
/-- Changes a split that exists. -/
def updSplit (g : Group) (n : Nat) (f : Split → Split) : Group :=
  match mapGet g.splits n with
  | some p => setSplit g n (f p)
  | none => g

/-- The address slice of a group; a fresh one where the kernel has a single slice. -/
def slice (g : Group) : ASlice := g.aslice.getD {}

/-- A new identifier for a group, an operation or a copy. -/
def freshId (s : State) : Nat × State := (s.nextId, { s with nextId := s.nextId + 1 })

/-- The bytes of a header whose layout is private to the hardware: free values, from the draw `n` on (log 16). -/
def headerBytes (n len : Nat) : List Byte := (List.range len).map fun i => Config.freeByte (n + i)

/-! ### Performance counters (R436, R522) -/

/-- Counts `n` occurrences of an event on a core in every counter that selects it; no overflow is flagged in the cycle of a
write (R436). -/
def countEvent (s : State) (c code n : Nat) : State :=
  { s with parts := s.parts.map fun p =>
      if p.2.pcnts.isEmpty || !has p.2.clusters (c / 8) then p
      else
        (p.1, { p.2 with pcnts := p.2.pcnts.map fun e =>
          if e.1 / 8 = c && e.2.sel.getLsbD 31 && e.2.sel.toNat % 256 == code then
            let now := s.clk.toNat + 1
            (e.1, { e.2 with
              count := (e.2.count + n) % 2 ^ 48, ovf := e.2.ovf || (decide (2 ^ 48 ≤ e.2.count + n) && e.2.setAt != now)
              incAt := now, incs := (if e.2.incAt = now then e.2.incs else 0) + n })
          else e }) }

/-! ### Who acts -/

/-- The group that issues. -/
def me (s : State) : Group := grp s s.who.1
def setMe (s : State) (g : Group) : State := setGrp s s.who.1 g
def updMe (s : State) (f : Group → Group) : State := updGrp s s.who.1 f

/-- The team, core, launch, context and partition of a group. -/
def teamOf (s : State) (g : Group) : Team := team s g.team
def coreOf (s : State) (g : Group) : Nat := (teamOf s g).core
def launchOf (s : State) (g : Group) : Launch := launch s (teamOf s g).launch
def ctxOf (s : State) (g : Group) : Nat := (launchOf s g).ctx
def partOf (s : State) (g : Group) : Nat := (launchOf s g).part

/-- TeamLin (R164). -/
def linOf (s : State) (g : Group) : Nat := (teamOf s g).lin

/-- Unfrozen cycles of the group's quad at the present cycle (R48, R51). -/
def nowOf (s : State) (g : Group) : Nat := (settleQuad s.clk.toNat (quad (core s (coreOf s g)) g.quad)).now

/-- The cycles by which a stream's stall and latencies count: no freeze stops the address slice (R320, log 10). -/
def streamNow (s : State) (g : Group) : Stream → Nat
  | .split _ => nowOf s g
  | .aslice => s.clk.toNat

/-! ### Program counters and waits -/

def pcOf (g : Group) : Stream → Word
  | .split n => (split g n).pc
  | .aslice => (slice g).pc

def setPc (g : Group) (st : Stream) (pc : Word) : Group :=
  match st with
  | .split n => updSplit g n fun p => { p with pc := pc }
  | .aslice => { g with aslice := some { slice g with pc := pc } }

def waitOf (g : Group) : Stream → Option Wait
  | .split n => (split g n).wait
  | .aslice => (slice g).wait

def setWait (g : Group) (st : Stream) (w : Option Wait) : Group :=
  match st with
  | .split n => updSplit g n fun p => { p with wait := w }
  | .aslice => { g with aslice := some { slice g with wait := w } }

/-- The code address `len` bytes on within its segment. An offset of 4096 or more does not fit OFF: its excess stands
in the reserved bits, so that no segment is entered by it and a fetch there traps (R27, R34, log 18). -/
def nextPc (pc : Word) (len : Nat) : Word :=
  if pc.toNat % 4096 + len < 4096 then pc + BitVec.ofNat 32 len
  else (pc &&& 0xFFF000) ||| 0x1000000 ||| BitVec.ofNat 32 ((pc.toNat % 4096 + len) % 4096)

/-- Continues after an instruction of `len` bytes. -/
def bump (g : Group) (st : Stream) (len : Nat) : Group := setWait (setPc g st (nextPc (pcOf g st) len)) st none

/-- The issuing stream continues at the following instruction. -/
def advance (s : State) (len : Nat) : State := updMe s fun g => bump g s.who.2 len

/-- The issuing stream stays at its instruction and does not issue until it need not wait. -/
def block (s : State) (w : Wait) : State := updMe s fun g => setWait g s.who.2 (some w)

/-! ### Lanes -/

/-- Active(g) of the issuing stream (R72): the address slice has no lanes. -/
def active (g : Group) : Stream → Lanes
  | .split n => (split g n).am &&& (split g n).members &&& ~~~ g.dead
  | .aslice => 0

/-- A 32-bit field of a lane set, beat 0, 1 or 2. -/
def beatOf (l : Lanes) (j : Nat) : Word := l.extractLsb' (32 * j) 32

/-- Replaces one beat of a lane set. -/
def setBeat (l : Lanes) (j : Nat) (v : Word) : Lanes :=
  (l &&& ~~~ ((0xFFFFFFFF#96) <<< (32 * j))) ||| (v.setWidth 96 <<< (32 * j))

/-! ### Scalar registers (R71, R101 to R106) -/

/-- Reads a scalar register: s0 is zero, s61 to s63 are the split's `am`; the address slice has s0 to s31. -/
def readS (g : Group) (st : Stream) (r : Nat) : Word :=
  match st with
  | .aslice => if r = 0 then 0 else cellGet (slice g).sregs r
  | .split n => if r = 0 then 0 else if 61 ≤ r then beatOf (split g n).am (r - 61) else cellGet g.sregs r

/-- Writes a scalar register: s0 discards, s61 to s63 are ANDed with membership. DESIGN CHOICE: a result in flight to s61 to s63
of a split that has merged or ended before it lands is dropped; the manual says nothing of it (log 36). -/
def putS (g : Group) (st : Stream) (r : Nat) (v : Word) : Group :=
  match st with
  | .aslice => if r = 0 then g else { g with aslice := some { slice g with sregs := cellSet (slice g).sregs r v } }
  | .split n =>
    if r = 0 then g
    else if 61 ≤ r then updSplit g n fun p => { p with am := setBeat p.am (r - 61) (v &&& beatOf p.members (r - 61)) }
    else { g with sregs := cellSet g.sregs r v }

/-- The pair of an even register (R102). -/
def readPair (g : Group) (st : Stream) (r : Nat) : Addr := readS g st (r + 1) ++ readS g st r

/-- The triple of an even register (R103). -/
def readTriple (g : Group) (st : Stream) (r : Nat) : Lanes := readS g st (r + 2) ++ readS g st (r + 1) ++ readS g st r

/-- Both streams name the same scalar file and, for `am`, the same bank. -/
def sameBank (a b : Stream) (r : Nat) : Bool :=
  match a, b with
  | .aslice, .aslice => true
  | .split m, .split n => decide (r < 61) || decide (m = n)
  | _, _ => false

/-- Whether a write in flight and a write of scalar `r` by `st` meet. -/
def hitsS (w : RegWrite) (st : Stream) (r : Nat) : Bool := !w.isV && decide (w.reg = r) && sameBank w.stream st r

/-- Drops results in flight to scalar `r` that would land after `due` (R51, R104). -/
def shedS (fly : List Fly) (st : Stream) (r due : Nat) : List Fly :=
  fly.filter fun f => !(hitsS f.w st r && decide (due < f.due))

/-- Writes a scalar register now; an older result still in flight does not overwrite it (R51, R104). -/
def writeS (g : Group) (st : Stream) (r : Nat) (v : Word) : Group :=
  putS { g with fly := g.fly.filter fun f => !hitsS f.w st r } st r v

/-- Writes a pair. -/
def writePair (g : Group) (st : Stream) (r : Nat) (v : Addr) : Group :=
  writeS (writeS g st r (v.extractLsb' 0 32)) st (r + 1) (v.extractLsb' 32 32)

/-! ### The end of a wait (R235, R397) -/

/-- The instruction a stream has waited at writes these registers and is over. -/
def ret (g : Group) (st : Stream) (ws : List (Nat × Word)) : Group := bump (ws.foldl (fun g w => writeS g st w.1 w.2) g) st 4

/-- What a stream has waited for has come: its instruction is over, once its group goes on where it is stopped. -/
def wake (g : Group) (st : Stream) (ws : List (Nat × Word)) : Group :=
  if g.state = .running then ret g st ws else setWait g st (some (.woken ws))

/-- The instructions whose wait ended while the group was stopped are over. -/
def wakeAll (g : Group) : Group :=
  ((g.splits.map fun e => Stream.split e.1) ++ [Stream.aslice]).foldl
    (fun g st => match waitOf g st with | some (.woken ws) => ret g st ws | _ => g) g

/-! ### Vector registers (R120 to R130) -/

/-- Lane `i` of vk as it is stored. -/
def readV (g : Group) (k i : Nat) : Word := cellGet g.vregs (96 * k + i)

/-- Lane `j` of vk as a cross-lane instruction reads it: zero for a dead lane and from 96 up (R130). -/
def crossV (g : Group) (k j : Nat) : Word := if 96 ≤ j || g.dead.getLsbD j then 0 else readV g k j

/-- Writes the lanes of a list. -/
def putLanes (m : Cells 32) (k : Nat) : List Nat → (Nat → Word) → Cells 32
  | [], _ => m
  | i :: is, f => putLanes (cellSet m (96 * k + i) (f i)) k is f

/-- Writes vk in the living lanes of a set. -/
def putV (g : Group) (k : Nat) (mask : Lanes) (f : Nat → Word) : Group :=
  { g with vregs := putLanes g.vregs k (lanesOf (mask &&& ~~~ g.dead)) f }

/-- Takes lanes out of results in flight to vk that would land after `due`, unless it is none: then out of all. -/
def shedV (fly : List Fly) (k : Nat) (mask : Lanes) (due : Option Nat) : List Fly :=
  fly.map fun f =>
    if f.w.isV && decide (f.w.reg = k) && (match due with | some d => decide (d < f.due) | none => true)
    then { f with w := { f.w with mask := f.w.mask &&& ~~~ mask } } else f

/-- Writes vk now in the lanes of a set. -/
def writeV (g : Group) (k : Nat) (mask : Lanes) (f : Nat → Word) : Group :=
  putV { g with fly := shedV g.fly k mask none } k mask f

/-- Values by lane, as data. -/
def pack (mask : Lanes) (f : Nat → Word) : Cells 32 := putLanes [] 0 (lanesOf mask) f

/-- Lands one result. -/
def land (g : Group) (w : RegWrite) : Group :=
  if w.isV then putV g w.reg w.mask fun i => cellGet w.vals i else putS g w.stream w.reg (cellGet w.vals 0)

/-- A result is due: by `now` unfrozen cycles, or `clk` clock cycles for the address slice. -/
def isDue (now clk : Nat) (f : Fly) : Bool :=
  match f.w.stream with
  | .split _ => decide (f.due ≤ now)
  | .aslice => decide (f.due ≤ clk)

/-- Lands the results due (R48). -/
def landDue (g : Group) (now clk : Nat) : Group :=
  let due := sortBy (fun a b => decide (a.due ≤ b.due)) (g.fly.filter (isDue now clk))
  let g := due.foldl (fun g f => land g f.w) g
  { g with fly := g.fly.filter fun f => !isDue now clk f }

/-- Lands everything in flight (R398). -/
def landAll (g : Group) : Group :=
  let all := sortBy (fun a b => decide (a.due ≤ b.due)) g.fly
  { all.foldl (fun g f => land g f.w) g with fly := [] }

/-- A scalar result of fixed latency `lat` (R48, R49). -/
def flyS (s : State) (st : Stream) (r : Nat) (v : Word) (lat : Nat) : State :=
  updMe s fun g =>
    let due := streamNow s g st + lat
    { g with fly := shedS g.fly st r due ++ [{ due := due, w := { isV := false, reg := r, vals := cellSet [] 0 v, stream := st } }] }

/-- A scalar result of a group that arrives `lat` cycles on and is interlocked until then (R50, R146). -/
def lockS (s : State) (gid : Nat) (st : Stream) (r : Nat) (v : Word) (lat : Nat) : State :=
  updGrp s gid fun g =>
    let due := streamNow s g st + lat
    { g with fly := shedS g.fly st r due ++
        [{ due := due, w := { isV := false, reg := r, vals := cellSet [] 0 v, stream := st }, lock := true }] }

/-- A vector result of fixed latency `lat` in the lanes of `mask`. -/
def flyV (s : State) (k : Nat) (mask : Lanes) (f : Nat → Word) (lat : Nat) : State :=
  updMe s fun g =>
    let due := nowOf s g + lat
    { g with fly := shedV g.fly k mask (some due) ++
        [{ due := due, w := { isV := true, reg := k, mask := mask, vals := pack mask f, stream := s.who.2 } }] }

end Sys2Proof.Machine
end

