-- ==== Sys2Proof/Machine/Memory.lean ====
section
/-! DEFINITION. Device memory: regions, the coherent home of every byte, poison, the L1s, translation, and the
monitors and weight versions that a write touches (R238, R243 to R262, R277, R386). -/

namespace Sys2Proof.Machine
open Sys2Proof

/-! ### Regions (R244, R245, R529) -/

inductive Region where
  | hbm | tier | host | peer (d : Nat) | reserved
  deriving DecidableEq, Repr

/-- The region of a physical address (R244); addresses not in use are reserved. -/
def regionOf (s : State) (pa : Nat) : Region :=
  if pa < 0x10000000000 then (if pa < s.hbmStacks * 36 * 0x40000000 then .hbm else .reserved)
  else if pa < 0x90000000000 then (if pa - 0x10000000000 < s.tierGb * 0x40000000 then .tier else .reserved)
  else if 0xC0000000000 ≤ pa ∧ pa < 0x100000000000 then .host
  else if 0x1000000000000 ≤ pa ∧ pa < 0x2000000000000 then .peer ((pa - 0x1000000000000) / 0x8000000000)
  else .reserved

/-- The serving stack of an HBM address: 4 KB units go round the stacks that serve (R245). -/
def servingStack (s : State) (pa : Nat) : Nat := pa / 4096 % s.hbmStacks

/-- The physical stack of an HBM address, serving stacks being numbered in ascending order of their physical numbers (R245). -/
def physicalStack (s : State) (pa : Nat) : Option Nat := s.serving[servingStack s pa]?

/-- The compute die that a physical stack lies on (R245). -/
def stackDie (p : Nat) : Nat := p / 3

/-- The die whose memory-side slice is the home of an address: for HBM the one that carries its stack, for the second tier by its
4 KB unit; no die homes host memory or a peer's (R244). -/
def homeDie (s : State) (pa : Nat) : Option Nat :=
  match regionOf s pa with
  | .hbm => (physicalStack s pa).map stackDie
  | .tier => some (pa / 4096 % 4)
  | _ => none

/-- HBM and the second tier are cached at all levels (R247). -/
def cached (s : State) (pa : Nat) : Bool :=
  match regionOf s pa with
  | .hbm | .tier => true
  | _ => false

/-- The second-tier port that serves an address (R529). -/
def tierPort (s : State) (pa : Nat) : Nat := s.tierPorts.getD ((pa - 0x10000000000) / 4096 % (if s.tierPorts = [] then 1 else s.tierPorts.length)) 4

/-- The link that serves an address is down (R530, R533). -/
def linkDown (s : State) (pa : Nat) : Bool :=
  match regionOf s pa with
  | .tier => has s.tierDown (tierPort s pa)
  | .peer d => !s.reaches d
  | .host => !s.hostUp
  | _ => false

/-- The first byte of each 4 KB unit that [pa, pa + n) touches, within it: a unit has one port (R529). -/
def unitsOf (pa n : Nat) : List Nat :=
  if n = 0 then [] else pa :: (List.range ((pa % 4096 + n - 1) / 4096)).map fun i => pa / 4096 * 4096 + 4096 * (i + 1)

/-- The link of some byte of [pa, pa + n) is down. -/
def downIn (s : State) (pa n : Nat) : Bool := (unitsOf pa n).any (linkDown s)

/-! ### Poison (R503) -/

/-- A request to [pa, pa + n) completes with an error outside the part (R527, R532). -/
def refusedOutside (s : State) (pa n : Nat) : Bool := s.hostErr.any fun q => decide (pa / 32 ≤ q) && decide (32 * q < pa + n)

def poisoned (s : State) (pa n : Nat) : Bool :=
  downIn s pa n || refusedOutside s pa n || s.poison.any fun q => decide (pa / 32 ≤ q) && decide (32 * q < pa + n)

def poisonSector (s : State) (q : Nat) : State := { s with poison := addTo s.poison q }

/-- Clears the mark of every sector that a write of [a, a + n) covers whole. -/
def unpoison (qs : List Nat) (a n : Nat) : List Nat :=
  qs.filter fun q => !(decide (a ≤ 32 * q) && decide (32 * q + 32 ≤ a + n))

/-! ### Monitors (R238, R240) -/

/-- Returns every split that waits in MWAIT with a status, and disarms. -/
def wakeMwait (g : Group) (status : Word) : Group :=
  let step := fun (g : Group) (st : Stream) =>
    match waitOf g st with
    | some (.mwait _ d) => wake g st [(d.toNat, status)]
    | _ => g
  let sts := g.splits.map (fun p => Stream.split p.1)
  let waiting := sts.any fun st => match waitOf g st with | some (.mwait _ _) => true | _ => false
  if waiting then { sts.foldl step g with monitor := none } else g

/-- An MWAIT of a group that runs returns if the latch is set (R241). -/
def latched (g : Group) : Group :=
  match g.monitor with
  | some m => if m.latch && g.state == .running then wakeMwait g 0 else g
  | none => g

/-- Sets a group's latch and returns its MWAIT; a stopped group's waits until the group goes on (R397). -/
def latch (g : Group) : Group :=
  match g.monitor with
  | some m => latched { g with monitor := some { m with latch := true } }
  | none => g

/-- Sets the latch of every group whose armed line a write of [a, a + n) touches: device memory. -/
def touchMem (s : State) (a n : Nat) : State :=
  { s with groups := s.groups.map fun e =>
      match e.2.monitor with
      | some m => if !m.sp && decide (a < m.line + 64) && decide (m.line < a + n) then (e.1, latch e.2) else e
      | none => e }

/-- The same for a team's scratchpad. -/
def touchSp (s : State) (tid a n : Nat) : State :=
  { s with groups := s.groups.map fun e =>
      match e.2.monitor with
      | some m =>
        if m.sp && decide (e.2.team = tid) && decide (a < m.line + 64) && decide (m.line < a + n) then (e.1, latch e.2)
        else e
      | none => e }

/-! ### Weight versions (R386) -/

/-- Adds 1 to WVER of each delta-tracked identifier whose watched pages a write of [a, a + n) touches. -/
def touchWver (s : State) (a n : Nat) : State :=
  { s with ctxs := s.ctxs.map fun e =>
      if (e.2.tids.all fun t => t.2.pages.isEmpty) then e
      else (e.1, { e.2 with tids := e.2.tids.map fun t =>
        if (t.2.pages.any fun p =>
            let (q, k) := if t.2.wide then (p / 512, 0x200000) else (p, 4096)
            decide (q * k < a + n) && decide (a < q * k + k))
        then (t.1, { t.2 with wver := t.2.wver + 1 }) else t }) }

/-! ### The home of every byte (R277) -/

def homeRead (s : State) (pa n : Nat) : List Byte := bytesAt s.mem pa n

/-- The bytes that a write leaves where the links of some of them are down: these keep what they held (R530). -/
def upBytes (s : State) (pa : Nat) (bs : List Byte) : List Byte :=
  (List.range bs.length).map fun i => if linkDown s (pa + i) then cellGet s.mem (pa + i) else bs.getD i 0

/-- One write at the home, or at its destination: discarded where the link is down, and as a whole where it is refused. -/
def homePut (s : State) (pa : Nat) (bs : List Byte) : State :=
  if bs.isEmpty || (unitsOf pa bs.length).all (linkDown s) || refusedOutside s pa bs.length then s
  else
    let down := downIn s pa bs.length
    let mem := setBytes s.mem pa (if down then upBytes s pa bs else bs)
    let poison := unpoison s.poison pa bs.length ++ (if down then s.poison.filter fun q =>
      decide (pa ≤ 32 * q) && decide (32 * q + 32 ≤ pa + bs.length) && linkDown s (32 * q) else [])
    touchMem { touchWver s pa bs.length with mem := mem, poison := poison } pa bs.length

/-! ### Page tables and translation (R250 to R257) -/

inductive Xlate where
  /-- physical address, uncached -/
  | ok (pa : Nat) (uc : Bool)
  /-- no cached translation -/
  | miss
  /-- the page waits to be zeroed (R255) -/
  | zero
  /-- a reason of R405 -/
  | fail (reason : Nat)
  deriving DecidableEq, Repr

/-- Bits [63:57] equal bit 56 (R243). -/
def canonical (va : Addr) : Bool := va.extractLsb' 56 8 == 0 || va.extractLsb' 56 8 == 0xFF

/-- A partition owns a physical range: its HBM and second-tier shares, the host window, the peer apertures (R252). -/
def owns (s : State) (p pa n : Nat) : Bool :=
  let q := part s p
  match regionOf s pa with
  | .hbm => decide (q.hbmBase ≤ pa) && decide (pa + n ≤ q.hbmBase + q.hbmSize)
  | .tier => decide (0x10000000000 + q.tierBase ≤ pa) && decide (pa + n ≤ 0x10000000000 + q.tierBase + q.tierSize)
  | .host | .peer _ => true
  | .reserved => false

/-- Index of a virtual address at a level, and log2 of the bytes an entry of that level maps (R250). -/
def levelShift : Nat → Nat
  | 0 => 16
  | 1 => 21
  | 2 => 30
  | 3 => 39
  | _ => 48

def levelIndex (va : Addr) (level : Nat) : Nat := va.toNat >>> levelShift level % (if level = 0 then 32 else 512)

/-- The size of the page that a leaf of a level maps, and log2 of its bytes (R250). -/
def pageOf : Nat → PageSize
  | 0 => .small
  | 1 => .middle
  | _ => .large

def pageShift : PageSize → Nat
  | .small => 16
  | .middle => 21
  | .large => 30

/-- First byte of a cached translation's page, virtual and physical. -/
def pageVa (e : TlbEntry) : Nat := e.page * 2 ^ pageShift e.size
def pagePa (e : TlbEntry) : Nat := e.frame * 2 ^ pageShift e.size

/-- A walk's leaf: cached translation, its ZP bit, or a failure's reason. -/
inductive Walk where
  | leaf (e : TlbEntry) (zp : Bool)
  | fail (reason : Nat)
  deriving DecidableEq, Repr

/-- The walk from the table at `table` of a level; `level` falls from 4 to 0 (R250 to R252). -/
def walkFrom (s : State) (p cx : Nat) (va : Addr) : Nat → Nat → Walk
  | level, table =>
    let size := if level = 0 then 256 else 4096
    if regionOf s table = .reserved then .fail 3
    else if !owns s p table size then .fail 4
    else
      let e : BitVec 64 := BitVec.ofNat 64 (leNat (homeRead s (table + 8 * levelIndex va level) 8))
      let addr := (e.extractLsb' 8 41).toNat * 256
      let leaf := e.getLsbD 1
      if !e.getLsbD 0 then .fail 1
      else if e.extractLsb' 49 15 != 0 || e.extractLsb' 6 2 != 0 then .fail 3
      else if !leaf && e.extractLsb' 2 6 != 0 then .fail 3
      else if leaf && decide (3 ≤ level) then .fail 3
      else if leaf then
        let size := 2 ^ levelShift level
        if addr % size ≠ 0 || regionOf s addr = .reserved || regionOf s (addr + size - 1) = .reserved then .fail 3
        else if !owns s p addr size then .fail 4
        else .leaf { ctx := cx, size := pageOf level, page := va.toNat / size, frame := addr / size, r := e.getLsbD 2,
                     w := e.getLsbD 3, uc := e.getLsbD 5 } (e.getLsbD 4)
      else
        match level with
        | 0 => .fail 3
        | l + 1 => if regionOf s addr = .reserved then .fail 3 else walkFrom s p cx va l addr
  termination_by structural level => level

/-- A walk of a context's page table. -/
def walk (s : State) (cx : Nat) (va : Addr) : Walk :=
  walkFrom s (ctx s cx).part cx va 4 (ctx s cx).ptroot.toNat

/-- Rights and reachability of a leaf (R246, R257): access kinds 0 read, 1 write, 2 atomic, 3 fetch. -/
def useLeaf (s : State) (e : TlbEntry) (va : Addr) (kind : Nat) : Xlate :=
  let pa := pagePa e + va.toNat % 2 ^ pageShift e.size
  if (kind = 0 ∨ kind = 3) ∧ !e.r then .fail 5
  else if (kind = 1 ∨ kind = 2) ∧ !e.w then .fail 6
  else
    match regionOf s pa with
    | .peer d => if s.reaches d && (mapGet (part s (ctx s e.ctx).part).reach d).isSome then .ok pa e.uc else .fail 7
    | _ => .ok pa e.uc

/-- Translation by a walk, as the engines and the walkers make it. -/
def xlateWalk (s : State) (cx : Nat) (va : Addr) (kind : Nat) : Xlate :=
  if !canonical va then .fail 2
  else
    match walk s cx va with
    | .fail r => .fail r
    | .leaf e zp => if zp then .zero else useLeaf s e va kind

/-- The 64 KB pages that [va, va + n) touches, by their first address within the range. -/
def pagesOf (va : Addr) (n : Nat) : List Addr :=
  if n = 0 then []
  else va :: ((List.range ((va.toNat % 65536 + n - 1) / 65536)).map fun i => (va - BitVec.ofNat 64 (va.toNat % 65536)) + BitVec.ofNat 64 (65536 * (i + 1)))

/-- The physical address of a leaf, whatever its rights. -/
def leafPa (s : State) (cx : Nat) (va : Addr) : Option Nat :=
  match (if canonical va then walk s cx va else .fail 2) with
  | .leaf e _ => some (pagePa e + va.toNat % 2 ^ pageShift e.size)
  | .fail _ => none

/-! ### The tables in memory (R343, R344, R371, R372) -/

/-- The selected 32 bits of an entry (R349). -/
def tidWord (t : Tid) (sel : Nat) : Word :=
  let half := fun (v : Addr) (k : Nat) => v.extractLsb' (32 * k) 32
  if sel < 2 then half t.base sel
  else if sel < 4 then half t.sbase (sel - 2)
  else if sel < 6 then half t.back (sel - 4)
  else if sel = 6 then
    BitVec.ofNat 32 (t.fmt + 2 ^ 8 * t.pl + 2 ^ 16 * t.rank
      + 2 ^ 24 * ((if t.valid then 1 else 0) + (if t.mx then 2 else 0) + (if t.delta then 4 else 0)))
  else if sel = 7 then BitVec.ofNat 32 t.res
  else if sel = 8 then BitVec.ofNat 32 (t.xnum + (if t.expert then 65536 else 0))
  else if sel = 9 then t.wver
  else if sel = 10 then t.pad
  else if sel < 32 then BitVec.ofNat 32 (t.dims.getD (sel - 16) 0)
  else half (BitVec.ofInt 64 (t.strides.getD ((sel - 32) / 2) 0)) ((sel - 32) % 2)

/-- The 256 bytes of an identifier's entry (R344). -/
def tidBytes (t : Tid) : List Byte :=
  leBytes t.base.toNat 8 ++ leBytes t.sbase.toNat 8 ++ leBytes t.back.toNat 8 ++ leBytes (tidWord t 6).toNat 4 ++ leBytes t.res 4
    ++ leBytes (tidWord t 8).toNat 4 ++ leBytes t.wver.toNat 4 ++ leBytes t.pad.toNat 4 ++ leBytes 0 4
    ++ (List.range 12).flatMap (fun k => leBytes (t.dims.getD k 0) 4)
    ++ (List.range 12).flatMap (fun k => leBytes (BitVec.ofInt 64 (t.strides.getD k 0)).toNat 8) ++ List.replicate 64 0

/-- FLAGS of a directory entry (R372). -/
def entryFlags (e : DEntry) : Nat :=
  (if e.used then 1 else 0) + (if e.busy then 2 else 0) + (if e.drift then 4 else 0) + (if e.refnext then 8 else 0)
    + (if e.dead then 16 else 0)

/-- The 64 bytes of a directory entry (R372). -/
def entryImage (e : DEntry) : List Byte :=
  leBytes e.tag.toNat 4 ++ leBytes e.strm.toNat 4 ++ leBytes e.ctx 4 ++ leBytes e.wid 2 ++ leBytes e.ks 2 ++ leBytes e.wseen.toNat 4
    ++ leBytes e.cnt 1 ++ leBytes (entryFlags e) 1 ++ leBytes e.gen 2 ++ leBytes e.xaddr.toNat 8 ++ leBytes e.yaddr.toNat 8
    ++ leBytes e.last.toNat 8 ++ List.replicate 16 0

/-- Bytes of a context's table in memory, where its pages have leaves. -/
def putTable (s : State) (cx : Nat) (va : Addr) (bs : List Byte) : State :=
  (pagesOf va bs.length).foldl
    (fun s p =>
      let off := (p - va).toNat
      match leafPa s cx p with
      | some pa => { s with mem := setBytes s.mem pa ((bs.drop off).take (65536 - p.toNat % 65536)) }
      | none => s) s

/-- The entries of two versions of a table that differ, those that the new one no longer holds among them. -/
def changedEntries {α : Type} [DecidableEq α] (free : α) (was now : AMap α) : List (Nat × α) :=
  (now.filter fun e => mapGetD was e.1 free != e.2) ++ ((was.filter fun e => (mapGet now e.1).isNone).map fun e => (e.1, free))

/-- After a step from `s` the entries of both tables that it changed stand in memory, at TIDT and DDIR (R343, R371, log 35). -/
def showEntries (s t : State) : State :=
  if s.ctxs = t.ctxs then t
  else
    t.ctxs.foldl
      (fun u c =>
        let old := ctx s c.1
        if !c.2.live || !old.live then u
        else
          let u := (changedEntries ({} : Tid) old.tids c.2.tids).foldl
            (fun u e => putTable u c.1 (c.2.tidt + BitVec.ofNat 64 (256 * e.1)) (tidBytes e.2)) u
          (changedEntries ({} : DEntry) old.ddir c.2.ddir).foldl
            (fun u e => putTable u c.1 (c.2.ddira + BitVec.ofNat 64 (64 * e.1)) (entryImage e.2)) u) t

/-! ### The write-watch filter (R521) -/

/-- Who writes: class 0 lane, 1 copy or engine, 2 ordered add, 3 memory controller, 4 host, 5 peer; the peer device;
and the issuing group, 0 for none. -/
structure Writer where
  cls   : Nat := 0
  peer  : Nat := 0
  group : Nat := 0
  deriving DecidableEq, Repr

/-- A physical write of [pa, pa + n) overlaps a virtual range of a context. -/
def overlapsVa (s : State) (cx : Nat) (va : Addr) (len pa n : Nat) : Bool :=
  (pagesOf va len).any fun p =>
    let size := Nat.min (len - (p - va).toNat) (65536 - p.toNat % 65536)
    match xlateWalk s cx p 0 with
    | .ok q _ => decide (q < pa + n) && decide (pa < q + size)
    | _ => false

/-- Watchpoint `w` is enabled for writes and placed in the filter. -/
def filtered (s : State) (w : Watch) : Bool :=
  w.ctl.getLsbD 0 && w.ctl.getLsbD 2 && (ctx s w.ctx.toNat).dbgw.getLsbD 2

/-- The hits of one write, to be reported. -/
def watchHits (s : State) (pa n : Nat) (by_ : Writer) : List Instr :=
  s.parts.flatMap fun p =>
    (p.2.watches.filter fun w => filtered s w.2 && overlapsVa s w.2.ctx.toNat w.2.base (64 * w.2.len.toNat) pa n).map fun w =>
      Instr.watchReport p.1 w.1 pa by_.cls by_.peer n by_.group

/-- One write at the home, seen by the write-watch filter. -/
def homeWrite (s : State) (pa : Nat) (bs : List Byte) (by_ : Writer := {}) : State :=
  let s := homePut s pa bs
  if bs.isEmpty || !cached s pa then s else { s with agenda := s.agenda ++ watchHits s pa bs.length by_ }

/-! ### The L1 (R248, R249, R261) -/

/-- The bytes of a line at the home with the dirty ones replaced. -/
def mergedBytes (line : Line) (home : List Byte) : List Byte :=
  (List.range 64).map fun i => if line.dirty.getLsbD i then line.bytes.getD i 0 else home.getD i 0

/-- The poison marks of a line's two sectors at the home (R503). -/
def homeMarks (s : State) (l : Nat) : BitVec 2 :=
  (if poisoned s (64 * l) 32 then 1 else 0) ||| (if poisoned s (64 * l + 32) 32 then 2 else 0)

/-- The sectors of a line whose every byte is dirty. -/
def wholeSectors (dirty : BitVec 64) : BitVec 2 :=
  (if dirty.extractLsb' 0 32 = BitVec.allOnes 32 then 1 else 0) |||
    (if dirty.extractLsb' 32 32 = BitVec.allOnes 32 then 2 else 0)

/-- Refreshes the clean bytes of a line from the home, or drops the line if none is dirty: what invalidating clean
copies leaves (R261, R526). -/
def cleanLine (s : State) (c l : Nat) : State :=
  match mapGet (core s c).l1 l with
  | none => s
  | some line =>
    if line.dirty = 0 then updCore s c fun k => { k with l1 := mapDel k.l1 l }
    else
      let bs := mergedBytes line (homeRead s (64 * l) 64)
      let whole := wholeSectors line.dirty
      let bad := (line.bad &&& whole) ||| (homeMarks s l &&& ~~~ whole)
      updCore s c fun k => { k with l1 := mapPut k.l1 l { line with bytes := bs, bad := bad } }

/-- The runs of set bits of a dirty mask: first byte and bytes. -/
def dirtyRuns (d : BitVec 64) : List (Nat × Nat) :=
  (List.range 64).filterMap fun i =>
    if d.getLsbD i && !(decide (0 < i) && d.getLsbD (i - 1)) then
      some (i, ((List.range (64 - i)).find? fun k => !d.getLsbD (i + k)).getD (64 - i))
    else none

/-- Writes a line's dirty bytes back to the home, and the filter sees each run of them; the line stays, clean. The write-back clears
the mark of a sector that one store wrote whole, and of no other (R248, R258, R521, log 14). -/
def writeBackLine (s : State) (c l : Nat) : State :=
  match mapGet (core s c).l1 l with
  | none => s
  | some line =>
    if line.dirty = 0 then s
    else
      let kept := s.poison
      let good := wholeSectors line.dirty &&& ~~~ line.bad
      let s := updCore s c fun k => { k with l1 := mapPut k.l1 l { line with dirty := 0 } }
      let s := homePut s (64 * l) (mergedBytes line (homeRead s (64 * l) 64))
      if linkDown s (64 * l) then s
      else
        { s with
          agenda := s.agenda ++ (dirtyRuns line.dirty).flatMap fun r => watchHits s (64 * l + r.1) r.2 { group := line.writer }
          poison := kept.filter fun q =>
            !((q == 2 * l && good.getLsbD 0) || (q == 2 * l + 1 && good.getLsbD 1)) }

/-- Writes back every dirty line last written at or before a sequence number, and every one with a byte written by then and
dirty since, so that no write before a release is missed (R261, R262, R282). -/
def writeBackUpTo (s : State) (c seq : Nat) : State :=
  ((core s c).l1.filter fun e => (decide (e.2.seq ≤ seq) || decide (e.2.first ≤ seq)) && decide (e.2.dirty ≠ 0)).foldl
    (fun s e => writeBackLine s c e.1) s

/-- Writes back every dirty line: a release at cluster scope or wider (R261). -/
def writeBackAll (s : State) (c : Nat) : State := writeBackUpTo s c (core s c).l1seq

/-- Invalidates every clean line and leaves dirty bytes: an acquire at cluster scope or wider (R261). -/
def dropClean (s : State) (c : Nat) : State := (core s c).l1.foldl (fun s e => cleanLine s c e.1) s

/-- The lines that [a, a + n) touches. -/
def linesOf (a n : Nat) : List Nat := if n = 0 then [] else (List.range ((a + n - 1) / 64 - a / 64 + 1)).map (· + a / 64)

/-- Removes the copies of a range from one L1: overwritten dirty bytes go, other dirty bytes stay (R284). -/
def dropRange (s : State) (c a n : Nat) : State :=
  (linesOf a n).foldl
    (fun s l =>
      match mapGet (core s c).l1 l with
      | none => s
      | some line =>
        let keep := (List.range 64).foldl
          (fun (m : BitVec 64) i => if decide (a ≤ 64 * l + i) && decide (64 * l + i < a + n) then m &&& ~~~ (1#64 <<< i) else m)
          line.dirty
        cleanLine (updCore s c fun k => { k with l1 := mapPut k.l1 l { line with dirty := keep } }) c l)
    s

/-- Refreshes the clean bytes of a range in every L1 (R526). -/
def dropCleanRange (s : State) (a n : Nat) : State :=
  s.cores.foldl (fun s e => (linesOf a n).foldl (fun s l => cleanLine s e.1 l) s) s

/-- Brings a line into the L1. -/
def fillLine (s : State) (c l : Nat) : State :=
  match mapGet (core s c).l1 l with
  | some _ => s
  | none =>
    let line : Line := { bytes := homeRead s (64 * l) 64, dirty := 0, seq := 0, bad := homeMarks s l }
    updCore (countEvent s c 8 1) c fun k => { k with l1 := mapPut k.l1 l line }

/-- A core's read of bytes of one line: from the L1 where the line is present, else from the home; an ordinary
read allocates the line (R247, R249). -/
def coreRead (s : State) (c pa n : Nat) (alloc : Bool) : State × List Byte :=
  if cached s pa then
    let s := if alloc then fillLine s c (pa / 64) else s
    match mapGet (core s c).l1 (pa / 64) with
    | some line => (s, (line.bytes.drop (pa % 64)).take n)
    | none => (s, homeRead s pa n)
  else (s, homeRead s pa n)

/-- A core's read of [pa, pa + n) within one line is poisoned: by the line's own marks where its L1 holds the line
(R258, R503). -/
def coreBad (s : State) (c pa n : Nat) : Bool :=
  match (if cached s pa then mapGet (core s c).l1 (pa / 64) else none) with
  | none => poisoned s pa n
  | some line =>
    (decide (pa % 64 < 32) && line.bad.getLsbD 0) || (decide (32 < pa % 64 + n) && line.bad.getLsbD 1)

/-- The sectors that the accesses [p, p + size) of one store cover whole. -/
def coveredSectors (ps : List Nat) (size : Nat) : List Nat :=
  ((ps.map (· / 32)).eraseDups).filter fun q =>
    (List.range 32).all fun k => ps.any fun p => decide (p ≤ 32 * q + k) && decide (32 * q + k < p + size)

/-- One store by a core has written `ps` at `size` bytes each: a sector that it covers whole is clean again, in the
line where the store stayed and at the home where it went; a store that a link's failure discards clears no mark there (R258,
R530). -/
def storeClean (s : State) (c : Nat) (ps : List Nat) (size : Nat) (alloc : Bool) : State :=
  (coveredSectors ps size).foldl
    (fun s q =>
      let s := if (alloc && cached s (32 * q)) || linkDown s (32 * q) then s else { s with poison := s.poison.filter (· != q) }
      match mapGet (core s c).l1 (q / 2) with
      | some line =>
        updCore s c fun k =>
          { k with l1 := mapPut k.l1 (q / 2) { line with bad := line.bad &&& ~~~ (1#2 <<< (q % 2)) } }
      | none => s) s

/-- Puts bytes over a list from an offset. -/
def overlay (bs : List Byte) (off : Nat) (new : List Byte) : List Byte :=
  bs.take off ++ new ++ bs.drop (off + new.length)

/-- The bytes of a line with a store's bytes over them. -/
def storeOver (bs : List Byte) (off : Nat) (new : List Byte) : List Byte :=
  (List.range 64).map fun i => if off ≤ i ∧ i < off + new.length then new.getD (i - off) 0 else bs.getD i 0

/-- The mask of `n` bytes of a line from an offset. -/
def byteMask (off n : Nat) : BitVec 64 := (List.range n).foldl (fun (m : BitVec 64) i => m ||| (1#64 <<< (off + i))) 0

/-- A core's store of bytes of one line: into the L1, marked dirty, or to the home where it does not allocate; a
line that is present is updated as well, and what it had dirty of these bytes is gone, so that each byte is written once (R248,
R249, R260). The latches see the store (R238). -/
def coreWrite (s : State) (c pa : Nat) (bs : List Byte) (alloc : Bool) : State :=
  if cached s pa then
    if alloc then
      let s := fillLine s c (pa / 64)
      let s := updCore s c fun k =>
        match mapGet k.l1 (pa / 64) with
        | some line =>
          { k with
            l1seq := k.l1seq + 1
            l1 := mapPut k.l1 (pa / 64)
              { bytes := storeOver line.bytes (pa % 64) bs
                dirty := line.dirty ||| byteMask (pa % 64) bs.length
                first := if line.dirty = 0 then k.l1seq + 1 else line.first
                seq := k.l1seq + 1, writer := s.who.1, bad := line.bad } }
        | none => k
      touchMem s pa bs.length
    else
      let s := homeWrite s pa bs { group := s.who.1 }
      match mapGet (core s c).l1 (pa / 64) with
      | some line =>
        let line := { line with bytes := storeOver line.bytes (pa % 64) bs, dirty := line.dirty &&& ~~~ byteMask (pa % 64) bs.length }
        updCore s c fun k => { k with l1 := mapPut k.l1 (pa / 64) line }
      | none => s
  else homeWrite s pa bs { group := s.who.1 }

/-- The lines of a range are invalidated in the L1 of core `c` (R284), and in that of the core that the issuing group stands on by
then (R285). -/
def engineDrop (s : State) (c pa n gid : Nat) : State :=
  let s := dropRange s c pa n
  let d := coreOf s (grp s gid)
  if gid = 0 ∨ d = c then s else dropRange s d pa n

/-- A write by a copy engine, ACCDRN or another engine of core `c`: at the home, with the lines invalidated. -/
def engineWrite (s : State) (c pa : Nat) (bs : List Byte) (gid : Nat := 0) : State :=
  engineDrop (homeWrite s pa bs { cls := 1, group := gid }) c pa bs.length gid

/-! ### Cached translations (R253) -/

/-- A cached translation covers an address of a context. -/
def covers (cx : Nat) (va : Addr) (e : TlbEntry) : Bool :=
  decide (e.ctx = cx) && decide (va.toNat / 2 ^ pageShift e.size = e.page)

/-- The TLB of a core's home cluster (R13, R253). -/
def clusterTlb (s : State) (c : Nat) : List TlbEntry := mapGetD s.clusterTlbs (c / 8) []

/-- The cached translation of an address: the core's, else its cluster's (R253). -/
def tlbFind (s : State) (c cx : Nat) (va : Addr) : Option TlbEntry :=
  ((core s c).tlb.find? (covers cx va)).orElse fun _ => (clusterTlb s c).find? (covers cx va)

/-- A TLB of `n` entries with a translation used last. DESIGN CHOICE: the entry that was used longest ago makes room; the manual
gives no replacement (log 9). -/
def tlbPut (n : Nat) (es : List TlbEntry) (cx : Nat) (va : Addr) (e : TlbEntry) : List TlbEntry :=
  let es := es.filter (fun x => !covers cx va x) ++ [e]
  es.drop (es.length - n)

/-- A core uses a translation: it stands in the core's 256 entries. -/
def useTlb (s : State) (c cx : Nat) (va : Addr) (e : TlbEntry) : State :=
  updCore s c fun k => { k with tlb := tlbPut 256 k.tlb cx va e }

/-- A translation that the core's TLB did not give stands in the cluster's 4096 entries too. -/
def useClusterTlb (s : State) (c cx : Nat) (va : Addr) (e : TlbEntry) : State :=
  { s with clusterTlbs := mapPut s.clusterTlbs (c / 8) (tlbPut 4096 (clusterTlb s c) cx va e) }

/-- Translation with the core's cached translations only. -/
def xlateTlb (s : State) (c cx : Nat) (va : Addr) (kind : Nat) : Xlate :=
  if !canonical va then .fail 2
  else
    match tlbFind s c cx va with
    | some e => useLeaf s e va kind
    | none => .miss

/-- No TLB keeps a translation of some kind. -/
def dropTlbs (s : State) (gone : TlbEntry → Bool) : State :=
  { s with
    cores := s.cores.map fun e => (e.1, { e.2 with tlb := e.2.tlb.filter fun t => !gone t })
    clusterTlbs := s.clusterTlbs.map fun e => (e.1, e.2.filter fun t => !gone t) }

/-- Looks an address up in the core's TLB, then in its cluster's, then in the page table; what is found stands in both, but for a
leaf whose ZP is set (R253). -/
def tlbFill (s : State) (c cx : Nat) (va : Addr) : State :=
  match (core s c).tlb.find? (covers cx va) with
  | some e => useTlb s c cx va e
  | none =>
    match (clusterTlb s c).find? (covers cx va), (if canonical va then walk s cx va else .fail 2) with
    | some e, _ => useTlb (useClusterTlb s c cx va e) c cx va e
    | none, .leaf e false => useTlb (useClusterTlb s c cx va e) c cx va e
    | none, _ => s

/-- XLATE for reasons 1 and 2, PROT for every other (R257). -/
def causeOf (reason : Nat) : Cause := if reason ≤ 2 then .xlate else .prot

/-- Reads device memory of a context byte by byte through its page table; none where translation fails. -/
def readVa (s : State) (cx : Nat) (va : Addr) : Nat → Option (List Byte)
  | 0 => some []
  | n + 1 =>
    match xlateWalk s cx va 0, readVa s cx (va + 1) n with
    | .ok pa _, some bs => some (cellGet s.mem pa :: bs)
    | _, _ => none

/-- A write of the part's own to a page that waits to be zeroed waits too, and is performed once ZP is clear (R255). -/
def holdWrite (s : State) (w : HeldWrite) : State := { s with heldWrites := s.heldWrites ++ [w] }

/-- Writes bytes of device memory of a context through its page table by page, for group `gid` where one issued them; a byte whose
translation fails is not written. -/
def writeVa (s : State) (c cx : Nat) (va : Addr) (bs : List Byte) (gid : Nat := 0) : State :=
  (pagesOf va bs.length).foldl
    (fun s p =>
      let off := (p - va).toNat
      let len := Nat.min (bs.length - off) (65536 - p.toNat % 65536)
      let part := (bs.drop off).take len
      match xlateWalk s cx p 1 with
      | .ok pa _ => engineWrite s c pa part gid
      | .zero => holdWrite s { ctx := cx, va := p, bytes := part, core := some c, group := gid }
      | _ => s)
    s

/-- A page of [va, va + n) waits to be zeroed: an access to it waits (R255). -/
def zpIn (s : State) (cx : Nat) (va : Addr) (n kind : Nat) : Bool := (pagesOf va n).any fun p => xlateWalk s cx p kind == .zero

/-- A held write whose page no longer waits to be zeroed is performed, or dropped where translation fails by now. -/
def performHeld (s : State) (w : HeldWrite) : State :=
  let s := { s with heldWrites := s.heldWrites.erase w }
  match xlateWalk s w.ctx w.va 1, w.core with
  | .ok pa _, some c => engineWrite s c pa w.bytes w.group
  | .ok pa _, none => homeWrite s pa w.bytes { cls := 1 }
  | _, _ => s

/-- The first held write that need no longer wait. -/
def heldReady (s : State) : Option HeldWrite := s.heldWrites.find? fun w => xlateWalk s w.ctx w.va 1 != .zero

/-- A 32-bit word of device memory of a context. -/
def wordVa (s : State) (cx : Nat) (va : Addr) : Option Word :=
  (readVa s cx va 4).map fun bs => BitVec.ofNat 32 (leNat bs)

end Sys2Proof.Machine
end

