-- ==== Sys2Proof/Machine/Trace.lean ====
section
/-! DEFINITION. The trace buffer of a partition (R515 to R517). TBASE and RBASE name no context; they are taken as
physical addresses (log 19). -/

namespace Sys2Proof.Machine
open Sys2Proof

/-- The joined name of an event; a field that does not apply is none (R515). -/
structure Name where
  gid   : Option Nat := none
  launch : Option Nat := none
  split : Option Nat := none
  lane  : Option Nat := none
  deriving DecidableEq, Repr

/-- A field of `n` bytes; all ones where it does not apply. -/
def nameField (v : Option Nat) (n : Nat) : List Byte := leBytes (v.getD (2 ^ (8 * n) - 1)) n

/-- A trace entry (R516). -/
def traceBytes (s : State) (p kind : Nat) (nm : Name) (data : List Nat) : List Byte :=
  let g := nm.gid.map (grp s)
  let l := match nm.launch, g with
    | some l, _ => some l
    | none, some g => some (team s g.team).launch
    | none, none => none
  let acct := l.map fun l => (launch s l).acct
  leBytes s.time.toNat 8 ++ leBytes kind 1 ++ nameField nm.split 1 ++ nameField nm.lane 1 ++ nameField (g.map (·.gix)) 1
    ++ nameField (g.map fun g => (team s g.team).lin) 4 ++ nameField l 8 ++ nameField (acct.map (·.proc.toNat)) 4
    ++ nameField (acct.map (·.thread.toNat)) 4 ++ leBytes p 1 ++ List.replicate 7 0
    ++ leBytes (data.getD 0 0) 8 ++ leBytes (data.getD 1 0) 8 ++ leBytes (data.getD 2 0) 8

/-- Writes a trace entry while TCTL.EN is set; the buffer is overwritten when full. -/
def trace (s : State) (p kind : Nat) (nm : Name) (data : List Nat) : State :=
  let q := part s p
  if q.tctl.getLsbD 0 then
    let slots := 2 ^ (q.tctl.toNat / 2 ^ 16 % 32)
    let s' := homePut s (q.tbase.toNat + 64 * (q.tnext.toNat % slots)) (traceBytes s p kind nm data)
    updPart s' p fun q => { q with tnext := q.tnext + 1 }
  else s

/-- A trace entry of a group: a release at system scope of its core (R261, R516). -/
def traceGroup (s : State) (gid kind : Nat) (split lane : Option Nat) (data : List Nat) : State :=
  let s := if (part s (partOf s (grp s gid))).tctl.getLsbD 0 then writeBackAll s (coreOf s (grp s gid)) else s
  trace s (partOf s (grp s gid)) kind { gid := some gid, split := split, lane := lane } data

end Sys2Proof.Machine
end

