-- ==== Sys2Proof/Machine/Barriers.lean ====
section
/-! DEFINITION. Barriers: arrival, completion, credit and withdrawal (R230 to R236). -/

namespace Sys2Proof.Machine
open Sys2Proof

/-- The group's index among the participants: SPIX (R231). -/
def spixOf (s : State) (g : Group) : Nat := ((span s (teamOf s g).span).teams.idxOf? g.team).getD 0

/-- The key (SPIX, GIX) of a group as a number. -/
def barKey (s : State) (g : Group) : Nat := 32 * spixOf s g + g.gix

/-- Barrier `n` of the team `tid`, or of its span. -/
def barOf (s : State) (tid : Nat) (sp : Bool) (n : Nat) : Barrier :=
  if sp then mapGetD (span s (team s tid).span).bars n {} else mapGetD (team s tid).bars n {}

def updBar (s : State) (tid : Nat) (sp : Bool) (n : Nat) (f : Barrier → Barrier) : State :=
  if sp then updSpan s (team s tid).span fun p => { p with bars := mapPut p.bars n (f (mapGetD p.bars n {})) }
  else updTeam s tid fun t => { t with bars := mapPut t.bars n (f (mapGetD t.bars n {})) }

/-- The groups that take part in a barrier of a team or of its span. -/
def barGroups (s : State) (tid : Nat) (sp : Bool) : List Nat :=
  if sp then (span s (team s tid).span).teams.flatMap fun t => (team s t).groups else (team s tid).groups

/-- A span barrier's acquire has cluster scope (R234). -/
def barAcquire (s : State) (gid : Nat) (sp : Bool) : State := if sp then dropClean s (coreOf s (grp s gid)) else s

/-- A span barrier's release has cluster scope (R234). -/
def barRelease (s : State) (gid : Nat) (sp : Bool) : State := if sp then writeBackAll s (coreOf s (grp s gid)) else s

/-- What a wait at this phase of a barrier writes when the phase completes; none for any other wait (R236). -/
def phaseWrites (sp : Bool) (n : Nat) (ph result : Word) : Option Wait → Option (List (Nat × Word))
  | some (.barw sp' n' ph') => if sp' = sp ∧ n' = n ∧ ph' = ph then some [] else none
  | some (.bred sp' n' ph' d) => if sp' = sp ∧ n' = n ∧ ph' = ph then some [(d.toNat, result)] else none
  | _ => none

/-- Returns the streams of a group that wait in BARW or BRED for a phase, a BRED with the phase's result; those of a
stopped group once it goes on (R235, R236). -/
def wakeBar (sp : Bool) (n : Nat) (ph result : Word) (g : Group) : Group :=
  (g.splits.map fun p => Stream.split p.1).foldl
    (fun g st => match phaseWrites sp n ph result (waitOf g st) with | some ws => wake g st ws | none => g) g

/-- A group has a stream that waits in BARW or BRED for this phase. -/
def waitsBar (sp : Bool) (n : Nat) (ph : Word) (g : Group) : Bool :=
  g.splits.any fun p => (phaseWrites sp n ph 0 p.2.wait).isSome

/-- A phase that starts on the core becomes ready when its barrier's phase completes (R206, R213). -/
def readyPhase (sp : Bool) (n : Nat) (ph : Word) (g : Group) : Bool :=
  g.state == .phase && match g.phaseWait with
    | some w => w.span == sp && w.n == n && w.phase == ph
    | none => false

/-- Marks a queued phase ready, behind those that were ready before it. A phase of a saved team enters the Paddock again
at the restore (R202). -/
def makeReady (s : State) (gid : Nat) : State :=
  let (n, s) := freshId s
  let s := updGrp s gid fun g => { g with phaseWait := none, readyAt := n }
  if (teamOf s (grp s gid)).placed then updCore s (coreOf s (grp s gid)) fun k => { k with ready := addTo k.ready gid } else s

/-- The check of R232: completes the current phase if it can. -/
def checkBar (s : State) (tid : Nat) (sp : Bool) (n : Nat) : State :=
  let x := barOf s tid sp n
  if x.exp ≤ x.arr ∧ x.tx = 0 then
    let result := combineAll x.op (x.payload.map (·.2))
    let s := updBar s tid sp n fun x =>
      { x with ph := x.ph + 1, arr := 0, arrived := [], payload := [] }
    (barGroups s tid sp).foldl
      (fun s gid =>
        let g := grp s gid
        let s := if waitsBar sp n x.ph g then barAcquire (updGrp s gid (wakeBar sp n x.ph result)) gid sp else s
        if readyPhase sp n x.ph g then makeReady s gid else s)
      s
  else s

/-- Arrive(X, g, v) (R236): a release, counted with its contribution. -/
def arrive (s : State) (gid : Nat) (sp : Bool) (n : Nat) (v : Option Word) : State :=
  let g := grp s gid
  let key := barKey s g
  let s := barRelease s gid sp
  let s := updBar s g.team sp n fun x =>
    { x with arrived := x.arrived ++ [key], arr := x.arr + 1
             payload := match v with | some w => mapPut x.payload key w | none => x.payload }
  checkBar s g.team sp n

/-- A copy's credit: TX falls by the bytes it wrote, unless the barrier was invalidated after its issue (R232). -/
def credit (s : State) (tid : Nat) (sp : Bool) (n epoch bytes : Nat) : State :=
  if (barOf s tid sp n).epoch = epoch then
    checkBar (updBar s tid sp n fun x => { x with tx := x.tx - BitVec.ofNat 32 bytes }) tid sp n
  else s

/-- An exiting, killed or wholly dead group withdraws from one barrier (R233). -/
def withdrawOne (s : State) (gid : Nat) (sp : Bool) (n : Nat) : State :=
  let g := grp s gid
  let key := barKey s g
  let s := updBar s g.team sp n fun x =>
    { x with exp := x.exp - 1
             arr := if has x.arrived key then x.arr - 1 else x.arr
             arrived := without x.arrived key, payload := mapDel x.payload key }
  checkBar s g.team sp n

/-- It withdraws from every barrier of its team and span (R233). -/
def withdraw (s : State) (gid : Nat) : State :=
  let tid := (grp s gid).team
  let s := ((team s tid).bars.map (·.1)).foldl (fun s n => withdrawOne s gid false n) s
  ((span s (team s tid).span).bars.map (·.1)).foldl (fun s n => withdrawOne s gid true n) s

end Sys2Proof.Machine
end

