-- ==== Sys2Proof/Machine/Hayloft.lean ====
section
/-! DEFINITION. The Haylofts and the estates they hold: keys, ordering, bequests, consumption, lines and write-outs
(R184 to R202). -/

namespace Sys2Proof.Machine
open Sys2Proof

/-! ### Finding estates (R188, R190, R196) -/

/-- A launch is ordered after the completion of another (R190). -/
def orderedAfter (s : State) (l b : Nat) : Bool := has (launch s l).after b

/-- The open estate of a key that a launch may claim, with its position in the context's list. -/
def findOpen (s : State) (cx l : Nat) (ns ident : Word) : Option Estate :=
  (ctx s cx).estates.find? fun e =>
    e.isOpen && !e.moving && e.closing.isNone && e.ns == ns && e.ident == ident && orderedAfter s l e.launch

/-- The pending bequest of a key by a launch. -/
def findPending (s : State) (cx l : Nat) (ns ident : Word) : Option Estate :=
  (ctx s cx).estates.find? fun e =>
    !e.isOpen && !e.moving && e.closing.isNone && e.launch == l && e.ns == ns && e.ident == ident

/-- Two records name one estate: open, pending of one launch, moved by one claim, or taken by one lease close. -/
def sameEstate (a b : Estate) : Bool :=
  a.ns == b.ns && a.ident == b.ident && a.isOpen == b.isOpen && a.moving == b.moving && (!a.moving || a.mover == b.mover)
    && (a.isOpen || a.launch == b.launch) && a.closing == b.closing

/-- The estate that a claim moves (R199). -/
def movedBy (id : Nat) (e : Estate) : Bool := e.moving && e.mover == id

/-- Frees an estate. -/
def freeEstate (s : State) (cx : Nat) (e : Estate) : State :=
  updCtx s cx fun c => { c with estates := c.estates.filter fun x => !sameEstate x e }

/-- Changes one estate. -/
def updEstate (s : State) (cx : Nat) (e : Estate) (f : Estate → Estate) : State :=
  updCtx s cx fun c => { c with estates := c.estates.map fun x => if sameEstate x e then f x else x }

/-! ### Lines (R184, R185, R187) -/

/-- The 64 bytes of an estate's line (R185). -/
def estateLine (part cx : Nat) (e : Estate) : List Byte :=
  let regs := (e.regs ++ List.replicate 8 0).take 8
  leBytes e.ns.toNat 4 ++ leBytes e.ident.toNat 4 ++ leBytes e.tags.toNat 4 ++ leBytes e.regs.length 1
    ++ leBytes ((if e.isOpen then 1 else 0) + (if e.pinned then 2 else 0) + (if e.lost then 4 else 0)) 1 ++ [0, 0]
    ++ leBytes e.launch 8 ++ leBytes (part * 2 ^ 28 + cx % 2 ^ 28) 4 ++ [0, 0, 0, 0]
    ++ regs.flatMap fun w => leBytes w.toNat 4

/-- Lines of the phase record of a group. -/
def recordLines (g : Group) : Nat := 5 + 6 * g.carry

/-- Lines in use in a core's Hayloft, those of write-outs on their way among them. -/
def hayUsed (s : State) (c : Nat) : Nat :=
  let est := (keysOf s.ctxs).foldl (fun n x => n + ((ctx s x).estates.filter fun e => e.core == some c).length) 0
  (core s c).paddock.foldl
    (fun n gid => if has (core s c).phaseOut gid then n else n + recordLines (grp s gid)) (est + (core s c).outgoing.sum)

/-- The lowest free line of a context's HBM estate area. -/
def estateSlot (c : Ctx) : Option Nat :=
  (List.range (c.ests / 64)).find? fun i => !c.estates.any fun e => e.slot == some i

/-- Estates of a core that may be written out, oldest first: open ones, then those not yet open (R187). -/
def victims (s : State) (c : Nat) : List (Nat × Estate) :=
  let all := s.ctxs.flatMap fun x =>
    if (estateSlot x.2).isSome then
      (x.2.estates.filter fun e => e.core == some c && !e.pinned && !e.moving).map fun e => (x.1, e)
    else []
  let byAge := sortBy (fun (a b : Nat × Estate) => decide (a.2.stamp ≤ b.2.stamp)) all
  (byAge.filter fun x => x.2.isOpen) ++ byAge.filter fun x => !x.2.isOpen

/-- Writes an estate's line in its context's HBM estate area, where it has one, with what it holds now (R185). -/
def writeLine (s : State) (cx : Nat) (e : Estate) : State :=
  match e.slot with
  | none => s
  | some i => writeVa s (e.core.getD 0) cx ((ctx s cx).esta + BitVec.ofNat 64 (64 * i)) (estateLine (ctx s cx).part cx e)

/-- A write-out of `n` lines leaves for HBM. -/
def sendLines (s : State) (c n : Nat) : State := updCore s c fun k => { k with outgoing := k.outgoing ++ [n] }

/-- Writes an estate to its context's HBM estate area, at the lowest free line (log 21). -/
def writeOutEstate (s : State) (c cx : Nat) (e : Estate) : State :=
  match estateSlot (ctx s cx) with
  | none => s
  | some i =>
    let s := writeVa s c cx ((ctx s cx).esta + BitVec.ofNat 64 (64 * i)) (estateLine (ctx s cx).part cx e)
    sendLines (updEstate s cx e fun e => { e with core := none, slot := some i }) c 1

/-- The place of a record or an image in an area: the lowest 64-byte aligned offset of free space (R417). -/
def placeIn (taken : List (Nat × Nat)) (size area : Nat) : Option Nat :=
  let free := fun o => decide (o + size ≤ area) && taken.all fun t => decide (o + size ≤ t.1) || decide (t.1 + t.2 ≤ o)
  let starts := sortBy (fun a b => decide (a ≤ b)) (0 :: taken.map fun t => (t.1 + t.2 + 63) / 64 * 64)
  starts.find? free

/-- The context of a group. -/
def groupCtx (s : State) (gid : Nat) : Nat := (launch s (team s (grp s gid).team).launch).ctx

/-- The bytes of a phase record: five header lines, whose layout is the hardware's own (free values from the draw `n`
on, log 16), and the carry registers (R184, R204). -/
def phaseBytes (n : Nat) (g : Group) : List Byte :=
  headerBytes n 320 ++ (List.range g.carry).flatMap fun k =>
    (List.range 96).flatMap fun i => leBytes (readV g k i).toNat 4

/-- Writes the phase record of a queued group to its context's HBM phase area; none where it does not fit (R417). -/
def writeOutPhase (s : State) (c gid : Nat) : Option State :=
  let cx := groupCtx s gid
  let bs := phaseBytes s.fresh (grp s gid)
  match placeIn ((ctx s cx).phased.map (·.2)) bs.length (ctx s cx).phss with
  | none => none
  | some off =>
    let s := updCtx s cx fun k => { k with phased := mapPut k.phased gid (off, bs.length) }
    let s := writeVa { s with fresh := s.fresh + 320 } c cx ((ctx s cx).phsa + BitVec.ofNat 64 off) bs
    some (updCore (sendLines s c (recordLines (grp s gid))) c fun k => { k with phaseOut := addTo k.phaseOut gid })

/-- Insertion by priority level, then by the time at which each became ready (R206). -/
def phaseLe (s : State) (a b : Nat) : Bool :=
  let la := (launchOf s (grp s a)).level
  let lb := (launchOf s (grp s b)).level
  decide (la < lb) || (la == lb && decide ((grp s a).readyAt ≤ (grp s b).readyAt))

/-- The ready phases of a core in the order they resume (R206). -/
def phaseOrder (s : State) (c : Nat) : List Nat := sortBy (phaseLe s) (core s c).ready

/-- The Paddock order of the records in a core's Hayloft: ready phases as they resume, then, DESIGN CHOICE, the others by level
and in the order in which they were queued, which the manual does not rank (log 21). -/
def paddockOrder (s : State) (c : Nat) : List Nat :=
  let k := core s c
  let later := sortBy (fun a b => decide ((launchOf s (grp s a)).level ≤ (launchOf s (grp s b)).level))
    (k.paddock.filter fun gid => !has k.ready gid)
  (phaseOrder s c ++ later).filter fun gid => !has k.phaseOut gid

/-- Writes the phase records of a context that found no room to its phase area, the last in Paddock order first (R417). -/
def retryRecords (s : State) (cx : Nat) : State :=
  (keysOf s.cores).foldl
    (fun s c =>
      ((paddockOrder s c).reverse.filter fun gid => (grp s gid).recordDue && groupCtx s gid == cx).foldl
        (fun s gid =>
          match writeOutPhase s c gid with
          | some s => updGrp s gid fun g => { g with recordDue := false }
          | none => s) s) s

/-- What making room in a Hayloft comes to. -/
inductive Room where
  /-- there is room -/
  | free (s : State)
  /-- the lines come free when write-outs on their way end: the request waits (R187) -/
  | busy (s : State)
  /-- nothing can be written out: an estate is stored elsewhere (R187) -/
  | full (s : State)
  /-- the record of this group must be written out and its phase area is full: the request waits (R417) -/
  | wait (s : State) (gid : Nat)

/-- Frees `n` lines of a core's Hayloft (R187); `fuel` bounds the write-outs. A record that found no room in its phase area is
tried again only as R417 says. -/
def makeRoom (s : State) (c n : Nat) : Nat → Room
  | 0 => .full s
  | fuel + 1 =>
    if hayUsed s c + n ≤ 4096 then .free s
    else if hayUsed s c + n ≤ 4096 + (core s c).outgoing.sum then .busy s
    else
      match victims s c with
      | (cx, e) :: _ => makeRoom (writeOutEstate s c cx e) c n fuel
      | [] =>
        match (paddockOrder s c).getLast? with
        | none => if (core s c).outgoing.isEmpty then .full s else .busy s
        | some gid =>
          match (if (grp s gid).recordDue then none else writeOutPhase s c gid) with
          | some s => makeRoom s c n fuel
          | none => .wait s gid

/-! ### Bequests (R191, R209) -/

/-- The bequest `e` survives against the pending bequest `old` of the same launch and key. -/
def survives (e old : Estate) : Bool :=
  if e.lin = old.lin ∧ e.gix = old.gix then true
  else decide (old.lin < e.lin) || (e.lin == old.lin && decide (old.gix < e.gix))

/-- Counts a replaced bequest of a launch. -/
def countReplaced (s : State) (l : Nat) : State := updLaunch s l fun k => { k with repl := k.repl + 1 }

/-- Stores a pending estate in core `c`, replacing per R191. -/
def storeEstate (s : State) (cx : Nat) (e : Estate) : State :=
  match findPending s cx e.launch e.ns e.ident with
  | some old =>
    let s := countReplaced s e.launch
    if survives e old then
      updCtx (freeEstate s cx old) cx fun c => { c with estates := c.estates ++ [e] }
    else s
  | none => updCtx s cx fun c => { c with estates := c.estates ++ [e] }

/-! ### Death of lanes (R201) -/

/-- A claimed estate is consumed for a dead lane and counts as lost. -/
def loseClaim (s : State) (cx l : Nat) (ns ident : Word) : State :=
  match findOpen s cx l ns ident with
  | some e => updLaunch (freeEstate s cx e) l fun k => { k with lost := k.lost + 1 }
  | none => s

/-- The claims in flight of dying lanes consume their estates, count as lost and deliver nothing. -/
def loseClaims (s : State) (gid l cx : Nat) (ls : Lanes) : State :=
  let g := grp s gid
  let s := g.claims.foldl
    (fun s c =>
      let s := (c.todo.filter fun x => ls.getLsbD x.1).foldl (fun s x => loseClaim s cx l c.ns x.2) s
      let served := (lanesOf (c.mask &&& ls)).filter fun i =>
        !(c.todo.any fun x => x.1 == i) && cellGet c.status i != 1 && (c.moving.map (·.1)) != some i
      let s := updLaunch s l fun k => { k with lost := k.lost + served.length }
      match c.moving with
      | some (i, _) =>
        if ls.getLsbD i then
          let s := updCtx s cx fun k =>
            { k with estates := k.estates.filter fun e => !movedBy c.id e }
          updLaunch s l fun k => { k with lost := k.lost + 1 }
        else s
      | none => s) s
  updGrp s gid fun g =>
    { g with claims := g.claims.map fun c =>
        { c with
          mask := c.mask &&& ~~~ ls, todo := c.todo.filter fun x => !ls.getLsbD x.1
          moving := match c.moving with | some m => if ls.getLsbD m.1 then none else some m | none => none } }

end Sys2Proof.Machine
end

