-- ==== Sys2Proof/Machine/Groups.lean ====
section
/-! DEFINITION. The life of splits and groups: the token stack, lane death, engine class counters, register pools,
the end of a group and KillGroup (R44, R70 to R100, R121 to R135, R291, R377). -/

namespace Sys2Proof.Machine
open Sys2Proof

/-! ### Engine classes (R291, R292) -/

/-- Outstanding operations of a class, oldest first. -/
def classOps (g : Group) (c : Nat) : List (Nat × Bool) := mapGetD g.classes c []

/-- The counter of a class. -/
def classCount (g : Group) (c : Nat) : Nat := (classOps g c).length

/-- An operation counts from its issue. -/
def classStart (g : Group) (c id : Nat) : Group := { g with classes := mapPut g.classes c (classOps g c ++ [(id, false)]) }

/-- An operation has finished; it is counted complete once every older one of its class has been (R291). -/
def classDone (g : Group) (c id : Nat) : Group :=
  let ops := (classOps g c).map fun o => if o.1 = id then (o.1, true) else o
  { g with classes := mapPut g.classes c (ops.dropWhile fun o => o.2) }

/-! ### The token stack (R81 to R85) -/

/-- Lowest free entry of the 8. -/
def freeTok (g : Group) : Option Nat := (List.range 8).find? fun i => (mapGet g.tokens i).isNone

/-- EntriesInUse = 8. -/
def tokFull (g : Group) : Bool := (freeTok g).isNone

/-- Pushes an entry on a split's chain. -/
def pushTok (g : Group) (n : Nat) (t : Token) : Group :=
  match freeTok g with
  | some i => updSplit { g with tokens := mapPut g.tokens i t } n fun p => { p with chain := i :: p.chain }
  | none => g

def isJoin (g : Group) (i : Nat) : Bool :=
  match mapGet g.tokens i with
  | some (.join ..) => true
  | _ => false

/-- The innermost join token of a split: T (R83). -/
def innermost (g : Group) (n : Nat) : Option Nat := (split g n).chain.find? (isJoin g)

/-- The deferred entry that the split owns on top of its chain. -/
def topDeferred (g : Group) (n : Nat) : Option (Nat × Word × Lanes × Lanes) :=
  match (split g n).chain with
  | i :: _ =>
    match mapGet g.tokens i with
    | some (.deferred o pc l m) => if o = n then some (i, pc, l, m) else none
    | _ => none
  | [] => none

/-- An entry leaves the stack, and with it every chain that holds it. -/
def dropTok (g : Group) (i : Nat) : Group :=
  { g with
    tokens := (mapDel g.tokens i).map fun e => (e.1, match e.2 with
      | .join pc l p pam b => .join pc l p pam (without b i)
      | t => t)
    splits := g.splits.map fun e => (e.1, { e.2 with chain := without e.2.chain i }) }

/-- Parks lanes with their `am` bits in a join token. -/
def park (g : Group) (i : Nat) (lanes am : Lanes) : Group :=
  match mapGet g.tokens i with
  | some (.join pc l p pam b) => { g with tokens := mapPut g.tokens i (.join pc l (p ||| lanes) (pam ||| (am &&& lanes)) b) }
  | _ => g

/-- The split's members park at T, its deferred entry pops, and it continues there (R84). -/
def popDeferred (g : Group) (n i : Nat) (pc : Word) (lanes mask : Lanes) : Group :=
  let p := split g n
  let g := match innermost g n with
    | some t => park g t p.members p.am
    | none => g
  updSplit (dropTok g i) n fun p => { p with pc := pc, members := lanes, am := mask, wait := none }

/-- A deferred entry's owner is a split, or, as 4 + i, whatever split token i comes to form. -/
def inherit (g : Group) (ns : List Nat) (n : Nat) : Group :=
  { g with tokens := g.tokens.map fun e => (e.1, match e.2 with
      | .deferred o pc l m => .deferred (if has ns o then n else o) pc l m
      | t => t) }

/-- A split ends. DESIGN CHOICE: deferred entries that it owns below its innermost token pass to the split that the token forms,
with lanes or without; the manual does not say whose they are then (R84, log 36). -/
def endSplit (g : Group) (n : Nat) : Group :=
  let g' := match innermost g n with
    | some i => inherit g [n] (4 + i)
    | none => g
  { g' with splits := mapDel g.splits n }

/-- A split whose membership is empty ends, or continues on its deferred entry (R73); `fuel` bounds the entries. -/
def settleSplit (g : Group) (n : Nat) : Nat → Group
  | 0 => g
  | fuel + 1 =>
    if (mapGet g.splits n).isSome && (split g n).members == 0 then
      match topDeferred g n with
      | some (i, pc, l, m) => settleSplit (popDeferred g n i pc l m) n fuel
      | none => endSplit g n
    else g

def settleSplits (g : Group) : Group := (g.splits.map (·.1)).foldl (fun g n => settleSplit g n 9) g

/-- The splits that wait at a join token. -/
def waitersAt (g : Group) (i : Nat) : List Nat :=
  (g.splits.filter fun p => match p.2.wait with | some (.join j) => j == i | _ => false).map (·.1)

def unionOf (ls : List Lanes) : Lanes := ls.foldl (· ||| ·) 0

/-- Lowest SPLIT number not in use. -/
def freeSplit (g : Group) : Nat := ((List.range 4).find? fun i => (mapGet g.splits i).isNone).getD 0

/-- Token i is to take over deferred entries of a split that has ended. -/
def heirTo (g : Group) (i : Nat) : Bool :=
  g.tokens.any fun e => match e.2 with
    | .deferred o _ _ _ => o == 4 + i
    | _ => false

/-- The completion check of one join token (R83). DESIGN CHOICE: R83 does not say what wait counter and stall the split so formed
has: here the largest counter of the splits that waited, 0 if only parked lanes remain, and the lowest split's stall; nor whose
deferred entries it owns: those of the splits that waited, and those that the token has come to own; one formed by parked lanes
alone is not restartable before its next IDEM (log 36). -/
def checkTok (g : Group) (i : Nat) : Group :=
  match mapGet g.tokens i with
  | some (.join pc l p pam below) =>
    let ws := waitersAt g i
    let lanes := unionOf (ws.map fun n => (split g n).members) ||| p
    if l &&& ~~~ (lanes ||| g.exited ||| g.dead) = 0 then
      let g' := dropTok { g with splits := g.splits.filter fun e => !has ws e.1 } i
      if ws.isEmpty && p == 0 && !heirTo g i then g'
      else
        let base := split g (ws.headD 0)
        let n := if ws.isEmpty then freeSplit g' else ws.headD 0
        let merged : Split :=
          { (if ws.isEmpty then ({ restartable := false } : Split) else base) with
            pc := nextPc pc 4, members := lanes, am := unionOf (ws.map fun n => (split g n).am) ||| pam
            ctr := (ws.map fun n => (split g n).ctr).foldl max 0, chain := below, wait := none }
        settleSplit (inherit (setSplit g' n merged) ((4 + i) :: ws) n) n 9
    else g
  | _ => g

/-- Checks every join token; a completion may let another complete. -/
def checkToks (g : Group) : Group :=
  (List.range 8).foldl (fun g _ => (g.tokens.map (·.1)).foldl checkTok g) g

/-- Lanes parked at a token or in a deferred entry. -/
def storedLanes (g : Group) : Lanes :=
  unionOf (g.tokens.map fun e => match e.2 with | .join _ _ p _ _ => p | .deferred _ _ l _ => l)

/-- Every living lane that has not exited (R70). -/
def livingLanes (g : Group) : Lanes := unionOf (g.splits.map fun e => e.2.members) ||| storedLanes g

/-- The compute slice has no split, no parked lane and no lane in a deferred entry (R73). -/
def computeGone (g : Group) : Bool := g.splits.isEmpty && livingLanes g == 0

/-- The group has nothing left to run (R73, R90, R323). -/
def finished (g : Group) : Bool := computeGone g && (match g.aslice with | some a => a.exited | none => true)

/-! ### Register pools (R121 to R126, R145) -/

def poolOf (t : Team) (q : Nat) : Pool := mapGetD t.pools q {}

def updPool (s : State) (tid q : Nat) (f : Pool → Pool) : State :=
  updTeam s tid fun t => { t with pools := mapPut t.pools q (f (poolOf t q)) }

/-- Zeroes registers vj to v(k − 1) (R123). -/
def zeroRegs (g : Group) (j k : Nat) : Group :=
  { g with
    vregs := g.vregs.filter fun e => !(decide (96 * j ≤ e.1) && decide (e.1 < 96 * k))
    fly := g.fly.filter fun f => !(f.w.isV && decide (j ≤ f.w.reg) && decide (f.w.reg < k)) }

/-- First register beyond the group's base set and blocks (R121). -/
def topReg (g : Group) : Nat := g.rbase + 4 * g.rext

/-- Gives `k` zeroed blocks to a group. -/
def giveBlocks (g : Group) (k : Nat) : Group := { zeroRegs g (topReg g) (topReg g + 4 * k) with rext := g.rext + k }

/-- Grants waiting requests in the order of their issue while the pool holds enough (R125), with the result 8 cycles on
(R146); `fuel` bounds them. A stopped group's request keeps its place until the group goes on (R397, log 53). -/
def grantPool (s : State) (tid q : Nat) : Nat → State
  | 0 => s
  | fuel + 1 =>
    let p := poolOf (team s tid) q
    match p.waiting with
    | [] => s
    | (gid, n, k, d) :: rest =>
      if k ≤ p.free && (grp s gid).state == .running then
        let s := updPool s tid q fun p => { p with free := p.free - k, waiting := rest }
        let s := updGrp s gid fun g => bump (giveBlocks g k) (.split n) 4
        grantPool (lockS s gid (.split n) d.toNat (BitVec.ofNat 32 (grp s gid).rext) 8) tid q fuel
      else s

/-- Returns `k` blocks to the team's pool and grants what waits for them. -/
def giveBack (s : State) (tid q k : Nat) : State :=
  let s := updPool s tid q fun p => { p with free := p.free + k }
  grantPool s tid q 33

/-- Requests of a group whose split no longer waits in RACQ leave the pool's order. -/
def pruneRacq (s : State) (gid : Nat) : State :=
  let g := grp s gid
  let gone := fun (w : Nat × Nat × Nat × Reg) => w.1 == gid && match waitOf g (.split w.2.1) with | some (.racq ..) => false | _ => true
  if (poolOf (teamOf s g) g.quad).waiting.any gone then
    giveBack (updPool s g.team g.quad fun p => { p with waiting := p.waiting.filter fun w => !gone w }) g.team g.quad 0
  else s

/-- A saved group's waits in RACQ and WPOP end: the instruction issues again after the restore (R126, R448). -/
def leaveQueues (s : State) (gid : Nat) : State :=
  let out := fun (w : Option Wait) => match w with | some (.racq ..) | some (.wpop ..) => none | w => w
  pruneRacq (updGrp s gid fun g =>
    { g with
      splits := g.splits.map fun e => (e.1, { e.2 with wait := out e.2.wait })
      aslice := g.aslice.map fun a => { a with wait := out a.wait } }) gid

/-! ### Bindings (R376, R377) -/

def noBinding : Word := 0xE0000000

/-- Frees a directory entry: USED clears and GEN advances (R373). -/
def freeEntry (e : DEntry) : DEntry :=
  { e with used := false, busy := false, dead := false, refnext := false, drift := false, gen := (e.gen + 1) % 128 }

/-- Ends a group's binding: a release at device scope (R377). -/
def endBinding (s : State) (gid : Nat) : State :=
  let g := grp s gid
  let st := g.dstat.toNat / 2 ^ 29
  let s := match g.binding with
    | none => if st = 4 || st = 5 then writeBackAll s (coreOf s g) else s
    | some b =>
      if 4 ≤ st then s
      else
        updCtx (writeBackAll s (coreOf s g)) (ctxOf s g) fun c =>
          let e := mapGetD c.ddir b.entry {}
          let e := { e with busy := false }
          { c with ddir := mapPut c.ddir b.entry (if e.dead || (st == 0 && !g.dstat.getLsbD 28) then freeEntry e else e) }
  updGrp s gid fun g => { g with binding := none, dstat := noBinding }

/-! ### The end of a group (R91, R44) -/

/-- Bit `code` of CTXERR (R403). -/
def setCtxErr (s : State) (cx code : Nat) : State := updCtx s cx fun c => { c with ctxerr := c.ctxerr ||| (1#32 <<< code) }

/-- The TCAUSE code of a cause (R401). -/
def codeOf : Cause → Nat
  | .illegal => 1 | .priv => 2 | .align => 3 | .xlate => 4 | .prot => 5 | .spbnd => 6 | .awin => 7 | .baruse => 8
  | .quse => 9 | .segnp => 10 | .fetch => 11 | .scount => 12 | .swtrap => 13 | .bkpt => 14 | .watch => 15
  | .depunf => 16 | .rfover => 17 | .estate => 18 | .tensor => 19 | .feed => 20 | .token => 21 | .copy => 22
  | .delta => 23 | .hintto => 24 | .expert => 25

/-- The matrix operations of a group leave the engine queues unless they have committed (R362). -/
def takeOps (s : State) (gid : Nat) : State × List MatOp :=
  let c := coreOf s (grp s gid)
  let mine := fun (o : MatOp) => o.group == gid && !o.committed
  let k := core s c
  let ops := sortBy (fun (a b : MatOp) => decide (a.id ≤ b.id)) ((k.eng0 ++ k.eng1).filter mine)
  (updCore s c fun k => { k with eng0 := k.eng0.filter fun o => !mine o, eng1 := k.eng1.filter fun o => !mine o }, ops)

/-- A stopped group's image leaves the save area, and its record the phase area (R417). -/
def dropImage (s : State) (gid : Nat) : State :=
  let s := updCtx s (ctxOf s (grp s gid)) fun c => { c with saved := mapDel c.saved gid, phased := mapDel c.phased gid }
  updGrp s gid fun g => { g with image := none }

/-- What GroupExit releases: barriers, blocks, binding, waiting places, queues and pending results (R91, R233, R323).
Operations already issued complete. -/
def groupExit (s : State) (gid : Nat) : State :=
  let g := grp s gid
  if g.state = .gone then s
  else
    let tid := g.team
    let s := endBinding s gid
    let s := dropImage s gid
    let s := updCtx s (ctxOf s g) fun c =>
      { c with estates := c.estates.filter fun e =>
          !(g.claims.any fun k => movedBy k.id e) }
    let s := updGrp s gid fun g =>
      { g with
        state := .gone, fly := [], pend := [], splits := [], tokens := [], classes := [], q := [], sq := [], toks := []
        affine := [], claims := [], monitor := none, rext := 0, resident := false, pass := none, phaseWait := none
        aslice := match g.aslice with | some a => some { a with exited := true, wait := none } | none => none }
    let s := updPool s tid g.quad fun p => { p with waiting := p.waiting.filter fun w => w.1 != gid }
    let s := giveBack s tid g.quad g.rext
    let s := updPart s (partOf s g) fun p =>
      { p with feeds := p.feeds.map fun f => (f.1, { f.2 with sleepers := f.2.sleepers.filter fun x => x.1 != gid }) }
    let s := updCore s (coreOf s g) fun k =>
      { k with
        paddock := without k.paddock gid, ready := without k.ready gid
        phaseOut := without k.phaseOut gid, fetched := without k.fetched gid }
    let s := updTeam s tid fun t => { t with windows := mapDel t.windows g.gix }
    let s := withdraw s gid
    if (team s tid).groups.all fun id => (grp s id).state == .gone then updTeam s tid fun t => { t with ended := true, placed := false } else s

/-- Exits the group if nothing of it is left (R73, R90). -/
def exitIfDone (s : State) (gid : Nat) : State := if finished (grp s gid) then groupExit s gid else s

/-- KillGroup(cause) at a code address (R44, R45). -/
def killGroup (s : State) (gid : Nat) (c : Cause) (pc : Word) : State :=
  let g := grp s gid
  if g.state = .gone then s
  else
    let s := setCtxErr s (ctxOf s g) (codeOf c)
    let s := updLaunch s (teamOf s g).launch fun l =>
      if l.killed = 0 then { l with killed := 1, fkGix := g.gix, fkCause := codeOf c, fkPc := pc, fkTeam := (teamOf s g).lin }
      else { l with killed := l.killed + 1 }
    groupExit s gid

/-! ### Lane death (R73, R134, R135, R201, R498, R499) -/

/-- Takes lanes out of every split, token and deferred entry. -/
def removeLanes (g : Group) (ls : Lanes) : Group :=
  { g with
    splits := g.splits.map fun e => (e.1, { e.2 with members := e.2.members &&& ~~~ ls, am := e.2.am &&& ~~~ ls })
    tokens := g.tokens.map fun e => (e.1, match e.2 with
      | .join pc l p pam b => .join pc l (p &&& ~~~ ls) (pam &&& ~~~ ls) b
      | .deferred o pc l m => .deferred o pc (l &&& ~~~ ls) (m &&& ~~~ ls)) }

/-- The pending estates a lane bequeathed become LOST (R201). -/
def loseEstates (s : State) (cx launch lin gix : Nat) (ls : Lanes) : State :=
  let hit := fun (e : Estate) => !e.isOpen && e.launch == launch && e.lin == lin && e.gix == gix && ls.getLsbD e.lane
  let s := updCtx s cx fun c => { c with estates := c.estates.map fun e => if hit e then { e with lost := true } else e }
  ((ctx s cx).estates.filter hit).foldl (fun s e => writeLine s cx e) s

/-- The split of which a lane is a member. -/
def splitOf (g : Group) (i : Nat) : Option Nat := (g.splits.find? fun p => p.2.members.getLsbD i).map (·.1)

/-- Lanes of a group die with a cause of R499. -/
def laneDeath (s : State) (gid : Nat) (ls : Lanes) (cause : Nat) : State :=
  let g := grp s gid
  let ls := ls &&& livingLanes g
  if ls = 0 then s
  else
    let t := teamOf s g
    let l := t.launch
    let s := loseEstates s (ctxOf s g) l t.lin g.gix ls
    let s := updLaunch s l fun k =>
      { k with
        casualties := k.casualties ++ (lanesOf ls).map fun i =>
          { team := t.lin, gix := g.gix, lane := i, cause := cause, round := k.round, time := s.time } }
    let s := loseClaims s gid l (ctxOf s g) ls
    let s := (lanesOf ls).foldl (fun s i => traceGroup s gid 6 (splitOf g i) (some i) []) s
    let s := countEvent s t.core 4 (lanesOf ls).length
    let s := updGrp s gid fun g =>
      let g := removeLanes { g with dead := g.dead ||| ls } ls
      checkToks (settleSplits { g with vregs := g.vregs.filter fun e => !ls.getLsbD (e.1 % 96) })
    let s := pruneRacq s gid
    let g := grp s gid
    if computeGone g && g.items &&& ~~~ g.dead == 0 then groupExit s gid else exitIfDone s gid

end Sys2Proof.Machine
end

