-- ==== Sys2Proof/Machine/Queues.lean ====
section
/-! DEFINITION. A team's scratchpad (R219 to R228), and the operand, store-data and token queues of a group
(R324 to R341). -/

namespace Sys2Proof.Machine
open Sys2Proof

/-! ### Scratchpad (R220, R225) -/

def spRead (s : State) (tid a n : Nat) : List Byte := bytesAt (team s tid).sp a n

/-- Writes scratchpad bytes; the latches see it. Poison marks are not touched. -/
def spPut (s : State) (tid a : Nat) (bs : List Byte) : State :=
  touchSp (updTeam s tid fun t => { t with sp := setBytes t.sp a bs }) tid a bs.length

/-- One copy write or zero fill: it clears the marks of the sectors it covers whole (R225). -/
def spWrite (s : State) (tid a : Nat) (bs : List Byte) : State :=
  updTeam (spPut s tid a bs) tid fun t => { t with spPoison := unpoison t.spPoison a bs.length }

def spBad (s : State) (tid a n : Nat) : Bool :=
  (team s tid).spPoison.any fun q => decide (a < 32 * q + 32) && decide (32 * q < a + n)

def spPoisonSector (s : State) (tid q : Nat) : State := updTeam s tid fun t => { t with spPoison := addTo t.spPoison q }

/-! ### Queues of a group -/

def opQ (g : Group) (k : Nat) : List QEntry := mapGetD g.q k []
def setOpQ (g : Group) (k : Nat) (es : List QEntry) : Group := { g with q := mapPut g.q k es }
def stQ (g : Group) (k : Nat) : List QEntry := mapGetD g.sq k []
def setStQ (g : Group) (k : Nat) (es : List QEntry) : Group := { g with sq := mapPut g.sq k es }

/-- Entries not popped. -/
def unpopped (es : List QEntry) : List QEntry := es.filter fun e => !e.held

/-- The held entries of q0 to q3 (R338). -/
def heldCount (g : Group) : Nat :=
  (List.range 4).foldl (fun n k => n + ((opQ g k).filter fun e => e.held).length) 0

/-- Operand entries in flight across q0 to q3 (R325, R338). -/
def inFlight (g : Group) : Nat := (List.range 4).foldl (fun n k => n + (opQ g k).length) 0

/-- A push to operand queue k need not wait (R325). -/
def roomQ (g : Group) (k : Nat) : Bool := decide ((opQ g k).length < 8) && decide (inFlight g < g.slip.toNat)

/-- A QAFF stream into queue k still has pushes to make (R326). -/
def streaming (g : Group) (k : Nat) : Bool := g.affine.any fun a => a.q == k

/-- EA(i) of QLD and QST (R339): a scratchpad offset as an integer, which a QAFF's steps may have taken below 0 (R341), or a
memory address. -/
def spAddr (base stride : Addr) (i : Nat) : Int := base.toInt + stride.toInt * i
def memAddr (base stride : Addr) (i : Nat) : Addr := base + stride * BitVec.ofNat 64 i

/-! ### Core-side watchpoints (R519) -/

/-- The bit of WCTL that selects an access kind: 0 read, 1 write, 2 atomic. -/
def watchBit (kind : Nat) : Nat := kind + 1

/-- The core-side watchpoint that an access meets. -/
def watched (s : State) (g : Group) (va : Addr) (size kind : Nat) : Option Nat :=
  if g.watchSkip == some s.who.2 || (ctx s (ctxOf s g)).dbgw.getLsbD 2 then none
  else
    ((part s (partOf s g)).watches.find? fun w =>
      w.2.ctl.getLsbD 0 && w.2.ctl.getLsbD (watchBit kind) && w.2.ctx.toNat == ctxOf s g
        && decide (w.2.base.toNat < va.toNat + size) && decide (va.toNat < w.2.base.toNat + 64 * w.2.len.toNat)).map (·.1)

/-! ### Loads into entries -/

/-- The checks of one lane's 4-byte access; the physical address or scratchpad offset where it passes. -/
inductive LaneCheck where
  | sp (a : Nat)
  | mem (pa : Nat) (uc : Bool)
  | zero (va : Addr)
  | fail (t : TrapInfo)
  deriving DecidableEq, Repr

/-- ALIGN, SPBND, XLATE and PROT for lane `i` (R331, R339), and WATCH for a load (R519): access kind 0 read or 1
write. -/
def checkLane (s : State) (gid : Nat) (d : LoadDesc) (kind i : Nat) : LaneCheck :=
  let g := grp s gid
  if d.kind = 2 then
    let a := spAddr d.base d.stride i
    let info := fun (c : Cause) => LaneCheck.fail { cause := c, lane := some i, addr := some (BitVec.ofInt 64 a), kind := kind }
    if a % 4 ≠ 0 then info .align
    else if a < 0 ∨ (teamOf s g).spsize < a + 4 then info .spbnd
    else .sp a.toNat
  else
    let va := memAddr d.base d.stride i
    if va.toNat % 4 ≠ 0 then .fail { cause := .align, lane := some i, addr := some va, kind := kind }
    else
      let x := match xlateTlb s (coreOf s g) (ctxOf s g) va kind with
        | .miss => xlateWalk s (ctxOf s g) va kind
        | x => x
      match x with
      | .ok pa uc =>
        match (if kind = 0 then watched s g va 4 0 else none) with
        | some w => .fail { cause := .watch, lane := some i, addr := some va, kind := kind, code := w }
        | none => .mem pa uc
      | .zero | .miss => .zero va
      | .fail r => .fail { cause := causeOf r, lane := some i, addr := some va, kind := kind, reason := r }

/-- The lanes a QLD accesses: living, within the work-item count and not exited (R337). -/
def loadLanes (g : Group) : Lanes := g.items &&& ~~~ g.dead &&& ~~~ g.exited

/-- Whether a lane's page is being zeroed, so that the load waits (R255). -/
def loadWaits (s : State) (gid : Nat) (d : LoadDesc) (lanes : Lanes) : Option Addr :=
  (lanesOf lanes).findSome? fun i => match checkLane s gid d 0 i with | .zero va => some va | _ => none

/-- Some lanes read at an address: those that read a peer's memory, by peer, or under 512 the host's (R514, R533). -/
def addFar (s : State) (m : AMap Lanes) (pa : Nat) (ls : Lanes) : AMap Lanes :=
  match regionOf s pa with
  | .peer d => mapPut m d (mapGetD m d 0 ||| ls)
  | .host => mapPut m 512 (mapGetD m 512 0 ||| ls)
  | _ => m

/-- Issues the load of one lane of an entry (R331): value, fault or poison. -/
def loadLane (s : State) (gid : Nat) (d : LoadDesc) (i : Nat) (e : QEntry) : State × QEntry :=
  let g := grp s gid
  match checkLane s gid d 0 i with
  | .fail t => (s, { e with faults := mapPut e.faults i t })
  | .zero _ => (s, e)
  | .sp a =>
    if spBad s g.team a 4 then (s, { e with poison := e.poison ||| laneBit i })
    else (s, { e with vals := cellSet e.vals i (BitVec.ofNat 32 (leNat (spRead s g.team a 4))) })
  | .mem pa uc =>
    if coreBad s (coreOf s g) pa 4 then (s, { e with poison := e.poison ||| laneBit i })
    else
      let (s, bs) := coreRead s (coreOf s g) pa 4 (!uc && d.kind == 0)
      (s, { e with vals := cellSet e.vals i (BitVec.ofNat 32 (leNat bs)), far := addFar s e.far pa (laneBit i) })

/-- Issues the loads of some lanes of an entry. -/
def loadEntry (s : State) (gid : Nat) (d : LoadDesc) (lanes : Lanes) (e : QEntry) : State × QEntry :=
  (lanesOf lanes).foldl (fun se i => loadLane se.1 gid d i se.2) (s, e)

/-- Pushes a pending entry with its descriptor to operand queue k (R339). -/
def pushLoad (s : State) (gid k : Nat) (d : LoadDesc) : State :=
  let (id, s) := freshId s
  let lanes := loadLanes (grp s gid)
  let (s, e) := loadEntry s gid d lanes { id := id, mask := lanes, pending := true, desc := some d }
  updGrp s gid fun g => setOpQ g k (opQ g k ++ [e])

/-- Issues again the loads of an entry: the whole of it, or its faulted lanes. -/
def reload (s : State) (gid : Nat) (e : QEntry) (all : Bool) : State × QEntry :=
  match e.desc with
  | none => (s, e)
  | some d =>
    if all then loadEntry s gid d (loadLanes (grp s gid)) { e with vals := [], faults := [], poison := 0, pending := true, far := [] }
    else
      let lanes := unionOf (e.faults.map fun f => laneBit f.1) &&& loadLanes (grp s gid)
      loadEntry s gid d lanes { e with faults := [], pending := true, far := [] }

/-- Re-issues the loads of the entries of queue k that `which` picks. -/
def reloadQueue (s : State) (gid k : Nat) (all : Bool) (which : QEntry → Bool) : State :=
  let (s, es) := (opQ (grp s gid) k).foldl
    (fun (acc : State × List QEntry) e =>
      if which e then
        let (s, e) := reload acc.1 gid e all
        (s, acc.2 ++ [e])
      else (acc.1, acc.2 ++ [e])) (s, [])
  updGrp s gid fun g => setOpQ g k es

/-- The faulted lanes of the entry whose pop trapped (R332). -/
def reloadEntry (s : State) (gid k id : Nat) : State := reloadQueue s gid k false fun e => e.id == id

/-- An entry that is saved as a load descriptor: pending or faulted (R335). -/
def isDesc (e : QEntry) : Bool := e.pending || !e.faults.isEmpty

/-- Issues every saved descriptor again, in queue order (R336). -/
def reloadQueues (s : State) (gid : Nat) : State := (List.range 4).foldl (fun s k => reloadQueue s gid k true isDesc) s

/-- Frees the entries held since the last IDEM; the entries popped from here on are held (R338, R424). -/
def freeHeld (g : Group) : Group :=
  { g with q := g.q.map fun e => (e.1, unpopped e.2), idem := true }

/-- Returns held entries to the heads of their queues (R338, R495). -/
def returnHeld (g : Group) : Group :=
  { g with q := g.q.map fun e => (e.1, e.2.map fun x => { x with held := false }) }

end Sys2Proof.Machine
end

