-- ==== Sys2Proof/Machine/Ops.lean ====
section
/-! DEFINITION. Taking a trap, and the return from one: stopping a group, its save image, its trap record and
interrupt, and the restore and resume (R397 to R422). -/

namespace Sys2Proof.Machine
open Sys2Proof

/-! ### Areas (R417) -/

def roundUp (n k : Nat) : Nat := (n + k - 1) / k * k

/-! ### The save image (R413, R415) -/

def wordsBytes (ws : List Word) : List Byte := ws.flatMap fun w => leBytes w.toNat 4

/-- The vector registers an image holds: those a hint names live, or all the group may name. -/
def imageRegs (g : Group) : List Nat :=
  match g.hintRegs with
  | some rs => rs
  | none => List.range (topReg g)

/-- The scalar section: s0 to s63 with s61 to s63 of split 0. -/
def scalarBytes (g : Group) : List Byte := wordsBytes ((List.range 64).map fun r => readS g (.split 0) r)

def vectorBytes (g : Group) (k : Nat) : List Byte := wordsBytes ((List.range 96).map fun i => readV g k i)

def padTo (bs : List Byte) (k : Nat) : List Byte := bs ++ List.replicate (roundUp bs.length k - bs.length) 0

/-- The 384 bytes of one entry: a pending or faulted operand entry as its load descriptor, any other as its values. Masks, poison
bits and the marks of faulted lanes travel in the header (R335, R410). DESIGN CHOICE: the order of a descriptor's fields, and
the zeros after them (log 16). -/
def oneEntry (e : QEntry) : List Byte :=
  match e.desc, isDesc e with
  | some d, true => padTo (leBytes d.kind 4 ++ List.replicate 4 0 ++ leBytes d.base.toNat 8 ++ leBytes d.stride.toNat 8) 384
  | _, _ => wordsBytes ((List.range 96).map fun i => cellGet e.vals i)

/-- The section of one queue. -/
def entryBytes (es : List QEntry) : List Byte := padTo (es.flatMap oneEntry) 64

/-- The offset of the vector section in an image. -/
def vectorOff (g : Group) : Nat := 768 + (if g.aslice.isSome then 128 else 0) + 64

/-- The image of a group (R415). -/
def imageBytes (g : Group) : List Byte :=
  let regs := imageRegs g
  let map := regs.foldl (fun m k => m + 2 ^ k) 0
  headerBytes g.imageDraw 512 ++ scalarBytes g
    ++ (if g.aslice.isSome then wordsBytes ((List.range 32).map fun r => readS g .aslice r) else [])
    ++ padTo (leBytes map 8) 64 ++ regs.flatMap (vectorBytes g)
    ++ (List.range 4).flatMap (fun k => entryBytes (opQ g k)) ++ (List.range 4).flatMap (fun k => entryBytes (stQ g k))
    ++ padTo (wordsBytes g.toks) 64

/-- Writes a group's image to its context's save area, if it fits. -/
def writeImage (s : State) (gid : Nat) : State :=
  let g := { grp s gid with imageDraw := s.fresh }
  let c := ctx s (ctxOf s g)
  let bs := imageBytes g
  match placeIn ((c.saved.filter fun e => e.1 != gid).map (·.2)) bs.length c.saves with
  | none => updGrp s gid fun g => { g with image := none, recordDue := true }
  | some off =>
    let va := c.savea + BitVec.ofNat 64 off
    let s := updCtx s (ctxOf s g) fun c => { c with saved := mapPut c.saved gid (off, bs.length) }
    let s := writeVa { s with fresh := s.fresh + 512 } (coreOf s g) (ctxOf s g) va bs
    updGrp s gid fun h => { h with image := some (va, bs.length), imageDraw := g.imageDraw, recordDue := false }

/-- Writes an arriving value into the image at its register's place (R399). The scalar section holds s61 to s63 of split 0; those
of another split travel in the header (R415). -/
def patchImage (s : State) (gid : Nat) (w : RegWrite) : State :=
  let g := grp s gid
  match g.image with
  | none => s
  | some (va, _) =>
    if w.isV then
      match (imageRegs g).idxOf? w.reg with
      | none => s
      | some j =>
        (lanesOf w.mask).foldl (fun s i =>
          writeVa s (coreOf s g) (ctxOf s g) (va + BitVec.ofNat 64 (vectorOff g + 384 * j + 4 * i)) (leBytes (cellGet w.vals i).toNat 4)) s
    else if 61 ≤ w.reg && w.stream != .split 0 && w.stream != .aslice then s
    else
      let off := match w.stream with | .aslice => 768 + 4 * w.reg | .split _ => 512 + 4 * w.reg
      writeVa s (coreOf s g) (ctxOf s g) (va + BitVec.ofNat 64 off) (leBytes (cellGet w.vals 0).toNat 4)

/-- Puts the words of a list into scalar registers from `r` up. -/
def loadScalars (g : Group) (st : Stream) (r : Nat) : List Word → Group
  | [] => g
  | w :: ws => loadScalars (putS g st r w) st (r + 1) ws

def bytesWords : List Byte → List Word
  | a :: b :: c :: d :: rest => BitVec.ofNat 32 (leNat [a, b, c, d]) :: bytesWords rest
  | _ => []

/-- Restores the scalar and vector sections of the image, with what the runtime has changed in them (R406, R416).
False where the header's check word does not match: any change of the header is taken to break it (log 16). -/
def readImage (s : State) (gid : Nat) : State × Bool :=
  let g := grp s gid
  match g.image with
  | none => (s, true)
  | some (va, _) =>
    let cx := ctxOf s g
    match readVa s cx va 512, readVa s cx (va + 512) 256 with
    | some hdr, some sc =>
      if hdr != headerBytes g.imageDraw 512 then (s, false)
      else
        let g := loadScalars g (.split 0) 0 (bytesWords sc)
        let g := match g.aslice, readVa s cx (va + 768) 128 with
          | some _, some bs => loadScalars g .aslice 0 (bytesWords bs)
          | _, _ => g
        let regs := imageRegs g
        let g := (List.range regs.length).foldl (fun g j =>
          match readVa s cx (va + BitVec.ofNat 64 (vectorOff g + 384 * j)) 384 with
          | some bs =>
            let ws := bytesWords bs
            putV g (regs.getD j 0) (g.items &&& ~~~ g.dead) fun i => ws.getD i 0
          | none => g) g
        (setGrp s gid g, true)
    | _, _ => (s, true)

/-! ### The trap ring (R405) -/

/-- The stream that a record without a stream of its own names: the first split, else the address slice. -/
def firstStream (g : Group) : Stream := match g.splits with | p :: _ => .split p.1 | [] => .aslice

/-- A trap record but for SEQ. -/
def recordBytes (s : State) (gid : Nat) (st : Stream) (t : TrapInfo) (area : Bool) : List Byte :=
  let g := grp s gid
  let flags := (if st = .aslice then 1 else 0) + (if t.lane.isSome then 2 else 0) + (if t.addr.isSome then 4 else 0)
    + (if t.halt then 8 else 0) + (if area then 16 else 0) + (if t.step then 32 else 0)
  let sp := match st with | .split n => n | .aslice => 0
  leBytes (codeOf t.cause) 1 ++ leBytes flags 1 ++ leBytes sp 1 ++ leBytes (t.lane.getD 255) 1 ++ leBytes (pcOf g st).toNat 4
    ++ leBytes (t.code + 256 * t.reason + 4096 * t.kind) 4 ++ leBytes (t.addr.getD 0).toNat 8 ++ leBytes (teamOf s g).launch 8
    ++ leBytes (linOf s g) 4 ++ leBytes g.gix 2 ++ leBytes (coreOf s g) 2 ++ leBytes g.stopTime.toNat 8
    ++ leBytes (match g.image with | some i => i.1.toNat | none => 0) 8 ++ List.replicate 8 (0 : Byte)

/-- The trap ring has room (R405). -/
def ringRoom (c : Ctx) : Bool := decide ((c.trapn - c.trapc).toNat < 2 ^ c.trapl)

/-- Raises the interrupts that CTLW names for a record, but for a record that interrupts no one (R404, R409, R457, R528). -/
def trapInterrupt (s : State) (cx : Nat) (quiet : Bool) : State :=
  let c := ctx s cx
  let tgt := c.ctlw.toNat / 512 % 4
  let host := (tgt == 1 || tgt == 2) && s.hostUp && !quiet
  let sys := (tgt != 1 || !s.hostUp) && !quiet
  { s with interrupts := s.interrupts ++ (if host then [.msix c.part 63] else [])
            ++ (if sys then [.system c.part (c.ctlw.toNat / 16 % 32)] else []) }

/-- Writes one record to the ring, as a release at system scope. -/
def putRecord (s : State) (cx c : Nat) (bs : List Byte) (quiet : Bool) : State :=
  let k := ctx s cx
  let slot := k.trapb + BitVec.ofNat 64 (64 * (k.trapn.toNat % 2 ^ k.trapl))
  let s := writeVa (writeBackAll s c) c cx slot (leBytes k.trapn.toNat 4 ++ bs)
  trapInterrupt (updCtx s cx fun k => { k with trapn := k.trapn + 1 }) cx quiet

/-- Writes a group's record, or has it wait for room in the ring. -/
def trapRecord (s : State) (gid : Nat) (st : Stream) (t : TrapInfo) (area quiet : Bool) : State :=
  let g := grp s gid
  let cx := ctxOf s g
  let bs := recordBytes s gid st t area
  if ringRoom (ctx s cx) && (ctx s cx).recWait.isEmpty then putRecord s cx (coreOf s g) bs quiet
  else updCtx s cx fun c => { c with recWait := c.recWait ++ [(gid, bs, quiet)] }

/-- Serves records that waited, oldest first, while the ring has room; `fuel` bounds them. -/
def serveRecords (s : State) (cx : Nat) : Nat → State
  | 0 => s
  | fuel + 1 =>
    match (ctx s cx).recWait with
    | [] => s
    | (gid, bs, quiet) :: rest =>
      if ringRoom (ctx s cx) then
        let s := updCtx s cx fun c => { c with recWait := rest }
        serveRecords (putRecord s cx (coreOf s (grp s gid)) bs quiet) cx fuel
      else s

/-! ### Taking a trap (R397, R398, R404) -/

/-- Causes whose delivery sets no CTXERR bit (R403). -/
def quietCause : Cause → Bool
  | .swtrap | .bkpt | .watch | .hintto => true
  | _ => false

/-- An instruction that has not taken effect is issued afresh when the group continues, and so are a JOIN and a fetch from a
segment that is loading (R76). -/
def dropPeek (w : Option Wait) : Option Wait :=
  match w with
  | some .retry | some .pop | some .late | some (.xlate _) | some (.zero _) | some (.join _) | some (.segment _) => none
  | w => w

/-- Stops a group at an instruction boundary with what it has issued completed (R397, R398); its wait counters restart at 0
(R86). -/
def stopGroup (s : State) (gid : Nat) : State :=
  updGrp s gid fun g =>
    let g := landAll g
    let g := (g.pend.filter fun p => p.op.isNone).foldl (fun g p => p.writes.foldl land g) g
    { g with
      pend := g.pend.filter fun p => p.op.isSome
      stopTime := s.time
      splits := g.splits.map fun e => (e.1, { e.2 with wait := dropPeek e.2.wait, stall := 0, ctr := 0 })
      aslice := g.aslice.map fun a => { a with wait := dropPeek a.wait, stall := 0, ctr := 0 }
      sq := g.sq.map fun e => (e.1, e.2.map fun x => { x with due := 0 }) }

/-- Trap(cause): the group stops exactly, its image and its record are written, and the interrupt is raised. A
debugger halt abandons no matrix operation. -/
def takeTrap (s : State) (gid : Nat) (st : Stream) (t : TrapInfo) : State :=
  let cx := ctxOf s (grp s gid)
  let s := if quietCause t.cause then s else setCtxErr s cx (codeOf t.cause)
  let (s, ops) := if t.halt then (s, []) else takeOps s gid
  let s := stopGroup s gid
  let s := updGrp s gid fun g =>
    { g with state := .stopped t st, abandoned := g.abandoned ++ ops, hintRegs := none
             tcause := if t.halt then g.tcause else BitVec.ofNat 32 (codeOf t.cause + (if st = .aslice then 256 else 0)) }
  let s := writeImage s gid
  let s := traceGroup s gid 3 (match st with | .split n => some n | .aslice => none) t.lane
    [codeOf t.cause, (pcOf (grp s gid) st).toNat]
  trapRecord s gid st t (grp s gid).image.isNone (t.cause == .hintto)

/-- Trap(cause) for the issuing stream. -/
def trap (s : State) (t : TrapInfo) : State := takeTrap s s.who.1 s.who.2 t

/-- Trap(cause) with nothing else to report. -/
def trapC (s : State) (c : Cause) : State := trap s { cause := c }

/-- A save or write-out found no room: a HINTTO record with AREA set (R417). -/
def areaRecord (s : State) (gid : Nat) (st : Stream) : State := trapRecord s gid st { cause := .hintto } true false

/-! ### Returning from a trap (R401, R406) -/

/-- Queues abandoned matrix operations again, in issue order (R362). -/
def requeueOps (s : State) (gid : Nat) : State :=
  let g := grp s gid
  let again := fun (o : MatOp) => { o with started := false, acc := [], accBad := [], ready := s.clk.toNat + 4 }
  let s := updCore s (coreOf s g) fun k =>
    { k with
      eng0 := k.eng0 ++ (g.abandoned.filter fun o => o.eng == 0).map again
      eng1 := k.eng1 ++ (g.abandoned.filter fun o => o.eng == 1).map again }
  updGrp s gid fun g => { g with abandoned := [] }

/-- The results and claims in flight to registers that were saved, when a group goes on: it issues nothing before they have arrived
(R399). -/
def marksOf (g : Group) : List Nat :=
  ((g.pend.filter fun p => !p.writes.isEmpty).map (·.id))
    ++ ((g.claims.filter fun c => (c.regs ++ [c.vs]).any fun k => !has c.lost k).map (·.id))

/-- Kills a stopped group, whose abandoned matrix operations are queued again where its team is placed; those of a
saved team are carried out by themselves (R362, log 53). -/
def killStopped (s : State) (gid : Nat) (c : Cause) : State :=
  killGroup (if (teamOf s (grp s gid)).placed then requeueOps s gid else s) gid c (pcOf (grp s gid) (.split 0))

/-- Ends a stop: restores the image, frees it, and continues with `f` applied to the group, which may pass over the instruction
that a stream waits at. What its streams waited for may have come meanwhile, the loads of the entries that `again` picks are issued again, and a request for blocks may be granted
(R336, R397). A bad check word kills the group with ESTATE (R416). -/
def endStop (s : State) (gid : Nat) (again : QEntry → Bool) (f : Group → Group) : State :=
  let (s, ok) := readImage s gid
  if ok then
    let s := requeueOps (dropImage s gid) gid
    let s := updGrp s gid fun g =>
      latched (wakeAll (f { g with state := .running, recordDue := false, forced := false, hintRegs := none, marks := marksOf g }))
    let s := (List.range 4).foldl (fun s k => reloadQueue s gid k true again) s
    giveBack (pruneRacq s gid) (grp s gid).team (grp s gid).quad 0
  else killStopped s gid .estate

/-- RESUME's point (R401): TRAP and BKPT continue at the following instruction, a STEP stop or halt and every other
cause at the saved position. -/
def resumeSkip (t : TrapInfo) : Nat :=
  if t.step || t.halt then 0
  else
    match t.cause with
    | .swtrap | .bkpt => 4
    | _ => 0

/-- RESUME, with the number of instructions left for a STEP. -/
def resumeGroup (s : State) (gid : Nat) (steps : Option Nat) : State :=
  match (grp s gid).state with
  | .stopped t st =>
    let s := endStop s gid (fun e => e.pending) fun g =>
      let g := if resumeSkip t = 0 then g else bump g st (resumeSkip t)
      { g with stepLeft := steps, watchSkip := if t.cause == .watch then some st else none }
    match t.entry with
    | some (k, id) => reloadEntry s gid k id
    | none => s
  | _ => s

/-- RESUME-NEXT over a stopped instruction of a known length in bytes. -/
def resumeNext (s : State) (gid len : Nat) : State :=
  match (grp s gid).state with
  | .stopped _ st => endStop s gid (fun e => e.pending) fun g => { bump g st len with stepLeft := none }
  | _ => s

/-- The cause KILL uses (R406). -/
def killCause : Cause → Cause
  | .hintto | .swtrap | .bkpt | .watch => .swtrap
  | c => c

end Sys2Proof.Machine
end

