-- ==== Sys2Proof/Machine/Operands.lean ====
section
/-! DEFINITION. The operand forms: which registers and queues each instruction names, how sources are read and
queues popped, how results are written, and what is checked before any effect (R42, R50, R52, R106, R124, R127 to
R131, R321, R328 to R330). -/

namespace Sys2Proof.Machine
open Sys2Proof

/-! ### What an instruction names -/

/-- Scalar and vector registers read and written, queues popped (A first) and the store-data queue pushed. -/
structure Uses where
  sr   : List Nat := []
  sw   : List Nat := []
  vr   : List Nat := []
  vw   : List Nat := []
  pops : List Nat := []
  push : Option Nat := none
  deriving DecidableEq, Repr

def pairRegs (r : Reg) : List Nat := [r.toNat, r.toNat + 1]
def tripleRegs (r : Reg) : List Nat := [r.toNat, r.toNat + 1, r.toNat + 2]
def blockRegs (r : Reg) (n : Nat) : List Nat := (List.range n).map fun i => r.toNat + i
def spanRegs (r : Reg) (n : Nat) : List Nat := (List.range n).map fun i => r.toNat + i
def regsIf (pair : Bool) (r : Reg) : List Nat := if pair then pairRegs r else [r.toNat]
def mapRegs (t : Word) : List Nat := (List.range 32).filter fun i => t.getLsbD i

/-- Vector source fields: registers, or queues popped (R42). -/
def srcs (rs : List Reg) : Uses :=
  { vr := (rs.filter fun r => decide (r.toNat < 60)).map (·.toNat)
    pops := (rs.filter fun r => decide (60 ≤ r.toNat)).map fun r => r.toNat - 60 }

/-- A vector destination field: a register, or a store-data queue pushed. -/
def Uses.dest (u : Uses) (d : Reg) : Uses :=
  if d.toNat < 60 then { u with vw := u.vw ++ [d.toNat] } else { u with push := some (d.toNat - 60) }

def Uses.alsoReads (u : Uses) (d : Reg) : Uses := { u with vr := u.vr ++ [d.toNat] }
def Uses.reads (u : Uses) (rs : List Nat) : Uses := { u with vr := u.vr ++ rs }
def Uses.writes (u : Uses) (rs : List Nat) : Uses := { u with vw := u.vw ++ rs }

/-- A scalar operand of majors 0x00 to 0x04: a register, or a pair where TY is .s64 or .n64 (R102). -/
def wideRegs (f : Head) (r : Reg) : List Nat := regsIf (decide (2 ≤ f.ty.toNat)) r

/-- The offset register of SLD and SST with TY 1. -/
def offReg (f : Head) : List Nat := if f.ty == 1 then [f.b.toNat] else []

/-- What each instruction names, from the entry of each. -/
def usesOf (i : Instr) : Uses :=
  match i with
  | .vmov_16 f => (srcs [f.b.setWidth 6]).dest f.d
  | .vadd_16 f => (srcs [f.d, f.b.setWidth 6]).dest f.d
  | .vsub_16 f => (srcs [f.d, f.b.setWidth 6]).dest f.d
  | .vmul_16 f => (srcs [f.d, f.b.setWidth 6]).dest f.d
  | .vmin_16 f => (srcs [f.d, f.b.setWidth 6]).dest f.d
  | .vmax_16 f => (srcs [f.d, f.b.setWidth 6]).dest f.d
  | .vand_16 f => (srcs [f.d, f.b.setWidth 6]).dest f.d
  | .vor_16 f => (srcs [f.d, f.b.setWidth 6]).dest f.d
  | .vxor_16 f => (srcs [f.d, f.b.setWidth 6]).dest f.d
  | .vshl_16 f => (srcs [f.d, f.b.setWidth 6]).dest f.d
  | .vshr_16 f => (srcs [f.d, f.b.setWidth 6]).dest f.d
  | .vfadd_16 f => (srcs [f.d, f.b.setWidth 6]).dest f.d
  | .vfsub_16 f => (srcs [f.d, f.b.setWidth 6]).dest f.d
  | .vfmul_16 f => (srcs [f.d, f.b.setWidth 6]).dest f.d
  | .vfmin_16 f => (srcs [f.d, f.b.setWidth 6]).dest f.d
  | .vfmax_16 f => (srcs [f.d, f.b.setWidth 6]).dest f.d
  | .sadd f => { sr := wideRegs f f.a ++ wideRegs f f.b, sw := wideRegs f f.d }
  | .ssub f => { sr := wideRegs f f.a ++ wideRegs f f.b, sw := wideRegs f f.d }
  | .smul f => { sr := wideRegs f f.a ++ wideRegs f f.b, sw := wideRegs f f.d }
  | .smulh f => { sr := wideRegs f f.a ++ wideRegs f f.b, sw := wideRegs f f.d }
  | .sand f => { sr := wideRegs f f.a ++ wideRegs f f.b, sw := wideRegs f f.d }
  | .sor f => { sr := wideRegs f f.a ++ wideRegs f f.b, sw := wideRegs f f.d }
  | .sxor f => { sr := wideRegs f f.a ++ wideRegs f f.b, sw := wideRegs f f.d }
  | .sshl f => { sr := wideRegs f f.a ++ wideRegs f f.b, sw := wideRegs f f.d }
  | .sshr f => { sr := wideRegs f f.a ++ wideRegs f f.b, sw := wideRegs f f.d }
  | .ssra f => { sr := wideRegs f f.a ++ wideRegs f f.b, sw := wideRegs f f.d }
  | .smin f => { sr := wideRegs f f.a ++ wideRegs f f.b, sw := wideRegs f f.d }
  | .smax f => { sr := wideRegs f f.a ++ wideRegs f f.b, sw := wideRegs f f.d }
  | .ssel f => { sr := wideRegs f f.a ++ wideRegs f f.b ++ wideRegs f f.d, sw := wideRegs f f.d }
  | .sbfx f => { sr := wideRegs f f.a ++ wideRegs f f.b, sw := wideRegs f f.d }
  | .sbfi f => { sr := wideRegs f f.a ++ wideRegs f f.b ++ wideRegs f f.d, sw := wideRegs f f.d }
  | .smov f => { sr := wideRegs f f.a, sw := wideRegs f f.d }
  | .saddImm f => { sr := wideRegs f f.a, sw := wideRegs f f.d }
  | .ssubImm f => { sr := wideRegs f f.a, sw := wideRegs f f.d }
  | .smulImm f => { sr := wideRegs f f.a, sw := wideRegs f f.d }
  | .smulhImm f => { sr := wideRegs f f.a, sw := wideRegs f f.d }
  | .sandImm f => { sr := wideRegs f f.a, sw := wideRegs f f.d }
  | .sorImm f => { sr := wideRegs f f.a, sw := wideRegs f f.d }
  | .sxorImm f => { sr := wideRegs f f.a, sw := wideRegs f f.d }
  | .sshlImm f => { sr := wideRegs f f.a, sw := wideRegs f f.d }
  | .scmp _ f => { sr := wideRegs f f.a ++ wideRegs f f.b, sw := [f.d.toNat] }
  | .spopc f => { sr := wideRegs f f.a, sw := [f.d.toNat] }
  | .sclz f => { sr := wideRegs f f.a, sw := [f.d.toNat] }
  | .sffs f => { sr := wideRegs f f.a, sw := [f.d.toNat] }
  | .srev f => { sr := wideRegs f f.a, sw := wideRegs f f.d }
  | .sli f => { sw := [f.d.toNat] }
  | .slix k f _ => { sw := if k == 0 then [f.d.toNat] else if k == 3 then [f.d.toNat + 1] else pairRegs f.d }
  | .sld_32 f => { sr := pairRegs f.a ++ offReg f, sw := [f.d.toNat] }
  | .sld_64 f => { sr := pairRegs f.a ++ offReg f, sw := pairRegs f.d }
  | .sst_32 f => { sr := pairRegs f.a ++ offReg f ++ [f.d.toNat] }
  | .sst_64 f => { sr := pairRegs f.a ++ offReg f ++ pairRegs f.d }
  | .sldk f => { sw := if f.ty == 0 then [f.d.toNat] else pairRegs f.d }
  | .bra _ => {}
  | .brz f => { sr := [f.s.toNat] }
  | .brnz f => { sr := [f.s.toNat] }
  | .call f => { sw := [f.s.toNat] }
  | .sdbnz f => { sr := [f.s.toNat], sw := [f.s.toNat] }
  | .bany f => { sr := tripleRegs f.s }
  | .ball f => { sr := tripleRegs f.s }
  | .jmpr f => { sr := [f.a.toNat] }
  | .ret f => { sr := [f.a.toNat] }
  | .jfnc f => { sr := [f.a.toNat], sw := [f.d.toNat] }
  | .exit _ => {}
  | .trap _ => {}
  | .bkpt _ => {}
  | .nops _ => {}
  | .vbr f => { sr := tripleRegs f.s }
  | .vbrn f => { sr := tripleRegs f.s }
  | .vbrk f => { sr := tripleRegs f.s }
  | .jtok _ => {}
  | .join _ => {}
  | .waite _ => {}
  | .fence _ => {}
  | .idem _ => {}
  | .phint f _ _ => { sr := [f.a.toNat, f.b.toNat] }
  | .vadd f => (srcs [f.a, f.b]).dest f.d
  | .vsub f => (srcs [f.a, f.b]).dest f.d
  | .vmul f => (srcs [f.a, f.b]).dest f.d
  | .vmulh f => (srcs [f.a, f.b]).dest f.d
  | .vmin f => (srcs [f.a, f.b]).dest f.d
  | .vmax f => (srcs [f.a, f.b]).dest f.d
  | .vabs f => (srcs [f.a]).dest f.d
  | .vmad f => ((srcs [f.a, f.b]).dest f.d).alsoReads f.d
  | .vand f => (srcs [f.a, f.b]).dest f.d
  | .vor f => (srcs [f.a, f.b]).dest f.d
  | .vxor f => (srcs [f.a, f.b]).dest f.d
  | .vshl f => (srcs [f.a, f.b]).dest f.d
  | .vshr f => (srcs [f.a, f.b]).dest f.d
  | .vsra f => (srcs [f.a, f.b]).dest f.d
  | .vpopc f => (srcs [f.a]).dest f.d
  | .vclz f => (srcs [f.a]).dest f.d
  | .vaddImm f => (srcs [f.a]).dest f.d
  | .vsubImm f => (srcs [f.a]).dest f.d
  | .vmulImm f => (srcs [f.a]).dest f.d
  | .vmulhImm f => (srcs [f.a]).dest f.d
  | .vminImm f => (srcs [f.a]).dest f.d
  | .vmaxImm f => (srcs [f.a]).dest f.d
  | .vmadImm f => ((srcs [f.a]).dest f.d).alsoReads f.d
  | .vandImm f => (srcs [f.a]).dest f.d
  | .vorImm f => (srcs [f.a]).dest f.d
  | .vxorImm f => (srcs [f.a]).dest f.d
  | .vshlImm f => (srcs [f.a]).dest f.d
  | .vshrImm f => (srcs [f.a]).dest f.d
  | .vsraImm f => (srcs [f.a]).dest f.d
  | .vfadd f => (srcs [f.a, f.b]).dest f.d
  | .vfsub f => (srcs [f.a, f.b]).dest f.d
  | .vfmul f => (srcs [f.a, f.b]).dest f.d
  | .vfma f => ((srcs [f.a, f.b]).dest f.d).alsoReads f.d
  | .vfmin f => (srcs [f.a, f.b]).dest f.d
  | .vfmax f => (srcs [f.a, f.b]).dest f.d
  | .vfabs f => (srcs [f.a]).dest f.d
  | .vfneg f => (srcs [f.a]).dest f.d
  | .vcmp _ f => { srcs [f.a, f.b] with sw := tripleRegs f.d }
  | .vrcp f => (srcs [f.a]).dest f.d
  | .vrsq f => (srcs [f.a]).dest f.d
  | .vsqrt f => (srcs [f.a]).dest f.d
  | .vexp2 f => (srcs [f.a]).dest f.d
  | .vlog2 f => (srcs [f.a]).dest f.d
  | .vsin f => (srcs [f.a]).dest f.d
  | .vcos f => (srcs [f.a]).dest f.d
  | .vtanh f => (srcs [f.a]).dest f.d
  | .vmov f => (srcs [f.a]).dest f.d
  | .vsel f => { ((srcs [f.a]).dest f.d).alsoReads f.d with sr := tripleRegs f.b }
  | .vbcs f => { ({} : Uses).dest f.d with sr := [f.a.toNat] }
  | .vlaneV f => { (srcs [f.a]).dest f.d with sr := [f.b.toNat] }
  | .vlaneS f => { srcs [f.a] with sr := [f.b.toNat], sw := [f.d.toNat] }
  | .vlaneId f => ({} : Uses).dest f.d
  | .vfclass f => (srcs [f.a]).dest f.d
  | .vcvt k f => if k.toNat == 2 || k.toNat == 4 || k.toNat == 6 || k.toNat == 7 then ((srcs [f.a]).dest f.d).alsoReads f.d else (srcs [f.a]).dest f.d
  | .vqblk f _ => { ((srcs [f.a]).dest f.d).alsoReads f.d with sw := pairRegs f.b }
  | .vdqblk f _ => { (srcs [f.a]).dest f.d with sr := pairRegs f.b }
  | .vshfl f => (srcs [f.a, f.b]).dest f.d
  | .vrot f => { (srcs [f.a]).dest f.d with sr := [f.b.toNat] }
  | .vbln f => { (srcs [f.a]).dest f.d with sr := [f.b.toNat] }
  | .vred f => if f.ty == 0 then { srcs [f.a] with sw := [f.d.toNat] } else (srcs [f.a]).dest f.d
  | .vscan f => (srcs [f.a]).dest f.d
  | .vli f => ({} : Uses).dest f.d
  | .vlix _ f _ => ({} : Uses).dest f.d
  | .vld k f => { srcs [f.a] with sr := pairRegs f.b, vw := spanRegs f.d (if k == 5 then 2 else if k == 6 then 4 else 1) }
  | .vst k f => { (srcs [f.a]).reads (spanRegs f.d (if k == 3 then 2 else if k == 4 then 4 else 1)) with sr := pairRegs f.b }
  | .vlds_32 f => { srcs [f.a] with vw := spanRegs f.d 1 }
  | .vlds_64 f => { srcs [f.a] with vw := spanRegs f.d 2 }
  | .vlds_128 f => { srcs [f.a] with vw := spanRegs f.d 4 }
  | .vsts_32 f => (srcs [f.a]).reads (spanRegs f.d 1)
  | .vsts_64 f => (srcs [f.a]).reads (spanRegs f.d 2)
  | .vsts_128 f => (srcs [f.a]).reads (spanRegs f.d 4)
  | .atom k f t => let n := if 2 ≤ f.ty.toNat then 2 else 1
    { (srcs [f.a]).reads (spanRegs (t.extractLsb' 10 6) n ++ (if k == 7 then spanRegs (t.extractLsb' 16 6) n else []))
      with sr := pairRegs f.b, vw := if t.getLsbD 22 then [] else spanRegs f.d n }
  | .atoms k f t => { (srcs [f.a, f.b]).reads (if k == 7 then [(t.extractLsb' 16 6).toNat] else [])
      with vw := if t.getLsbD 22 then [] else [f.d.toNat] }
  | .fatom _ f => { (srcs [f.a]).reads [f.d.toNat] with sr := pairRegs f.b }
  | .mon f => { sr := if f.ty == 0 then pairRegs f.a else [f.a.toNat] }
  | .mwait f => { sr := [f.b.toNat], sw := [f.d.toNat] }
  | .mclr _ => {}
  | .bari f => { sr := [f.b.toNat] }
  | .bara f => { sw := [f.d.toNat] }
  | .barw f => { sr := [f.b.toNat] }
  | .barx f => { sr := [f.b.toNat] }
  | .bred f => { sr := [f.b.toNat], sw := [f.d.toNat] }
  | .barq f => { sw := [f.d.toNat] }
  | .barinv _ => {}
  | .racq f => { sw := [f.d.toNat] }
  | .rrel _ => {}
  | .rqry f => { sw := [f.d.toNat] }
  | .ebeq f t => { (srcs [f.b]).reads (mapRegs t) with sr := pairRegs f.a }
  | .eclm f t => { (srcs [f.b]).writes (mapRegs t ++ [f.d.toNat]) with sr := pairRegs f.a }
  | .edrop f _ => if f.ty == 0 then { (srcs [f.b]).writes [f.d.toNat] with sr := [f.a.toNat] } else { sr := [f.a.toNat], sw := [f.d.toNat] }
  | .eqry f _ => { (srcs [f.b]).writes [f.d.toNat] with sr := [f.a.toNat] }
  | .epin f _ => { (srcs [f.b]).writes [f.d.toNat] with sr := [f.a.toNat] }
  | .phend _ _ => {}
  | .srd f => { sw := [f.d.toNat] }
  | .swr f => { sr := [f.d.toNat] }
  | .cpy f _ => { sr := regsIf (f.ty == 0 || f.ty == 2) f.d ++ regsIf (f.ty == 0 || f.ty == 1) f.a ++ [f.b.toNat] }
  | .cpyt f _ => { sr := [f.d.toNat, f.a.toNat, f.b.toNat] }
  | .cpyg f _ => { sr := [f.d.toNat] ++ pairRegs f.a ++ pairRegs f.b }
  | .cpys f _ => { sr := pairRegs f.d ++ [f.a.toNat] ++ pairRegs f.b }
  | .cpyp f _ => { sr := pairRegs f.d ++ (if f.ty == 1 then [f.d.toNat + 2, f.d.toNat + 3] else []) ++ [f.a.toNat, f.b.toNat] }
  | .cfetch f _ => { sr := [f.a.toNat] }
  | .cpyz f _ => { sr := regsIf (f.ty == 0) f.d ++ [f.b.toNat] }
  | .cpya f _ => { sr := regsIf (f.ty == 0 || f.ty == 2) f.d ++ [f.a.toNat, f.b.toNat] }
  | .colg f _ => { sr := pairRegs f.d ++ pairRegs f.a ++ pairRegs f.b }
  | .cols f _ => { sr := pairRegs f.d ++ pairRegs f.a ++ pairRegs f.b }
  | .colr f _ => { sr := pairRegs f.d ++ pairRegs f.a ++ pairRegs f.b }
  | .colb f _ => { sr := pairRegs f.d ++ pairRegs f.a ++ pairRegs f.b }
  | .qpush f => { sr := [f.a.toNat] }
  | .qld f => { sr := regsIf (f.ty != 2) f.a ++ [f.b.toNat] }
  | .qst f => { sr := regsIf (f.ty != 2) f.a ++ [f.b.toNat] }
  | .qtok f => { sr := [f.a.toNat] }
  | .qwtok f => { sw := [f.d.toNat] }
  | .qdrn _ => {}
  | .qstat f => { sw := [f.d.toNat] }
  | .qaff f t => { sr := regsIf (t.extractLsb' 20 2 != 2) f.a ++ pairRegs f.b }
  | .tidq f => { sr := [f.a.toNat], sw := [f.d.toNat] }
  | .tidld f => { sr := [f.d.toNat] ++ pairRegs f.a }
  | .mloop f _ => { sr := [f.d.toNat] ++ blockRegs f.a 6 }
  | .mloopd f _ => { sr := [f.d.toNat, f.b.toNat] ++ blockRegs f.a 6 }
  | .accz f _ => { sr := [f.a.toNat, f.b.toNat] }
  | .accrd f _ => { ({} : Uses).dest f.d with sr := [f.a.toNat] }
  | .accwr f _ => { srcs [f.b] with sr := [f.a.toNat] }
  | .accdrn f _ => { sr := regsIf (f.ty == 0) f.d ++ [f.a.toNat] ++ regsIf (f.ty == 0) f.b }
  | .awset f _ => { sr := [f.d.toNat, f.a.toNat, f.b.toNat] }
  | .dbind f => { sr := blockRegs f.a 8, sw := [f.d.toNat] }
  | .dref f => { sr := pairRegs f.a, sw := [f.d.toNat] }
  | .dinv f => { sr := if f.ty == 2 then [] else pairRegs f.a, sw := [f.d.toNat] }
  | .dqry f => { sr := pairRegs f.a, sw := [f.d.toNat] }
  | .wpop f => { sw := blockRegs f.d 16 }
  | .wpush f => { sr := blockRegs f.a 16 }
  | .wroom f => { sw := [f.d.toNat] }
  | .gsig f => { sr := [f.a.toNat] }
  | .corp f => (srcs [f.a, f.b]).reads [f.d.toNat]
  | .corf f => { sw := [f.d.toNat] }
  | .xbind f => { sr := [f.a.toNat], sw := blockRegs f.d 3 }
  | .cntrd f => { sr := [f.a.toNat], sw := pairRegs f.d }
  | .watchReport _ _ _ _ _ _ _ => {}
  | .teamSaveDone _ => {}
  | .stepCountExpire _ => {}
  | .launchComplete _ => {}
  | .orderedAddApply _ => {}
  | .rerunRound _ => {}
  | .matrixOpStart _ _ => {}
  | .matrixCommit _ _ => {}
  | .accdrnComplete _ _ => {}
  | .copyComplete _ _ => {}
  | .collectiveCopyStart _ _ => {}
  | .cfetchDone _ _ => {}
  | .segmentLoadDone _ _ => {}
  | .loadReturn _ _ => {}
  | .translationCheckDone _ _ => {}
  | .claimDeliver _ _ => {}
  | .estateMigrateArrive _ _ => {}
  | .paddockResume _ => {}
  | .phaseRecordFetchDone _ => {}
  | .queueEntryFill _ _ _ => {}
  | .popFreezeExpire _ _ => {}
  | .mwaitTimeout _ _ => {}
  | .migrationComplete _ _ => {}
  | .corralEmitResume _ _ => {}
  | .tidldComplete _ _ => {}
  | .gsigApplied _ _ => {}
  | .graphNodeStart _ => {}
  | .graphNodeComplete _ _ _ _ => {}
  | .placeSpan _ => {}
  | .launchPacket _ _ _ => {}
  | .signalPacket _ _ _ => {}
  | .waitPacket _ _ _ => {}
  | .waitPoll _ _ _ => {}
  | .rfPassDone _ => {}
  | .illegalInstruction => {}
  | .pageServiceDone _ _ _ => {}
  | .collectiveComplete _ _ _ => {}
  | .migrationFail _ _ => {}
  | .pageZeroDone _ _ _ => {}
  | .imemError _ _ => {}
  | .timingReplay _ _ => {}
  | .checkRestart _ _ => {}
  | .rfUncorrectable _ _ _ _ => {}
  | .addrSliceCheckFail _ => {}
  | .matrixCheckFail _ _ _ => {}
  | .accRowError _ _ _ => {}
  | .scratchEccError _ _ => {}
  | .hayloftError _ _ _ _ _ => {}
  | .hbmUncorrectable _ => {}
  | .scrubPass => {}
  | .rowSpareStart _ _ _ _ => {}
  | .rowSpareDone _ _ => {}
  | .coreScanStart _ => {}
  | .scanAbort _ => {}
  | .scanDone _ _ => {}
  | .traceSample _ => {}
  | .replayLogRecord _ _ _ _ _ _ => {}
  | .pcntWrite _ _ _ _ => {}
  | .registerWrite _ _ _ => {}
  | .doorbell _ _ _ => {}
  | .ctxCreate _ _ _ => {}
  | .ctxDestroy _ _ => {}
  | .ctxClrerr _ _ _ => {}
  | .debug _ _ _ => {}
  | .tlbInval _ _ _ _ _ _ => {}
  | .tlbInvalDone _ _ => {}
  | .zero _ _ _ => {}
  | .leaseClose _ _ _ => {}
  | .resume _ _ => {}
  | .resumeNext _ _ => {}
  | .step _ _ _ => {}
  | .kill _ _ => {}
  | .killLaunch _ _ => {}
  | .halt _ _ _ _ _ => {}
  | .freezeTimeout _ => {}
  | .residency _ _ _ _ => {}
  | .policy _ _ _ _ _ => {}
  | .session _ _ _ _ => {}
  | .feedCreate _ _ _ _ => {}
  | .feedClose _ _ => {}
  | .queueCreate _ _ _ => {}
  | .queueDestroy _ _ _ => {}
  | .graphUpload _ _ _ => {}
  | .graphFree _ _ => {}
  | .ctxSetCtlw _ _ _ => {}
  | .ctxSetSaveArea _ _ _ _ => {}
  | .ctxSetPhaseArea _ _ _ _ => {}
  | .ctxSetEstateArea _ _ _ _ => {}
  | .trapConsumerWrite _ _ _ => {}
  | .triggerWrite _ _ _ => {}
  | .quantumExpire _ => {}
  | .hintTimeout _ => {}
  | .schedCoreError _ _ => {}
  | .hostWrite _ _ _ => {}
  | .hostRead _ _ _ _ => {}
  | .hostRequestError _ _ => {}
  | .tierLinkDown _ => {}
  | .tierLinkUp _ => {}
  | .tierPoisonReport _ => {}
  | .milcaPortFail _ => {}
  | .peerUnreachable _ => {}
  | .peerRequest _ _ _ _ _ _ => {}
  | .partStart _ => {}
  | .partitionRestart _ => {}
  | .powerLimitSet _ => {}
  | .powerOverLimit => {}
  | .tempThrottle => {}
  | .tempShutdown => {}
  | .getVersion => {}
  | .getCapabilities => {}
  | .negotiateAlgorithms => {}
  | .getDigests => {}
  | .getCertificate => {}
  | .challenge _ => {}
  | .getMeasurements => {}
  | .latchSetWithNoWrite _ => {}
  | .l1Eviction _ _ => {}
  | .hayloftWriteOutDone _ => {}
  | .throttleEnd => {}
  | .powerFail _ _ => {}
  | .peerReachable _ => {}

/-- The length of an instruction in bytes (R37); an event has none. -/
def lenOf (i : Instr) : Nat :=
  match i with
  | .vmov_16 _ => 2
  | .vadd_16 _ => 2
  | .vsub_16 _ => 2
  | .vmul_16 _ => 2
  | .vmin_16 _ => 2
  | .vmax_16 _ => 2
  | .vand_16 _ => 2
  | .vor_16 _ => 2
  | .vxor_16 _ => 2
  | .vshl_16 _ => 2
  | .vshr_16 _ => 2
  | .vfadd_16 _ => 2
  | .vfsub_16 _ => 2
  | .vfmul_16 _ => 2
  | .vfmin_16 _ => 2
  | .vfmax_16 _ => 2
  | .sadd _ => 4
  | .ssub _ => 4
  | .smul _ => 4
  | .smulh _ => 4
  | .sand _ => 4
  | .sor _ => 4
  | .sxor _ => 4
  | .sshl _ => 4
  | .sshr _ => 4
  | .ssra _ => 4
  | .smin _ => 4
  | .smax _ => 4
  | .ssel _ => 4
  | .sbfx _ => 4
  | .sbfi _ => 4
  | .smov _ => 4
  | .saddImm _ => 4
  | .ssubImm _ => 4
  | .smulImm _ => 4
  | .smulhImm _ => 4
  | .sandImm _ => 4
  | .sorImm _ => 4
  | .sxorImm _ => 4
  | .sshlImm _ => 4
  | .scmp _ _ => 4
  | .spopc _ => 4
  | .sclz _ => 4
  | .sffs _ => 4
  | .srev _ => 4
  | .sli _ => 4
  | .slix _ _ _ => 8
  | .sld_32 _ => 4
  | .sld_64 _ => 4
  | .sst_32 _ => 4
  | .sst_64 _ => 4
  | .sldk _ => 4
  | .bra _ => 4
  | .brz _ => 4
  | .brnz _ => 4
  | .call _ => 4
  | .sdbnz _ => 4
  | .bany _ => 4
  | .ball _ => 4
  | .jmpr _ => 4
  | .ret _ => 4
  | .jfnc _ => 4
  | .exit _ => 4
  | .trap _ => 4
  | .bkpt _ => 4
  | .nops _ => 4
  | .vbr _ => 4
  | .vbrn _ => 4
  | .vbrk _ => 4
  | .jtok _ => 4
  | .join _ => 4
  | .waite _ => 4
  | .fence _ => 4
  | .idem _ => 4
  | .phint _ _ _ => 12
  | .vadd _ => 4
  | .vsub _ => 4
  | .vmul _ => 4
  | .vmulh _ => 4
  | .vmin _ => 4
  | .vmax _ => 4
  | .vabs _ => 4
  | .vmad _ => 4
  | .vand _ => 4
  | .vor _ => 4
  | .vxor _ => 4
  | .vshl _ => 4
  | .vshr _ => 4
  | .vsra _ => 4
  | .vpopc _ => 4
  | .vclz _ => 4
  | .vaddImm _ => 4
  | .vsubImm _ => 4
  | .vmulImm _ => 4
  | .vmulhImm _ => 4
  | .vminImm _ => 4
  | .vmaxImm _ => 4
  | .vmadImm _ => 4
  | .vandImm _ => 4
  | .vorImm _ => 4
  | .vxorImm _ => 4
  | .vshlImm _ => 4
  | .vshrImm _ => 4
  | .vsraImm _ => 4
  | .vfadd _ => 4
  | .vfsub _ => 4
  | .vfmul _ => 4
  | .vfma _ => 4
  | .vfmin _ => 4
  | .vfmax _ => 4
  | .vfabs _ => 4
  | .vfneg _ => 4
  | .vcmp _ _ => 4
  | .vrcp _ => 4
  | .vrsq _ => 4
  | .vsqrt _ => 4
  | .vexp2 _ => 4
  | .vlog2 _ => 4
  | .vsin _ => 4
  | .vcos _ => 4
  | .vtanh _ => 4
  | .vmov _ => 4
  | .vsel _ => 4
  | .vbcs _ => 4
  | .vlaneV _ => 4
  | .vlaneS _ => 4
  | .vlaneId _ => 4
  | .vfclass _ => 4
  | .vcvt _ _ => 4
  | .vqblk _ _ => 8
  | .vdqblk _ _ => 8
  | .vshfl _ => 4
  | .vrot _ => 4
  | .vbln _ => 4
  | .vred _ => 4
  | .vscan _ => 4
  | .vli _ => 4
  | .vlix _ _ _ => 8
  | .vld _ _ => 4
  | .vst _ _ => 4
  | .vlds_32 _ => 4
  | .vlds_64 _ => 4
  | .vlds_128 _ => 4
  | .vsts_32 _ => 4
  | .vsts_64 _ => 4
  | .vsts_128 _ => 4
  | .atom _ _ _ => 8
  | .atoms _ _ _ => 8
  | .fatom _ _ => 4
  | .mon _ => 4
  | .mwait _ => 4
  | .mclr _ => 4
  | .bari _ => 4
  | .bara _ => 4
  | .barw _ => 4
  | .barx _ => 4
  | .bred _ => 4
  | .barq _ => 4
  | .barinv _ => 4
  | .racq _ => 4
  | .rrel _ => 4
  | .rqry _ => 4
  | .ebeq _ _ => 8
  | .eclm _ _ => 8
  | .edrop _ _ => 8
  | .eqry _ _ => 8
  | .epin _ _ => 8
  | .phend _ _ => 8
  | .srd _ => 4
  | .swr _ => 4
  | .cpy _ _ => 8
  | .cpyt _ _ => 8
  | .cpyg _ _ => 8
  | .cpys _ _ => 8
  | .cpyp _ _ => 8
  | .cfetch _ _ => 8
  | .cpyz _ _ => 8
  | .cpya _ _ => 8
  | .colg _ _ => 8
  | .cols _ _ => 8
  | .colr _ _ => 8
  | .colb _ _ => 8
  | .qpush _ => 4
  | .qld _ => 4
  | .qst _ => 4
  | .qtok _ => 4
  | .qwtok _ => 4
  | .qdrn _ => 4
  | .qstat _ => 4
  | .qaff _ _ => 8
  | .tidq _ => 4
  | .tidld _ => 4
  | .mloop _ _ => 8
  | .mloopd _ _ => 8
  | .accz _ _ => 8
  | .accrd _ _ => 8
  | .accwr _ _ => 8
  | .accdrn _ _ => 8
  | .awset _ _ => 8
  | .dbind _ => 4
  | .dref _ => 4
  | .dinv _ => 4
  | .dqry _ => 4
  | .wpop _ => 4
  | .wpush _ => 4
  | .wroom _ => 4
  | .gsig _ => 4
  | .corp _ => 4
  | .corf _ => 4
  | .xbind _ => 4
  | .cntrd _ => 4
  | .watchReport _ _ _ _ _ _ _ => 0
  | .teamSaveDone _ => 0
  | .stepCountExpire _ => 0
  | .launchComplete _ => 0
  | .orderedAddApply _ => 0
  | .rerunRound _ => 0
  | .matrixOpStart _ _ => 0
  | .matrixCommit _ _ => 0
  | .accdrnComplete _ _ => 0
  | .copyComplete _ _ => 0
  | .collectiveCopyStart _ _ => 0
  | .cfetchDone _ _ => 0
  | .segmentLoadDone _ _ => 0
  | .loadReturn _ _ => 0
  | .translationCheckDone _ _ => 0
  | .claimDeliver _ _ => 0
  | .estateMigrateArrive _ _ => 0
  | .paddockResume _ => 0
  | .phaseRecordFetchDone _ => 0
  | .queueEntryFill _ _ _ => 0
  | .popFreezeExpire _ _ => 0
  | .mwaitTimeout _ _ => 0
  | .migrationComplete _ _ => 0
  | .corralEmitResume _ _ => 0
  | .tidldComplete _ _ => 0
  | .gsigApplied _ _ => 0
  | .graphNodeStart _ => 0
  | .graphNodeComplete _ _ _ _ => 0
  | .placeSpan _ => 0
  | .launchPacket _ _ _ => 0
  | .signalPacket _ _ _ => 0
  | .waitPacket _ _ _ => 0
  | .waitPoll _ _ _ => 0
  | .rfPassDone _ => 0
  | .illegalInstruction => 0
  | .pageServiceDone _ _ _ => 0
  | .collectiveComplete _ _ _ => 0
  | .migrationFail _ _ => 0
  | .pageZeroDone _ _ _ => 0
  | .imemError _ _ => 0
  | .timingReplay _ _ => 0
  | .checkRestart _ _ => 0
  | .rfUncorrectable _ _ _ _ => 0
  | .addrSliceCheckFail _ => 0
  | .matrixCheckFail _ _ _ => 0
  | .accRowError _ _ _ => 0
  | .scratchEccError _ _ => 0
  | .hayloftError _ _ _ _ _ => 0
  | .hbmUncorrectable _ => 0
  | .scrubPass => 0
  | .rowSpareStart _ _ _ _ => 0
  | .rowSpareDone _ _ => 0
  | .coreScanStart _ => 0
  | .scanAbort _ => 0
  | .scanDone _ _ => 0
  | .traceSample _ => 0
  | .replayLogRecord _ _ _ _ _ _ => 0
  | .pcntWrite _ _ _ _ => 0
  | .registerWrite _ _ _ => 0
  | .doorbell _ _ _ => 0
  | .ctxCreate _ _ _ => 0
  | .ctxDestroy _ _ => 0
  | .ctxClrerr _ _ _ => 0
  | .debug _ _ _ => 0
  | .tlbInval _ _ _ _ _ _ => 0
  | .tlbInvalDone _ _ => 0
  | .zero _ _ _ => 0
  | .leaseClose _ _ _ => 0
  | .resume _ _ => 0
  | .resumeNext _ _ => 0
  | .step _ _ _ => 0
  | .kill _ _ => 0
  | .killLaunch _ _ => 0
  | .halt _ _ _ _ _ => 0
  | .freezeTimeout _ => 0
  | .residency _ _ _ _ => 0
  | .policy _ _ _ _ _ => 0
  | .session _ _ _ _ => 0
  | .feedCreate _ _ _ _ => 0
  | .feedClose _ _ => 0
  | .queueCreate _ _ _ => 0
  | .queueDestroy _ _ _ => 0
  | .graphUpload _ _ _ => 0
  | .graphFree _ _ => 0
  | .ctxSetCtlw _ _ _ => 0
  | .ctxSetSaveArea _ _ _ _ => 0
  | .ctxSetPhaseArea _ _ _ _ => 0
  | .ctxSetEstateArea _ _ _ _ => 0
  | .trapConsumerWrite _ _ _ => 0
  | .triggerWrite _ _ _ => 0
  | .quantumExpire _ => 0
  | .hintTimeout _ => 0
  | .schedCoreError _ _ => 0
  | .hostWrite _ _ _ => 0
  | .hostRead _ _ _ _ => 0
  | .hostRequestError _ _ => 0
  | .tierLinkDown _ => 0
  | .tierLinkUp _ => 0
  | .tierPoisonReport _ => 0
  | .milcaPortFail _ => 0
  | .peerUnreachable _ => 0
  | .peerRequest _ _ _ _ _ _ => 0
  | .partStart _ => 0
  | .partitionRestart _ => 0
  | .powerLimitSet _ => 0
  | .powerOverLimit => 0
  | .tempThrottle => 0
  | .tempShutdown => 0
  | .getVersion => 0
  | .getCapabilities => 0
  | .negotiateAlgorithms => 0
  | .getDigests => 0
  | .getCertificate => 0
  | .challenge _ => 0
  | .getMeasurements => 0
  | .latchSetWithNoWrite _ => 0
  | .l1Eviction _ _ => 0
  | .hayloftWriteOutDone _ => 0
  | .throttleEnd => 0
  | .powerFail _ _ => 0
  | .peerReachable _ => 0

/-! ### Slices (R321) -/

/-- Which slice of a two-slice group may issue an instruction. -/
inductive Issuer where
  | compute | address | both
  deriving DecidableEq, Repr

def issuerOf (i : Instr) : Issuer :=
  match i with
  | .vmov_16 _ => .compute
  | .vadd_16 _ => .compute
  | .vsub_16 _ => .compute
  | .vmul_16 _ => .compute
  | .vmin_16 _ => .compute
  | .vmax_16 _ => .compute
  | .vand_16 _ => .compute
  | .vor_16 _ => .compute
  | .vxor_16 _ => .compute
  | .vshl_16 _ => .compute
  | .vshr_16 _ => .compute
  | .vfadd_16 _ => .compute
  | .vfsub_16 _ => .compute
  | .vfmul_16 _ => .compute
  | .vfmin_16 _ => .compute
  | .vfmax_16 _ => .compute
  | .sadd _ => .both
  | .ssub _ => .both
  | .smul _ => .both
  | .smulh _ => .both
  | .sand _ => .both
  | .sor _ => .both
  | .sxor _ => .both
  | .sshl _ => .both
  | .sshr _ => .both
  | .ssra _ => .both
  | .smin _ => .both
  | .smax _ => .both
  | .ssel _ => .both
  | .sbfx _ => .both
  | .sbfi _ => .both
  | .smov _ => .both
  | .saddImm _ => .both
  | .ssubImm _ => .both
  | .smulImm _ => .both
  | .smulhImm _ => .both
  | .sandImm _ => .both
  | .sorImm _ => .both
  | .sxorImm _ => .both
  | .sshlImm _ => .both
  | .scmp _ _ => .both
  | .spopc _ => .both
  | .sclz _ => .both
  | .sffs _ => .both
  | .srev _ => .both
  | .sli _ => .both
  | .slix _ _ _ => .both
  | .sld_32 _ => .both
  | .sld_64 _ => .both
  | .sst_32 _ => .both
  | .sst_64 _ => .both
  | .sldk _ => .both
  | .bra _ => .both
  | .brz _ => .both
  | .brnz _ => .both
  | .call _ => .both
  | .sdbnz _ => .both
  | .bany _ => .compute
  | .ball _ => .compute
  | .jmpr _ => .compute
  | .ret _ => .compute
  | .jfnc _ => .compute
  | .exit _ => .both
  | .trap _ => .compute
  | .bkpt _ => .compute
  | .nops _ => .compute
  | .vbr _ => .compute
  | .vbrn _ => .compute
  | .vbrk _ => .compute
  | .jtok _ => .compute
  | .join _ => .compute
  | .waite _ => .both
  | .fence _ => .both
  | .idem _ => .compute
  | .phint _ _ _ => .compute
  | .vadd _ => .compute
  | .vsub _ => .compute
  | .vmul _ => .compute
  | .vmulh _ => .compute
  | .vmin _ => .compute
  | .vmax _ => .compute
  | .vabs _ => .compute
  | .vmad _ => .compute
  | .vand _ => .compute
  | .vor _ => .compute
  | .vxor _ => .compute
  | .vshl _ => .compute
  | .vshr _ => .compute
  | .vsra _ => .compute
  | .vpopc _ => .compute
  | .vclz _ => .compute
  | .vaddImm _ => .compute
  | .vsubImm _ => .compute
  | .vmulImm _ => .compute
  | .vmulhImm _ => .compute
  | .vminImm _ => .compute
  | .vmaxImm _ => .compute
  | .vmadImm _ => .compute
  | .vandImm _ => .compute
  | .vorImm _ => .compute
  | .vxorImm _ => .compute
  | .vshlImm _ => .compute
  | .vshrImm _ => .compute
  | .vsraImm _ => .compute
  | .vfadd _ => .compute
  | .vfsub _ => .compute
  | .vfmul _ => .compute
  | .vfma _ => .compute
  | .vfmin _ => .compute
  | .vfmax _ => .compute
  | .vfabs _ => .compute
  | .vfneg _ => .compute
  | .vcmp _ _ => .compute
  | .vrcp _ => .compute
  | .vrsq _ => .compute
  | .vsqrt _ => .compute
  | .vexp2 _ => .compute
  | .vlog2 _ => .compute
  | .vsin _ => .compute
  | .vcos _ => .compute
  | .vtanh _ => .compute
  | .vmov _ => .compute
  | .vsel _ => .compute
  | .vbcs _ => .compute
  | .vlaneV _ => .compute
  | .vlaneS _ => .compute
  | .vlaneId _ => .compute
  | .vfclass _ => .compute
  | .vcvt _ _ => .compute
  | .vqblk _ _ => .compute
  | .vdqblk _ _ => .compute
  | .vshfl _ => .compute
  | .vrot _ => .compute
  | .vbln _ => .compute
  | .vred _ => .compute
  | .vscan _ => .compute
  | .vli _ => .compute
  | .vlix _ _ _ => .compute
  | .vld _ _ => .compute
  | .vst _ _ => .compute
  | .vlds_32 _ => .compute
  | .vlds_64 _ => .compute
  | .vlds_128 _ => .compute
  | .vsts_32 _ => .compute
  | .vsts_64 _ => .compute
  | .vsts_128 _ => .compute
  | .atom _ _ _ => .compute
  | .atoms _ _ _ => .compute
  | .fatom _ _ => .compute
  | .mon _ => .compute
  | .mwait _ => .compute
  | .mclr _ => .compute
  | .bari _ => .compute
  | .bara _ => .compute
  | .barw _ => .compute
  | .barx _ => .compute
  | .bred _ => .compute
  | .barq _ => .compute
  | .barinv _ => .compute
  | .racq _ => .compute
  | .rrel _ => .compute
  | .rqry _ => .compute
  | .ebeq _ _ => .compute
  | .eclm _ _ => .compute
  | .edrop _ _ => .compute
  | .eqry _ _ => .compute
  | .epin _ _ => .compute
  | .phend _ _ => .compute
  | .srd _ => .both
  | .swr _ => .compute
  | .cpy _ _ => .both
  | .cpyt _ _ => .both
  | .cpyg _ _ => .both
  | .cpys _ _ => .both
  | .cpyp _ _ => .both
  | .cfetch _ _ => .both
  | .cpyz _ _ => .both
  | .cpya _ _ => .both
  | .colg _ _ => .both
  | .cols _ _ => .both
  | .colr _ _ => .both
  | .colb _ _ => .both
  | .qpush _ => .both
  | .qld _ => .address
  | .qst _ => .address
  | .qtok _ => .compute
  | .qwtok _ => .address
  | .qdrn _ => .both
  | .qstat _ => .both
  | .qaff _ _ => .address
  | .tidq _ => .both
  | .tidld _ => .compute
  | .mloop _ _ => .compute
  | .mloopd _ _ => .compute
  | .accz _ _ => .compute
  | .accrd _ _ => .compute
  | .accwr _ _ => .compute
  | .accdrn _ _ => .compute
  | .awset _ _ => .compute
  | .dbind _ => .both
  | .dref _ => .compute
  | .dinv _ => .compute
  | .dqry _ => .compute
  | .wpop _ => .both
  | .wpush _ => .compute
  | .wroom _ => .compute
  | .gsig _ => .compute
  | .corp _ => .compute
  | .corf _ => .compute
  | .xbind _ => .both
  | .cntrd _ => .compute
  | .watchReport _ _ _ _ _ _ _ => .compute
  | .teamSaveDone _ => .compute
  | .stepCountExpire _ => .compute
  | .launchComplete _ => .compute
  | .orderedAddApply _ => .compute
  | .rerunRound _ => .compute
  | .matrixOpStart _ _ => .compute
  | .matrixCommit _ _ => .compute
  | .accdrnComplete _ _ => .compute
  | .copyComplete _ _ => .compute
  | .collectiveCopyStart _ _ => .compute
  | .cfetchDone _ _ => .compute
  | .segmentLoadDone _ _ => .compute
  | .loadReturn _ _ => .compute
  | .translationCheckDone _ _ => .compute
  | .claimDeliver _ _ => .compute
  | .estateMigrateArrive _ _ => .compute
  | .paddockResume _ => .compute
  | .phaseRecordFetchDone _ => .compute
  | .queueEntryFill _ _ _ => .compute
  | .popFreezeExpire _ _ => .compute
  | .mwaitTimeout _ _ => .compute
  | .migrationComplete _ _ => .compute
  | .corralEmitResume _ _ => .compute
  | .tidldComplete _ _ => .compute
  | .gsigApplied _ _ => .compute
  | .graphNodeStart _ => .compute
  | .graphNodeComplete _ _ _ _ => .compute
  | .placeSpan _ => .compute
  | .launchPacket _ _ _ => .compute
  | .signalPacket _ _ _ => .compute
  | .waitPacket _ _ _ => .compute
  | .waitPoll _ _ _ => .compute
  | .rfPassDone _ => .compute
  | .illegalInstruction => .compute
  | .pageServiceDone _ _ _ => .compute
  | .collectiveComplete _ _ _ => .compute
  | .migrationFail _ _ => .compute
  | .pageZeroDone _ _ _ => .compute
  | .imemError _ _ => .compute
  | .timingReplay _ _ => .compute
  | .checkRestart _ _ => .compute
  | .rfUncorrectable _ _ _ _ => .compute
  | .addrSliceCheckFail _ => .compute
  | .matrixCheckFail _ _ _ => .compute
  | .accRowError _ _ _ => .compute
  | .scratchEccError _ _ => .compute
  | .hayloftError _ _ _ _ _ => .compute
  | .hbmUncorrectable _ => .compute
  | .scrubPass => .compute
  | .rowSpareStart _ _ _ _ => .compute
  | .rowSpareDone _ _ => .compute
  | .coreScanStart _ => .compute
  | .scanAbort _ => .compute
  | .scanDone _ _ => .compute
  | .traceSample _ => .compute
  | .replayLogRecord _ _ _ _ _ _ => .compute
  | .pcntWrite _ _ _ _ => .compute
  | .registerWrite _ _ _ => .compute
  | .doorbell _ _ _ => .compute
  | .ctxCreate _ _ _ => .compute
  | .ctxDestroy _ _ => .compute
  | .ctxClrerr _ _ _ => .compute
  | .debug _ _ _ => .compute
  | .tlbInval _ _ _ _ _ _ => .compute
  | .tlbInvalDone _ _ => .compute
  | .zero _ _ _ => .compute
  | .leaseClose _ _ _ => .compute
  | .resume _ _ => .compute
  | .resumeNext _ _ => .compute
  | .step _ _ _ => .compute
  | .kill _ _ => .compute
  | .killLaunch _ _ => .compute
  | .halt _ _ _ _ _ => .compute
  | .freezeTimeout _ => .compute
  | .residency _ _ _ _ => .compute
  | .policy _ _ _ _ _ => .compute
  | .session _ _ _ _ => .compute
  | .feedCreate _ _ _ _ => .compute
  | .feedClose _ _ => .compute
  | .queueCreate _ _ _ => .compute
  | .queueDestroy _ _ _ => .compute
  | .graphUpload _ _ _ => .compute
  | .graphFree _ _ => .compute
  | .ctxSetCtlw _ _ _ => .compute
  | .ctxSetSaveArea _ _ _ _ => .compute
  | .ctxSetPhaseArea _ _ _ _ => .compute
  | .ctxSetEstateArea _ _ _ _ => .compute
  | .trapConsumerWrite _ _ _ => .compute
  | .triggerWrite _ _ _ => .compute
  | .quantumExpire _ => .compute
  | .hintTimeout _ => .compute
  | .schedCoreError _ _ => .compute
  | .hostWrite _ _ _ => .compute
  | .hostRead _ _ _ _ => .compute
  | .hostRequestError _ _ => .compute
  | .tierLinkDown _ => .compute
  | .tierLinkUp _ => .compute
  | .tierPoisonReport _ => .compute
  | .milcaPortFail _ => .compute
  | .peerUnreachable _ => .compute
  | .peerRequest _ _ _ _ _ _ => .compute
  | .partStart _ => .compute
  | .partitionRestart _ => .compute
  | .powerLimitSet _ => .compute
  | .powerOverLimit => .compute
  | .tempThrottle => .compute
  | .tempShutdown => .compute
  | .getVersion => .compute
  | .getCapabilities => .compute
  | .negotiateAlgorithms => .compute
  | .getDigests => .compute
  | .getCertificate => .compute
  | .challenge _ => .compute
  | .getMeasurements => .compute
  | .latchSetWithNoWrite _ => .compute
  | .l1Eviction _ _ => .compute
  | .hayloftWriteOutDone _ => .compute
  | .throttleEnd => .compute
  | .powerFail _ _ => .compute
  | .peerReachable _ => .compute

/-- Majors 0x32 and 0x33. -/
def queueMajor (i : Instr) : Bool :=
  match i with
  | .qpush _ => true
  | .qld _ => true
  | .qst _ => true
  | .qtok _ => true
  | .qwtok _ => true
  | .qdrn _ => true
  | .qstat _ => true
  | .qaff _ _ => true
  | _ => false

/-- The instruction performs Trap(QUSE) at its issue, by the slice that issues it and the registers it names (R106,
R321). -/
def wrongSlice (g : Group) (st : Stream) (i : Instr) : Bool :=
  let u := usesOf i
  match st with
  | .aslice => issuerOf i == .compute || (u.sr ++ u.sw).any fun r => decide (32 ≤ r)
  | .split _ =>
    if g.aslice.isSome then issuerOf i == .address
    else queueMajor i || !u.pops.isEmpty || u.push.isSome

/-! ### Hazards (R50, R52) -/

/-- The scalar registers that the instruction a stream waits at will write when its wait ends. -/
def waitRegs : Option Wait → List Nat
  | some (.racq _ d) | some (.bred _ _ _ d) | some (.mwait _ d) | some (.corf _ _ d) => [d.toNat]
  | some (.wpop _ d) => blockRegs d 16
  | some (.woken ws) => ws.map (·.1)
  | _ => []

/-- A result that has not arrived will write scalar register `r` of the stream's file: a pending one, one of a stated
latency, or that of an instruction at which another stream waits (R50). -/
def pendsS (g : Group) (st : Stream) (r : Nat) : Bool :=
  r != 0
    && ((g.pend.any fun p => p.writes.any fun w => hitsS w st r) || (g.fly.any fun f => f.lock && hitsS f.w st r)
      || g.splits.any (fun e => Stream.split e.1 != st && sameBank (.split e.1) st r && has (waitRegs e.2.wait) r))

/-- A pending result or claim will write vector register `k`. -/
def pendsV (g : Group) (k : Nat) : Bool :=
  (g.pend.any fun p => p.writes.any fun w => w.isV && w.reg == k)
    || g.claims.any fun c => !has c.lost k && (has c.regs k || c.vs == k)

/-- An interlocked operand or destination has not arrived (R50). -/
def interlocked (g : Group) (st : Stream) (u : Uses) : Bool :=
  (u.sr ++ u.sw).any (pendsS g st) || (u.vr ++ u.vw).any (pendsV g)

/-- The instruction acts by Active(g): the lane instructions but VLANE to a scalar, which happens once for the split, and the
branches on lane masks (R72, R87, R93, R95). -/
def usesActive (i : Instr) : Bool :=
  match i with
  | .vlaneS _ => false
  | .vbr _ | .vbrn _ | .vbrk _ | .bany _ | .ball _ => true
  | i => let u := usesOf i; !u.vr.isEmpty || !u.vw.isEmpty || !u.pops.isEmpty || u.push.isSome

/-- What an instruction names, and the activity mask that it reads with Active(g): s61 to s63 (R71, R72). -/
def namedOf (i : Instr) : Uses :=
  let u := usesOf i
  { u with sr := u.sr ++ if usesActive i then [61, 62, 63] else [] }

/-- What an instruction reads at its issue. PHEND reads what its phase record holds (R204). -/
def readsOf (i : Instr) : Uses :=
  match i with
  | .phend f _ => { sr := (List.range 60).map (· + 1), vr := List.range f.b.toNat }
  | i => namedOf i

/-- The instruction would read a fixed-latency result that has not been written (R52). DESIGN CHOICE: the scoreboard knows whole
registers: a result in flight in any lane of a vector register counts; the manual gives no granularity (log 50). -/
def readsEarly (g : Group) (st : Stream) (u : Uses) : Bool :=
  g.fly.any fun f =>
    if f.w.isV then has u.vr f.w.reg && f.w.mask != 0 else !f.lock && u.sr.any fun r => r != 0 && hitsS f.w st r

/-- The checking scoreboard is on for a group (R52). -/
def scores (s : State) (g : Group) : Bool := (ctx s (ctxOf s g)).dbgw.getLsbD 0

/-- A register field names a register that the group does not hold (R124). -/
def overReach (g : Group) (u : Uses) : Bool := (u.vr ++ u.vw).any fun k => decide (topReg g ≤ k)

/-- The store-data queue pushed is full (R330). -/
def pushBlocked (g : Group) (st : Stream) (u : Uses) : Bool :=
  match u.push with
  | some k => active g st != 0 && decide (8 ≤ (stQ g k).length)
  | none => false

/-- EBEQ checks its namespace before the registers it names (R209). -/
def checksLate (i : Instr) : Bool :=
  match i with
  | .ebeq _ _ => true
  | _ => false

/-- What every instruction checks before it has any effect: the slice, the registers it names, interlocks, the
checking scoreboard and room in the queue it pushes; then `f` is its effect. DESIGN CHOICE: the manual does not say
which trap an instruction takes that is in the wrong slice and names a register beyond the blocks as well; here it is
QUSE (log 14). -/
def guarded (s : State) (i : Instr) (f : State → State) : State :=
  let g := me s
  let st := s.who.2
  let u := usesOf i
  if wrongSlice g st i then trapC s .quse
  else if overReach g u && !checksLate i then trapC s .rfover
  else if interlocked g st (namedOf i) then block s .retry
  else if scores s g && readsEarly g st (readsOf i) then trapC s .scount
  else if pushBlocked g st u then block s .retry
  else f s

/-! ### Sources and pops (R127, R131, R328) -/

/-- What the source fields give: their lane values and the lanes whose entries are poisoned, or a state in which the
instruction has trapped or waits. -/
inductive Sources where
  | stop (s : State)
  | go (a b : Nat → Word) (bad : Lanes)

/-- The lane values of an entry; zero for a poisoned lane. -/
def entryVal (e : QEntry) (i : Nat) : Word := if e.poison.getLsbD i then 0 else cellGet e.vals i

/-- Looks at the entry that the `nth` pop of queue k by this instruction would take; `n` entries of any queue are popped
by it before (R328, R338). -/
def peekQ (s : State) (k nth n : Nat) (lanes : Lanes) (f : QEntry → Sources) : Sources :=
  let g := me s
  let es := unpopped (opQ g k)
  let held := (opQ g k).length - es.length + (if g.idem then nth else 0)
  let all := heldCount g + (if g.idem then n else 0)
  match es[nth]? with
  | none =>
    if (slice g).exited && !streaming g k then .stop (trapC s .quse)
    else if decide (8 ≤ held) || (decide (0 < all) && decide (g.slip.toNat ≤ all)) then .stop (trapC s .quse)
    else .stop (block s .pop)
  | some e =>
    if e.pending then .stop (block s .pop)
    else
      match e.faults.find? fun x => lanes.getLsbD x.1 with
      | some x => .stop (trap s { x.2 with lane := some x.1, entry := some (k, e.id) })
      | none => f e

/-- One vector source field with a nonempty Active(g): a register, or the head of a queue. -/
def source (s : State) (r : Reg) (nth n : Nat) (lanes : Lanes) (f : (Nat → Word) → Lanes → Sources) : Sources :=
  if r.toNat < 60 then f (readV (me s) r.toNat) 0
  else peekQ s (r.toNat - 60) nth n lanes fun e => f (entryVal e) (e.poison &&& lanes)

/-- The vector sources A and B of an instruction; an empty Active(g) pops nothing and reads queues as zero. -/
def sources (s : State) (a b : Option Reg) : Sources :=
  let act := active (me s) s.who.2
  if act = 0 then
    let reg := fun (r : Option Reg) => match r with
      | some r => if r.toNat < 60 then readV (me s) r.toNat else fun _ => 0
      | none => fun _ => 0
    .go (reg a) (reg b) 0
  else
    match a, b with
    | none, none => .go (fun _ => 0) (fun _ => 0) 0
    | some a, none => source s a 0 0 act fun fa bad => .go fa (fun _ => 0) bad
    | none, some b => source s b 0 0 act fun fb bad => .go (fun _ => 0) fb bad
    | some a, some b =>
      source s a 0 0 act fun fa bad =>
        source s b (if a = b then 1 else 0) (if 60 ≤ a.toNat then 1 else 0) act fun fb bad' => .go fa fb (bad ||| bad')

/-- Removes the head of queue k, or holds it after an IDEM (R328, R338). -/
def popHead (s : State) (k : Nat) : State :=
  updMe s fun g =>
    let es := opQ g k
    let held := es.takeWhile fun e => e.held
    match es.drop held.length with
    | [] => g
    | e :: rest => setOpQ g k (if g.idem then held ++ { e with held := true } :: rest else held ++ rest)

/-- Performs the pops of an instruction with a nonempty Active(g), and the deaths of poisoned lanes. -/
def takePops (s : State) (u : Uses) (act bad : Lanes) : State :=
  if act = 0 then s else laneDeath (u.pops.foldl popHead s) s.who.1 bad 2

/-- A lane instruction with sources A and B: `eff` gets the lanes that take part and the lane values, and leaves the
program counter to this operation. -/
def laneOp (s : State) (i : Instr) (a b : Option Reg) (eff : State → Lanes → (Nat → Word) → (Nat → Word) → State) : State :=
  guarded s i fun s =>
    match sources s a b with
    | .stop s => s
    | .go fa fb bad =>
      let act := active (me s) s.who.2
      takePops (advance (eff s (act &&& ~~~ bad) fa fb) (lenOf i)) (usesOf i) act bad

/-- How an instruction's effect ends: done, and the stream goes on, with lanes that read poison and die; or stopped,
having trapped or having to wait. -/
inductive Eff where
  | done (s : State) (dead : Lanes := 0)
  | stop (s : State)

/-- As `laneOp`, for an effect that may trap or wait: then nothing is popped and the program counter stays. -/
def laneTry (s : State) (i : Instr) (a b : Option Reg) (eff : State → Lanes → (Nat → Word) → (Nat → Word) → Eff) : State :=
  guarded s i fun s =>
    match sources s a b with
    | .stop s => s
    | .go fa fb bad =>
      let act := active (me s) s.who.2
      match eff s (act &&& ~~~ bad) fa fb with
      | .stop s => s
      | .done s dead => takePops (advance s (lenOf i)) (usesOf i) act (bad ||| dead)

/-- As `plainOp`, for an effect that may trap or wait. -/
def plainTry (s : State) (i : Instr) (eff : State → Eff) : State :=
  guarded s i fun s =>
    match eff s with
    | .done s dead => laneDeath (advance s (lenOf i)) s.who.1 dead 2
    | .stop s => s

/-- Pushes the results of Active(g) to a store-data queue; filled `lat` cycles on. A lane whose source is poisoned keeps its
valid bit (R330). -/
def pushStore (s : State) (k : Nat) (f : Nat → Word) (lat : Nat) : State :=
  let act := active (me s) s.who.2
  if act = 0 then s
  else
    let (id, s) := freshId s
    updMe s fun g => setStQ g k (stQ g k ++ [{ id := id, vals := pack act f, mask := act, due := nowOf s g + lat }])

/-- A lane result of latency `lat`: to vD in the lanes that take part, or to a store-data queue (R42, R48, R128). -/
def laneResult (s : State) (d : Reg) (lanes : Lanes) (f : Nat → Word) (lat : Nat) : State :=
  if d.toNat < 60 then flyV s d.toNat lanes f lat else pushStore s (d.toNat - 60) f lat

/-- A scalar result of latency `lat` (R48). -/
def scalResult (s : State) (d : Nat) (v : Word) (lat : Nat) : State := flyS s s.who.2 d v lat

/-- A scalar result of one register, or of a pair where it is 64 bits wide (R102). -/
def wideResult (s : State) (wide : Bool) (d : Nat) (v : Addr) (lat : Nat) : State :=
  if wide then scalResult (scalResult s d (v.extractLsb' 0 32) lat) (d + 1) (v.extractLsb' 32 32) lat
  else scalResult s d (v.extractLsb' 0 32) lat

/-- An instruction with scalar operands only: its effect, then the following instruction. -/
def plainOp (s : State) (i : Instr) (eff : State → State) : State := guarded s i fun s => advance (eff s) (lenOf i)

/-! ### Scalar operands -/

def sget (s : State) (r : Reg) : Word := readS (me s) s.who.2 r.toNat
def pget (s : State) (r : Reg) : Addr := readPair (me s) s.who.2 r.toNat
def tget (s : State) (r : Reg) : Lanes := readTriple (me s) s.who.2 r.toNat

/-- A w-bit scalar operand of majors 0x00 to 0x04, zero-extended to 64 bits. -/
def wget (s : State) (f : Head) (r : Reg) : Addr := if 2 ≤ f.ty.toNat then pget s r else (sget s r).setWidth 64

/-- imm6 sign-extended (R40). -/
def imm6 (r : Reg) : Addr := r.signExtend 64

/-! ### Stochastic counts (R164) -/

/-- The stochastic context of the instruction that issues. -/
def stochOf (s : State) : Stoch :=
  let g := me s
  { seed := g.seed, lin := linOf s g, gix := g.gix, pc := pcOf g s.who.2
    n := if g.repro.getLsbD 0 then g.count else (quad (core s (coreOf s g)) g.quad).count }

/-- Both counts advance by one after an instruction with stochastic rounding. -/
def countStoch (s : State) (yes : Bool) : State :=
  if yes then
    let g := me s
    updQuad (updMe s fun g => { g with count := g.count + 1 }) (coreOf s g) g.quad fun q => { q with count := q.count + 1 }
  else s

end Sys2Proof.Machine
end

