-- ==== Sys2Proof/Machine/Flags.lean ====
section
/-! DEFINITION. The VJ-9 has no flags; every condition is a value or a mask. The conditions of SCMP, VCMP and the
branches (R87, R109, R174). -/

namespace Sys2Proof.Machine
open Sys2Proof

/-- The conditions eq, ne, lt, le, gt, ge and bt on w-bit values (R109): MIN 0 to 6. -/
def intCond {w : Nat} (k : Nat) (signed : Bool) (a b : BitVec w) : Bool :=
  let lt := fun (x y : BitVec w) => if signed then x.slt y else x.ult y
  match k with
  | 0 => a == b
  | 1 => a != b
  | 2 => lt a b
  | 3 => !lt b a
  | 4 => lt b a
  | 5 => !lt a b
  | _ => a &&& b != 0

/-- The conditions of a floating comparison: −0 equals +0, and a NaN makes all but ne and uo false (R174). -/
def floatCond (f : Fmt) (k a b : Nat) : Bool :=
  let uo := isNan f a || isNan f b
  let x := cmpKey f a
  let y := cmpKey f b
  match k with
  | 0 => !uo && x == y
  | 1 => uo || x != y
  | 2 => !uo && decide (x < y)
  | 3 => !uo && decide (x ≤ y)
  | 4 => !uo && decide (y < x)
  | 5 => !uo && decide (y ≤ x)
  | _ => uo

/-- Cond(MIN, TY, a, b) of VCMP (R174). -/
def vcmpCond (k ty : Nat) (a b : Word) : Bool :=
  if k = 7 then (if ty = 3 then (a &&& b).extractLsb' 0 16 != 0 else a &&& b != 0)
  else
    match ty with
    | 0 => intCond k true a b
    | 1 => intCond k false a b
    | 2 => floatCond fp32 k a.toNat b.toNat
    | _ => floatCond fp16 k (a.toNat % 65536) (b.toNat % 65536)

/-- Bits of a condition triple within the active lanes (R87, R93). -/
def anyLane (act t : Lanes) : Bool := act &&& t != 0
def allLanes (act t : Lanes) : Bool := act &&& ~~~ t == 0

end Sys2Proof.Machine
end

