-- ==== Sys2Proof/Machine/Scalar.lean ====
section
/-! DEFINITION. Scalar arithmetic: majors 0x00 to 0x06 (R107 to R112). -/

namespace Sys2Proof.Machine
open Sys2Proof

/-! ### The operations on w bits (R107): signedness, a, b, d -/

/-- sh, pos: b[5:0]. -/
def lowSix {w : Nat} (b : BitVec w) : Nat := b.toNat % 64

/-- len: b[12:6]. -/
def lenField {w : Nat} (b : BitVec w) : Nat := b.toNat / 64 % 128

def sAdd {w : Nat} (_ : Bool) (a b _d : BitVec w) : BitVec w := a + b
def sSub {w : Nat} (_ : Bool) (a b _d : BitVec w) : BitVec w := a - b
def sMul {w : Nat} (_ : Bool) (a b _d : BitVec w) : BitVec w := a * b

/-- The high w bits of the exact 2w-bit product. -/
def sMulh {w : Nat} (signed : Bool) (a b _d : BitVec w) : BitVec w :=
  if signed then BitVec.ofInt w (a.toInt * b.toInt / 2 ^ w) else BitVec.ofNat w (a.toNat * b.toNat / 2 ^ w)

def sAnd {w : Nat} (_ : Bool) (a b _d : BitVec w) : BitVec w := a &&& b
def sOr {w : Nat} (_ : Bool) (a b _d : BitVec w) : BitVec w := a ||| b
def sXor {w : Nat} (_ : Bool) (a b _d : BitVec w) : BitVec w := a ^^^ b
def sShl {w : Nat} (_ : Bool) (a b _d : BitVec w) : BitVec w := if w ≤ lowSix b then 0 else a <<< lowSix b
def sShr {w : Nat} (_ : Bool) (a b _d : BitVec w) : BitVec w := if w ≤ lowSix b then 0 else a >>> lowSix b
def sSra {w : Nat} (_ : Bool) (a b _d : BitVec w) : BitVec w := a.sshiftRight (lowSix b)

def sMin {w : Nat} (signed : Bool) (a b _d : BitVec w) : BitVec w :=
  if (if signed then b.slt a else b.ult a) then b else a

def sMax {w : Nat} (signed : Bool) (a b _d : BitVec w) : BitVec w :=
  if (if signed then a.slt b else a.ult b) then b else a

def sSel {w : Nat} (_ : Bool) (a b d : BitVec w) : BitVec w := if d = 0 then b else a

/-- A field of `n` bits at `pos`, cut at w. -/
def sBfx {w : Nat} (signed : Bool) (a b _d : BitVec w) : BitVec w :=
  let pos := lowSix b
  let n := Nat.min (pos + lenField b) w - pos
  let f := (a >>> pos) &&& BitVec.ofNat w (2 ^ n - 1)
  if signed && decide (0 < n) && f.getLsbD (n - 1) then f ||| ~~~ BitVec.ofNat w (2 ^ n - 1) else f

def sBfi {w : Nat} (_ : Bool) (a b d : BitVec w) : BitVec w :=
  let pos := lowSix b
  let n := Nat.min (pos + lenField b) w - pos
  let m := BitVec.ofNat w ((2 ^ n - 1) * 2 ^ pos)
  (d &&& ~~~ m) ||| ((a <<< pos) &&& m)

def sMov {w : Nat} (_ : Bool) (a _b _d : BitVec w) : BitVec w := a

/-- Number of set bits. -/
def popCount {w : Nat} (a : BitVec w) : Nat := ((List.range w).filter fun i => a.getLsbD i).length

/-- Zero bits above the highest set bit; w for zero. -/
def clz {w : Nat} (a : BitVec w) : Nat := if a = 0 then w else w - 1 - a.toNat.log2

/-- Index of the lowest set bit; w for zero. -/
def ffs {w : Nat} (a : BitVec w) : Nat := ((List.range w).find? fun i => a.getLsbD i).getD w

/-! ### The shape of an instruction of majors 0x00 to 0x02 -/

/-- A w-bit operation on s[A], s[B] or imm6, and s[D], written to s[D] (R107). -/
def scalarOp (s : State) (i : Instr) (f : Head) (imm : Bool) (lat : Nat)
    (op : {w : Nat} → Bool → BitVec w → BitVec w → BitVec w → BitVec w) : State :=
  plainOp s i fun s =>
    let a := wget s f f.a
    let b := if imm then imm6 f.b else wget s f f.b
    let d := wget s f f.d
    let signed := f.ty == 0 || f.ty == 2
    if 2 ≤ f.ty.toNat then wideResult s true f.d.toNat (op signed a b d) lat
    else scalResult s f.d.toNat (op signed (a.setWidth 32) (b.setWidth 32) (d.setWidth 32)) lat

/-- A count of the w bits of s[A], written to one register (R110). -/
def countOp (s : State) (i : Instr) (f : Head) (op : {w : Nat} → BitVec w → Nat) : State :=
  plainOp s i fun s =>
    let a := wget s f f.a
    scalResult s f.d.toNat (BitVec.ofNat 32 (if 2 ≤ f.ty.toNat then op a else op (a.setWidth 32))) 1

/-! ### The instructions -/

/-- SADD (R107). -/
def execSadd (f : Head) (s : State) : Out := .next (scalarOp s (.sadd f) f false 1 sAdd)

/-- SSUB (R107). -/
def execSsub (f : Head) (s : State) : Out := .next (scalarOp s (.ssub f) f false 1 sSub)

/-- SMUL (R107). -/
def execSmul (f : Head) (s : State) : Out := .next (scalarOp s (.smul f) f false 3 sMul)

/-- SMULH (R107). -/
def execSmulh (f : Head) (s : State) : Out := .next (scalarOp s (.smulh f) f false 3 sMulh)

/-- SAND (R107). -/
def execSand (f : Head) (s : State) : Out := .next (scalarOp s (.sand f) f false 1 sAnd)

/-- SOR (R107). -/
def execSor (f : Head) (s : State) : Out := .next (scalarOp s (.sor f) f false 1 sOr)

/-- SXOR (R107). -/
def execSxor (f : Head) (s : State) : Out := .next (scalarOp s (.sxor f) f false 1 sXor)

/-- SSHL (R107). -/
def execSshl (f : Head) (s : State) : Out := .next (scalarOp s (.sshl f) f false 1 sShl)

/-- SSHR (R107). -/
def execSshr (f : Head) (s : State) : Out := .next (scalarOp s (.sshr f) f false 1 sShr)

/-- SSRA (R107). -/
def execSsra (f : Head) (s : State) : Out := .next (scalarOp s (.ssra f) f false 1 sSra)

/-- SMIN (R107). -/
def execSmin (f : Head) (s : State) : Out := .next (scalarOp s (.smin f) f false 1 sMin)

/-- SMAX (R107). -/
def execSmax (f : Head) (s : State) : Out := .next (scalarOp s (.smax f) f false 1 sMax)

/-- SSEL (R107). -/
def execSsel (f : Head) (s : State) : Out := .next (scalarOp s (.ssel f) f false 1 sSel)

/-- SBFX (R107). -/
def execSbfx (f : Head) (s : State) : Out := .next (scalarOp s (.sbfx f) f false 1 sBfx)

/-- SBFI (R107). -/
def execSbfi (f : Head) (s : State) : Out := .next (scalarOp s (.sbfi f) f false 1 sBfi)

/-- SMOV (R107). -/
def execSmov (f : Head) (s : State) : Out := .next (scalarOp s (.smov f) f false 1 sMov)

/-- SADD immediate (R107). -/
def execSaddImm (f : Head) (s : State) : Out := .next (scalarOp s (.saddImm f) f true 1 sAdd)

/-- SSUB immediate (R107). -/
def execSsubImm (f : Head) (s : State) : Out := .next (scalarOp s (.ssubImm f) f true 1 sSub)

/-- SMUL immediate (R107). -/
def execSmulImm (f : Head) (s : State) : Out := .next (scalarOp s (.smulImm f) f true 3 sMul)

/-- SMULH immediate (R107). -/
def execSmulhImm (f : Head) (s : State) : Out := .next (scalarOp s (.smulhImm f) f true 3 sMulh)

/-- SAND immediate (R107). -/
def execSandImm (f : Head) (s : State) : Out := .next (scalarOp s (.sandImm f) f true 1 sAnd)

/-- SOR immediate (R107). -/
def execSorImm (f : Head) (s : State) : Out := .next (scalarOp s (.sorImm f) f true 1 sOr)

/-- SXOR immediate (R107). -/
def execSxorImm (f : Head) (s : State) : Out := .next (scalarOp s (.sxorImm f) f true 1 sXor)

/-- SSHL immediate (R107). -/
def execSshlImm (f : Head) (s : State) : Out := .next (scalarOp s (.sshlImm f) f true 1 sShl)

/-- SCMP (R109). -/
def execScmp (k : BitVec 3) (f : Head) (s : State) : Out :=
  .next (plainOp s (.scmp k f) fun s =>
    let a := wget s f f.a
    let b := wget s f f.b
    let signed := f.ty == 0 || f.ty == 2
    let c := if 2 ≤ f.ty.toNat then intCond k.toNat signed a b else intCond k.toNat signed (a.setWidth 32) (b.setWidth 32)
    scalResult s f.d.toNat (if c then 1 else 0) 1)

/-- SPOPC (R110). -/
def execSpopc (f : Head) (s : State) : Out := .next (countOp s (.spopc f) f popCount)

/-- SCLZ (R110). -/
def execSclz (f : Head) (s : State) : Out := .next (countOp s (.sclz f) f clz)

/-- SFFS (R110). -/
def execSffs (f : Head) (s : State) : Out := .next (countOp s (.sffs f) f ffs)

/-- SREV (R110). -/
def execSrev (f : Head) (s : State) : Out :=
  .next (plainOp s (.srev f) fun s =>
    let a := wget s f f.a
    if 2 ≤ f.ty.toNat then wideResult s true f.d.toNat a.reverse 1 else scalResult s f.d.toNat (a.setWidth 32).reverse 1)

/-- SLI (R111). -/
def execSli (f : LHead) (s : State) : Out :=
  .next (plainOp s (.sli f) fun s => scalResult s f.d.toNat (f.imm.signExtend 32) 1)

/-- SLIX (R112). -/
def execSlix (k : BitVec 3) (f : Head) (t : Word) (s : State) : Out :=
  .next (plainOp s (.slix k f t) fun s =>
    match k.toNat with
    | 0 => scalResult s f.d.toNat t 1
    | 1 => wideResult s true f.d.toNat (t.signExtend 64) 1
    | 2 => wideResult s true f.d.toNat (t.setWidth 64) 1
    | _ => scalResult s (f.d.toNat + 1) t 1)

end Sys2Proof.Machine
end

