-- ==== Sys2Proof/Machine/Vector.lean ====
section
/-! DEFINITION. Lane arithmetic within lanes and across them: majors 0x10 to 0x13, 0x17, 0x1A, 0x1C, 0x1D, 0x29 and
the 16-bit forms (R38, R120 to R147). -/

namespace Sys2Proof.Machine
open Sys2Proof

/-! ### Elements (R136, R150) -/

/-- Element e of a lane word in elements of w bits. -/
def elem (w : Nat) (x : Word) (e : Nat) : BitVec w := x.extractLsb' (w * e) w

/-- The lane word of 32 / w elements. -/
def gather (w : Nat) (f : Nat → BitVec w) : Word :=
  (List.range (32 / w)).foldl (fun acc e => acc ||| (f e).setWidth 32 <<< (w * e)) 0

/-- Element width of majors 0x10 and 0x12: .s32, .n32, .s16, .s8. -/
def intWidth (ty : Nat) : Nat := if ty ≤ 1 then 32 else if ty = 2 then 16 else 8

/-- Element width of majors 0x11 and 0x13: .b32, .b16, .b8. -/
def bitWidth (ty : Nat) : Nat := if ty = 0 then 32 else if ty = 1 then 16 else 8

/-- An operation on elements: signedness, a, b, d. -/
abbrev ElemOp := {w : Nat} → Bool → BitVec w → BitVec w → BitVec w → BitVec w

/-- Applies an operation to every element of a lane (R136). -/
def onElems (w : Nat) (signed : Bool) (op : ElemOp) (a b d : Word) : Word :=
  gather w fun e => op signed (elem w a e) (elem w b e) (elem w d e)

/-- imm6 sign-extended to w bits in every element (R136). -/
def immElems (w : Nat) (r : Reg) : Word := gather w fun _ => r.signExtend w

/-! ### Operations within an element -/

def vAbs {w : Nat} (signed : Bool) (a _b _d : BitVec w) : BitVec w := if signed && a.msb then -a else a
def vMad {w : Nat} (_ : Bool) (a b d : BitVec w) : BitVec w := a * b + d
def vShl {w : Nat} (_ : Bool) (a b _d : BitVec w) : BitVec w := if w ≤ b.toNat then 0 else a <<< b.toNat
def vShr {w : Nat} (_ : Bool) (a b _d : BitVec w) : BitVec w := if w ≤ b.toNat then 0 else a >>> b.toNat
def vSra {w : Nat} (_ : Bool) (a b _d : BitVec w) : BitVec w := a.sshiftRight b.toNat
def vPopc {w : Nat} (_ : Bool) (a _b _d : BitVec w) : BitVec w := BitVec.ofNat w (popCount a)
def vClz {w : Nat} (_ : Bool) (a _b _d : BitVec w) : BitVec w := BitVec.ofNat w (clz a)

/-! ### Shapes -/

/-- A lane operation on vA and vB, or vA and imm6, and vD (R136, R138). -/
def elemOp (s : State) (i : Instr) (f : Head) (imm : Bool) (w : Nat) (signed : Bool) (lat : Nat) (op : ElemOp) : State :=
  laneOp s i (some f.a) (if imm then none else some f.b) fun s lanes a b =>
    let d := readV (me s) f.d.toNat
    laneResult s f.d lanes (fun i => onElems w signed op (a i) (if imm then immElems w f.b else b i) (d i)) lat

/-- Majors 0x10 and 0x12. -/
def intOp (s : State) (i : Instr) (f : Head) (imm : Bool) (lat : Nat) (op : ElemOp) : State :=
  elemOp s i f imm (intWidth f.ty.toNat) (f.ty != 1) lat op

/-- Majors 0x11 and 0x13. -/
def bitOp (s : State) (i : Instr) (f : Head) (imm : Bool) (op : ElemOp) : State :=
  elemOp s i f imm (bitWidth f.ty.toNat) false 3 op

/-- One operand: B is reserved. -/
def unaryOp (s : State) (i : Instr) (f : Head) (w : Nat) (signed : Bool) (op : ElemOp) : State :=
  laneOp s i (some f.a) none fun s lanes a _ =>
    laneResult s f.d lanes (fun i => onElems w signed op (a i) 0 0) 3

/-- A 16-bit form on 32-bit elements: vD is the first source (R38). -/
def shortOp (s : State) (i : Instr) (f : Short) (lat : Nat) (op : Word → Word → Word) : State :=
  laneOp s i (some f.d) (some (f.b.setWidth 6)) fun s lanes a b => laneResult s f.d lanes (fun i => op (a i) (b i)) lat

/-- The same through an element operation. -/
def shortInt (s : State) (i : Instr) (f : Short) (signed : Bool) (lat : Nat) (op : ElemOp) : State :=
  shortOp s i f lat fun a b => onElems 32 signed op a b 0

/-! ### 16-bit forms (R38) -/

/-- VMOV vD, vB (R38, R140). -/
def execVmov_16 (f : Short) (s : State) : Out := .next (laneOp s (.vmov_16 f) (some (f.b.setWidth 6)) none fun s lanes a _ => laneResult s f.d lanes a 3)

/-- VADD vD, vD, vB (R38). -/
def execVadd_16 (f : Short) (s : State) : Out := .next (shortInt s (.vadd_16 f) f true 3 sAdd)

/-- VSUB vD, vD, vB (R38). -/
def execVsub_16 (f : Short) (s : State) : Out := .next (shortInt s (.vsub_16 f) f true 3 sSub)

/-- VMUL vD, vD, vB (R38). -/
def execVmul_16 (f : Short) (s : State) : Out := .next (shortInt s (.vmul_16 f) f true 5 sMul)

/-- VMIN vD, vD, vB (R38). -/
def execVmin_16 (f : Short) (s : State) : Out := .next (shortInt s (.vmin_16 f) f true 3 sMin)

/-- VMAX vD, vD, vB (R38). -/
def execVmax_16 (f : Short) (s : State) : Out := .next (shortInt s (.vmax_16 f) f true 3 sMax)

/-- VAND vD, vD, vB (R38). -/
def execVand_16 (f : Short) (s : State) : Out := .next (shortInt s (.vand_16 f) f false 3 sAnd)

/-- VOR vD, vD, vB (R38). -/
def execVor_16 (f : Short) (s : State) : Out := .next (shortInt s (.vor_16 f) f false 3 sOr)

/-- VXOR vD, vD, vB (R38). -/
def execVxor_16 (f : Short) (s : State) : Out := .next (shortInt s (.vxor_16 f) f false 3 sXor)

/-- VSHL vD, vD, vB (R38). -/
def execVshl_16 (f : Short) (s : State) : Out := .next (shortInt s (.vshl_16 f) f false 3 vShl)

/-- VSHR vD, vD, vB (R38). -/
def execVshr_16 (f : Short) (s : State) : Out := .next (shortInt s (.vshr_16 f) f false 3 vShr)

/-- VFADD.f32 vD, vD, vB (R38, R172). -/
def execVfadd_16 (f : Short) (s : State) : Out := .next (shortOp s (.vfadd_16 f) f 6 fun a b => BitVec.ofNat 32 (addF fp32 a.toNat b.toNat))

/-- VFSUB.f32 vD, vD, vB (R38, R172). -/
def execVfsub_16 (f : Short) (s : State) : Out := .next (shortOp s (.vfsub_16 f) f 6 fun a b => BitVec.ofNat 32 (subF fp32 a.toNat b.toNat))

/-- VFMUL.f32 vD, vD, vB (R38, R172). -/
def execVfmul_16 (f : Short) (s : State) : Out := .next (shortOp s (.vfmul_16 f) f 6 fun a b => BitVec.ofNat 32 (mulF fp32 a.toNat b.toNat))

/-- VFMIN.f32 vD, vD, vB (R38, R172). -/
def execVfmin_16 (f : Short) (s : State) : Out := .next (shortOp s (.vfmin_16 f) f 6 fun a b => BitVec.ofNat 32 (minF fp32 a.toNat b.toNat))

/-- VFMAX.f32 vD, vD, vB (R38, R172). -/
def execVfmax_16 (f : Short) (s : State) : Out := .next (shortOp s (.vfmax_16 f) f 6 fun a b => BitVec.ofNat 32 (maxF fp32 a.toNat b.toNat))

/-! ### Majors 0x10 to 0x13 -/

/-- VADD (R136). -/
def execVadd (f : Head) (s : State) : Out := .next (intOp s (.vadd f) f false 3 sAdd)

/-- VSUB (R136). -/
def execVsub (f : Head) (s : State) : Out := .next (intOp s (.vsub f) f false 3 sSub)

/-- VMUL (R136). -/
def execVmul (f : Head) (s : State) : Out := .next (intOp s (.vmul f) f false 5 sMul)

/-- VMULH (R136). -/
def execVmulh (f : Head) (s : State) : Out := .next (intOp s (.vmulh f) f false 5 sMulh)

/-- VMIN (R136). -/
def execVmin (f : Head) (s : State) : Out := .next (intOp s (.vmin f) f false 3 sMin)

/-- VMAX (R136). -/
def execVmax (f : Head) (s : State) : Out := .next (intOp s (.vmax f) f false 3 sMax)

/-- VABS (R136). -/
def execVabs (f : Head) (s : State) : Out := .next (unaryOp s (.vabs f) f (intWidth f.ty.toNat) (f.ty != 1) vAbs)

/-- VMAD (R136). -/
def execVmad (f : Head) (s : State) : Out := .next (intOp s (.vmad f) f false 5 vMad)

/-- VAND (R138). -/
def execVand (f : Head) (s : State) : Out := .next (bitOp s (.vand f) f false sAnd)

/-- VOR (R138). -/
def execVor (f : Head) (s : State) : Out := .next (bitOp s (.vor f) f false sOr)

/-- VXOR (R138). -/
def execVxor (f : Head) (s : State) : Out := .next (bitOp s (.vxor f) f false sXor)

/-- VSHL (R138). -/
def execVshl (f : Head) (s : State) : Out := .next (bitOp s (.vshl f) f false vShl)

/-- VSHR (R138). -/
def execVshr (f : Head) (s : State) : Out := .next (bitOp s (.vshr f) f false vShr)

/-- VSRA (R138). -/
def execVsra (f : Head) (s : State) : Out := .next (bitOp s (.vsra f) f false vSra)

/-- VPOPC (R138). -/
def execVpopc (f : Head) (s : State) : Out := .next (unaryOp s (.vpopc f) f (bitWidth f.ty.toNat) false vPopc)

/-- VCLZ (R138). -/
def execVclz (f : Head) (s : State) : Out := .next (unaryOp s (.vclz f) f (bitWidth f.ty.toNat) false vClz)

/-- VADD immediate (R136). -/
def execVaddImm (f : Head) (s : State) : Out := .next (intOp s (.vaddImm f) f true 3 sAdd)

/-- VSUB immediate (R136). -/
def execVsubImm (f : Head) (s : State) : Out := .next (intOp s (.vsubImm f) f true 3 sSub)

/-- VMUL immediate (R136). -/
def execVmulImm (f : Head) (s : State) : Out := .next (intOp s (.vmulImm f) f true 5 sMul)

/-- VMULH immediate (R136). -/
def execVmulhImm (f : Head) (s : State) : Out := .next (intOp s (.vmulhImm f) f true 5 sMulh)

/-- VMIN immediate (R136). -/
def execVminImm (f : Head) (s : State) : Out := .next (intOp s (.vminImm f) f true 3 sMin)

/-- VMAX immediate (R136). -/
def execVmaxImm (f : Head) (s : State) : Out := .next (intOp s (.vmaxImm f) f true 3 sMax)

/-- VMAD immediate (R136). -/
def execVmadImm (f : Head) (s : State) : Out := .next (intOp s (.vmadImm f) f true 5 vMad)

/-- VAND immediate (R138). -/
def execVandImm (f : Head) (s : State) : Out := .next (bitOp s (.vandImm f) f true sAnd)

/-- VOR immediate (R138). -/
def execVorImm (f : Head) (s : State) : Out := .next (bitOp s (.vorImm f) f true sOr)

/-- VXOR immediate (R138). -/
def execVxorImm (f : Head) (s : State) : Out := .next (bitOp s (.vxorImm f) f true sXor)

/-- VSHL immediate (R138). -/
def execVshlImm (f : Head) (s : State) : Out := .next (bitOp s (.vshlImm f) f true vShl)

/-- VSHR immediate (R138). -/
def execVshrImm (f : Head) (s : State) : Out := .next (bitOp s (.vshrImm f) f true vShr)

/-- VSRA immediate (R138). -/
def execVsraImm (f : Head) (s : State) : Out := .next (bitOp s (.vsraImm f) f true vSra)

/-! ### Constants and moves (R139, R140) -/

/-- VLI (R139). -/
def execVli (f : LHead) (s : State) : Out :=
  .next (laneOp s (.vli f) none none fun s lanes _ _ => laneResult s f.d lanes (fun _ => f.imm.signExtend 32) 3)

/-- The value VLIX writes to each lane (R139). -/
def vlixValue (k : BitVec 3) (t : Word) : Word :=
  match k.toNat with
  | 0 => t
  | 1 => gather 16 fun _ => elem 16 t 0
  | _ => gather 8 fun _ => elem 8 t 0

/-- VLIX (R139). -/
def execVlix (k : BitVec 3) (f : Head) (t : Word) (s : State) : Out :=
  .next (laneOp s (.vlix k f t) none none fun s lanes _ _ => laneResult s f.d lanes (fun _ => vlixValue k t) 3)

/-- VMOV (R140). -/
def execVmov (f : Head) (s : State) : Out :=
  .next (laneOp s (.vmov f) (some f.a) none fun s lanes a _ => laneResult s f.d lanes a 3)

/-- VSEL (R140). -/
def execVsel (f : Head) (s : State) : Out :=
  .next (laneOp s (.vsel f) (some f.a) none fun s lanes a _ =>
    let t := tget s f.b
    let d := readV (me s) f.d.toNat
    laneResult s f.d lanes (fun i => if t.getLsbD i then a i else d i) 3)

/-- VBCS (R140). -/
def execVbcs (f : Head) (s : State) : Out :=
  .next (laneOp s (.vbcs f) none none fun s lanes _ _ =>
    let v := sget s f.a
    laneResult s f.d lanes (fun _ => v) 3)

/-! ### Across lanes (R130, R140 to R144) -/

/-- Src(x, j): the stored value of a register's lane, or the lane of a popped entry (R130). -/
def srcLane (s : State) (r : Reg) (a : Nat → Word) (j : Nat) : Word :=
  if r.toNat < 60 then crossV (me s) r.toNat j else if 96 ≤ j || (me s).dead.getLsbD j then 0 else a j

/-- The `i`th value of a cross-lane move from lane `j`. The values of a popped entry outside Active(g) are not used (R328), and
the manual says no value that takes their place: a free one (log 4). -/
def movedLane (s : State) (r : Reg) (a : Nat → Word) (i j : Nat) : Word :=
  if 60 ≤ r.toNat ∧ j < 96 ∧ !(active (me s) s.who.2).getLsbD j ∧ !(me s).dead.getLsbD j then Config.freeWord (s.fresh + i)
  else srcLane s r a j

/-- A cross-lane move: lane i takes lane `from i` of vA. -/
def crossOp (s : State) (i : Instr) (f : Head) (b : Option Reg) (sel : State → (Nat → Word) → Nat → Nat) : State :=
  laneOp s i (some f.a) b fun s lanes a b =>
    let from_ := sel s b
    laneResult { s with fresh := s.fresh + if 60 ≤ f.a.toNat then 96 else 0 } f.d lanes (fun i => movedLane s f.a a i (from_ i)) 9

/-- VLANE to lanes (R140). -/
def execVlaneV (f : Head) (s : State) : Out :=
  .next (crossOp s (.vlaneV f) f none fun s _ _ => (sget s f.b).toNat % 128)

/-- VLANE to a scalar: once for the split, whatever Active(g); a queue pops only with a nonempty Active(g), and the
selected lane is checked like an active one (R140). -/
def execVlaneS (f : Head) (s : State) : Out :=
  .next (guarded s (.vlaneS f) fun s =>
    let j := (sget s f.b).toNat % 128
    let act := active (me s) s.who.2
    if f.a.toNat < 60 || act == 0 then
      let v := if f.a.toNat < 60 then crossV (me s) f.a.toNat j else 0
      advance (flyS s s.who.2 f.d.toNat v 9) 4
    else
      match source s f.a 0 0 (act ||| laneBit j) fun a bad => .go a (fun _ => 0) bad with
      | .stop s => s
      | .go a _ bad =>
        takePops (advance (flyS s s.who.2 f.d.toNat (srcLane s f.a a j) 9) 4) (usesOf (.vlaneS f)) act (bad &&& act))

/-- VLANE.id (R140). -/
def execVlaneId (f : Head) (s : State) : Out :=
  .next (laneOp s (.vlaneId f) none none fun s lanes _ _ => laneResult s f.d lanes (fun i => BitVec.ofNat 32 i) 9)

/-- VFCLASS (R141). -/
def execVfclass (f : Head) (s : State) : Out :=
  .next (laneOp s (.vfclass f) (some f.a) none fun s lanes a _ =>
    laneResult s f.d lanes (fun i =>
      if f.ty == 0 then BitVec.ofNat 32 (classF fp32 (a i).toNat)
      else gather 16 fun e => BitVec.ofNat 16 (classF fp16 (elem 16 (a i) e).toNat)) 4)

/-- VSHFL (R141). -/
def execVshfl (f : Head) (s : State) : Out :=
  .next (crossOp s (.vshfl f) f (some f.b) fun _ b i => (b i).toNat % 128)

/-- VROT and VROT.beat (R141). -/
def execVrot (f : Head) (s : State) : Out :=
  .next (crossOp s (.vrot f) f none fun s _ i =>
    let n := (sget s f.b).toNat
    if f.ty == 0 then (i + n) % 96 else 32 * (i / 32) + (i + n) % 32)

/-- VBLN (R141). -/
def execVbln (f : Head) (s : State) : Out :=
  .next (crossOp s (.vbln f) f none fun s _ i => i ^^^ ((sget s f.b).toNat % 128))

/-- VRED (R142 to R144): to a scalar, or to the active lanes. -/
def execVred (f : Head) (s : State) : Out :=
  .next (laneOp s (.vred f) (some f.a) none fun s lanes a _ =>
    let red := combineAll f.b.toNat ((lanesOf lanes).map a)
    if f.ty == 0 then flyS s s.who.2 f.d.toNat red 9 else laneResult s f.d lanes (fun _ => red) 9)

/-- The scan of a list: each lane with its inclusive or exclusive value (R143). -/
def scanFrom (op : Nat) (ex : Bool) (a : Nat → Word) : Option Word → List Nat → List (Nat × Word)
  | _, [] => []
  | acc, j :: js =>
    let inc := match acc with | none => a j | some w => combine op w (a j)
    let out := if ex then acc.getD (identityOf op) else inc
    (j, out) :: scanFrom op ex a (some inc) js

/-- VSCAN and VSCAN.ex (R143). -/
def execVscan (f : Head) (s : State) : Out :=
  .next (laneOp s (.vscan f) (some f.a) none fun s lanes a _ =>
    let m := scanFrom f.b.toNat (f.ty != 0) a none (lanesOf lanes)
    laneResult s f.d lanes (fun i => mapGetD m i 0) 9)

/-! ### Extended register blocks (R145, R146) -/

/-- RACQ (R145): tried or queued in the pool's order; a queued request is granted at once if it can be. -/
def execRacq (f : Head) (s : State) : Out :=
  .next (guarded s (.racq f) fun s =>
    let g := me s
    let k := f.b.toNat
    let p := poolOf (teamOf s g) g.quad
    if (60 - g.rbase) / 4 < g.rext + k ∨ p.size < k then trapC s .rfover
    else if f.ty = 1 ∧ (p.waiting ≠ [] ∨ p.free < k) then
      -- DESIGN CHOICE: R146 gives no cycle for the result of a refused RACQ.try, and it is written at once (log 10)
      advance (scalResult s f.d.toNat (0x80000000 ||| BitVec.ofNat 32 g.rext) 1) 4
    else
      match s.who.2 with
      | .split n =>
        let s := updPool (block s (.racq k f.d)) g.team g.quad fun p => { p with waiting := p.waiting ++ [(s.who.1, n, k, f.d)] }
        grantPool s g.team g.quad 33
      | .aslice => s)

/-- RREL (R145): it waits for pending writes to the blocks it releases. -/
def execRrel (f : Head) (s : State) : Out :=
  .next (plainTry s (.rrel f) fun s =>
    let g := me s
    let k := f.b.toNat
    if g.rext < k then .stop (trapC s .rfover)
    else
      let lo := g.rbase + 4 * (g.rext - k)
      if (List.range (4 * k)).any fun j => pendsV g (lo + j) then .stop (block s .retry)
      else
        let s := updMe s fun g => { zeroRegs g lo (topReg g) with rext := g.rext - k }
        .done (giveBack s g.team g.quad k))

/-- RQRY (R145): the result arrives two cycles on (R146). -/
def execRqry (f : Head) (s : State) : Out :=
  .next (plainOp s (.rqry f) fun s =>
    let g := me s
    let p := poolOf (teamOf s g) g.quad
    let v := BitVec.ofNat 8 p.waiting.length ++ BitVec.ofNat 8 p.size ++ BitVec.ofNat 8 p.free ++ BitVec.ofNat 8 g.rext
    lockS s s.who.1 s.who.2 f.d.toNat v 2)

end Sys2Proof.Machine
end

