-- ==== Sys2Proof/Machine/Float.lean ====
section
/-! DEFINITION. Floating arithmetic, comparison, special functions and conversion in the lanes: majors 0x14, 0x15, 0x16,
0x18 and 0x19 (R172 to R182). -/

namespace Sys2Proof.Machine
open Sys2Proof

/-! ### Arithmetic (R172, R173) -/

/-- The element format of major 0x14: .f32, .f16, .bf16. -/
def laneFmt (ty : Nat) : Fmt := if ty = 0 then fp32 else if ty = 1 then fp16 else bf16

/-- The element width of majors 0x14 and 0x16. -/
def laneWidth (ty : Nat) : Nat := if ty = 0 then 32 else 16

/-- An operation on the codes of every element of a lane. -/
def onFloats (ty : Nat) (op : Fmt → Nat → Nat → Nat → Nat) (a b d : Word) : Word :=
  let w := laneWidth ty
  gather w fun e =>
    BitVec.ofNat w (op (laneFmt ty) (elem w a e).toNat (elem w b e).toNat (elem w d e).toNat)

/-- The shape of major 0x14; `b` is none where B is reserved. -/
def floatOp (s : State) (i : Instr) (f : Head) (b : Option Reg) (op : Fmt → Nat → Nat → Nat → Nat) : State :=
  laneOp s i (some f.a) b fun s lanes a b =>
    let d := readV (me s) f.d.toNat
    laneResult s f.d lanes (fun i => onFloats f.ty.toNat op (a i) (b i) (d i)) 6

/-- VFADD (R172). -/
def execVfadd (f : Head) (s : State) : Out := .next (floatOp s (.vfadd f) f (some f.b) fun t a b _ => addF t a b)

/-- VFSUB (R172). -/
def execVfsub (f : Head) (s : State) : Out := .next (floatOp s (.vfsub f) f (some f.b) fun t a b _ => subF t a b)

/-- VFMUL (R172). -/
def execVfmul (f : Head) (s : State) : Out := .next (floatOp s (.vfmul f) f (some f.b) fun t a b _ => mulF t a b)

/-- VFMA (R172). -/
def execVfma (f : Head) (s : State) : Out := .next (floatOp s (.vfma f) f (some f.b) fun t a b d => fmaF t a b d)

/-- VFMIN (R173). -/
def execVfmin (f : Head) (s : State) : Out := .next (floatOp s (.vfmin f) f (some f.b) fun t a b _ => minF t a b)

/-- VFMAX (R173). -/
def execVfmax (f : Head) (s : State) : Out := .next (floatOp s (.vfmax f) f (some f.b) fun t a b _ => maxF t a b)

/-- VFABS: the sign bit cleared (R173). -/
def execVfabs (f : Head) (s : State) : Out := .next (floatOp s (.vfabs f) f none fun t a _ _ => a % t.sign)

/-- VFNEG: the sign bit inverted (R173). -/
def execVfneg (f : Head) (s : State) : Out := .next (floatOp s (.vfneg f) f none fun t a _ _ => (a + t.sign) % (2 * t.sign))

/-! ### Comparison (R174) -/

/-- The lanes of a set whose condition holds. -/
def condLanes (lanes : Lanes) (c : Nat → Bool) : Lanes :=
  (lanesOf lanes).foldl (fun m i => if c i then m ||| laneBit i else m) 0

/-- A triple result of fixed latency. -/
def flyTriple (s : State) (d : Nat) (m : Lanes) (lat : Nat) : State :=
  let s := flyS s s.who.2 d (beatOf m 0) lat
  let s := flyS s s.who.2 (d + 1) (beatOf m 1) lat
  flyS s s.who.2 (d + 2) (beatOf m 2) lat

/-- VCMP: all 96 bits, zero outside the lanes that take part (R174). -/
def execVcmp (k : BitVec 3) (f : Head) (s : State) : Out :=
  .next (laneOp s (.vcmp k f) (some f.a) (some f.b) fun s lanes a b =>
    flyTriple s f.d.toNat (condLanes lanes fun i => vcmpCond k.toNat f.ty.toNat (a i) (b i)) 4)

/-! ### Special functions (R175, R176) -/

/-- The shape of major 0x16. -/
def sfuOp (s : State) (i : Instr) (f : Head) (k : Nat) : State :=
  laneOp s i (some f.a) none fun s lanes a _ =>
    laneResult s f.d lanes (fun i => onFloats f.ty.toNat (fun _ x _ _ => sfu k f.ty.toNat x) (a i) 0 0) 12

/-- VRCP (R175, R176). -/
def execVrcp (f : Head) (s : State) : Out := .next (sfuOp s (.vrcp f) f 0)

/-- VRSQ (R175, R176). -/
def execVrsq (f : Head) (s : State) : Out := .next (sfuOp s (.vrsq f) f 1)

/-- VSQRT (R175, R176). -/
def execVsqrt (f : Head) (s : State) : Out := .next (sfuOp s (.vsqrt f) f 2)

/-- VEXP2 (R175, R176). -/
def execVexp2 (f : Head) (s : State) : Out := .next (sfuOp s (.vexp2 f) f 3)

/-- VLOG2 (R175, R176). -/
def execVlog2 (f : Head) (s : State) : Out := .next (sfuOp s (.vlog2 f) f 4)

/-- VSIN (R175, R176). -/
def execVsin (f : Head) (s : State) : Out := .next (sfuOp s (.vsin f) f 5)

/-- VCOS (R175, R176). -/
def execVcos (f : Head) (s : State) : Out := .next (sfuOp s (.vcos f) f 6)

/-- VTANH (R175, R176). -/
def execVtanh (f : Head) (s : State) : Out := .next (sfuOp s (.vtanh f) f 7)

/-! ### Conversion (R177, R178) -/

/-- Replaces element `pos` of `w` bits of a lane word. -/
def putElem (w pos : Nat) (d : Word) (v : Nat) : Word :=
  (d &&& ~~~ ((BitVec.ofNat 32 (2 ^ w - 1)) <<< (w * pos))) ||| (BitVec.ofNat 32 (v % 2 ^ w)) <<< (w * pos)

/-- An f32 value as an s32: a NaN gives 0, and values beyond the range clamp (R178). -/
def toS32 (x : Nat) (mode bits : Nat) : Word :=
  match fp32.val x with
  | .nan => 0
  | .inf n => BitVec.ofInt 32 (if n then -(2 ^ 31) else 2 ^ 31 - 1)
  | .fin n m e => BitVec.ofInt 32 (clampInt (-(2 ^ 31)) (2 ^ 31 - 1) (roundInt n m e mode bits))

/-- An f16 code widened exactly; infinities and NaN payloads keep their bits (R177). -/
def widenF16 (x : Nat) : Word :=
  if x / 1024 % 32 = 31 then BitVec.ofNat 32 (x / 32768 * 2 ^ 31 + 255 * 2 ^ 23 + x % 1024 * 2 ^ 13)
  else BitVec.ofNat 32 (fp32.round (fp16.val x) 0 0)

/-- An f32 value in a narrower format, with its saturate flag. -/
def narrow (t : Fmt) (x mode bits : Nat) (sat : Bool) : Nat :=
  let c := t.round (fp32.val x) mode bits
  if sat then t.saturate c else c

/-- VCVT of one lane: kind, mode, POS, SAT, stochastic bits, source and old destination (R177). -/
def convert (k mode pos : Nat) (sat : Bool) (bits : Nat) (a d : Word) : Word :=
  match k with
  | 0 => BitVec.ofNat 32 (fp32.round (intVal 32 a.toNat) mode bits)
  | 1 => toS32 a.toNat mode bits
  | 2 => putElem 16 pos d (narrow fp16 a.toNat mode bits sat)
  | 3 => widenF16 (elem 16 a pos).toNat
  | 4 => putElem 16 pos d (narrow bf16 a.toNat mode bits sat)
  | 5 => (elem 16 a pos).setWidth 32 <<< 16
  | 6 => putElem 8 pos d (narrow e4m3 a.toNat mode bits false)
  | _ => putElem 8 pos d (narrow e5m2 a.toNat mode bits sat)

/-- VCVT (R177, R178). DESIGN CHOICE: the bits of vD that a narrowing keeps are those at issue, written with the result (log 17). -/
def execVcvt (k : BitVec 3) (f : Head) (s : State) : Out :=
  .next (laneOp s (.vcvt k f) (some f.a) none fun s lanes a _ =>
    let h := stochOf s
    let pos := f.b.toNat / 2 % 4
    let d := readV (me s) f.d.toNat
    countStoch
      (laneResult s f.d lanes
        (fun i => convert k.toNat f.ty.toNat pos (f.b.getLsbD 0) (h.bits i 0) (a i) (d i)) 4)
      (f.ty == 3))

/-! ### MX blocks (R179 to R182) -/

/-- Width of an MX element by FMT. -/
def mxWidth (fmt : Nat) : Nat := if fmt = 3 then 4 else 8

/-- One beat of VQBLK: codes by k, and the scale word (R180). The stochastic element is 0 (log 17). -/
def quantiseBeat (lanes : Lanes) (a : Nat → Word) (fmt mode : Nat) (xopt sat : Bool) (h : Stoch) (j : Nat) : List Nat × Nat :=
  let vs := (List.range 32).map fun k =>
    if lanes.getLsbD (32 * j + k) then fp32.val (a (32 * j + k)).toNat else .fin false 0 0
  let (codes, se, xf) := mxQuantise vs fmt mode xopt sat fun k => h.bits (32 * j + k) 0
  (codes, if beatOf lanes j = 0 then 0 else scaleWord se xf)

/-- VQBLK (R180). -/
def execVqblk (f : Head) (t : Word) (s : State) : Out :=
  .next (laneOp s (.vqblk f t) (some f.a) none fun s lanes a _ =>
    let h := stochOf s
    let fmt := t.toNat % 8
    let pos := t.toNat / 8 % 8
    let beats := (List.range 3).map (quantiseBeat lanes a fmt f.ty.toNat (t.getLsbD 7) (t.getLsbD 6) h)
    let word := fun j => (beats.getD j ([], 0)).2
    let d := readV (me s) f.d.toNat
    let s := laneResult s f.d lanes
      (fun i => putElem (mxWidth fmt) pos (d i) ((beats.getD (i / 32) ([], 0)).1.getD (i % 32) 0)) 9
    let s := flyS s s.who.2 f.b.toNat (BitVec.ofNat 32 (word 0 + 65536 * word 1)) 9
    countStoch (flyS s s.who.2 (f.b.toNat + 1) (BitVec.ofNat 32 (word 2)) 9) (f.ty == 3))

/-- VDQBLK (R181). -/
def execVdqblk (f : Head) (t : Word) (s : State) : Out :=
  .next (laneOp s (.vdqblk f t) (some f.a) none fun s lanes a _ =>
    let fmt := t.toNat % 8
    let w := mxWidth fmt
    let words := pget s f.b
    laneResult s f.d lanes
      (fun i =>
        let code := (a i).toNat / 2 ^ (w * (t.toNat / 8 % 8)) % 2 ^ w
        BitVec.ofNat 32 (fp32.round (mxValue code fmt (words.extractLsb' (16 * (i / 32)) 16).toNat) 0 0)) 9)

end Sys2Proof.Machine
end

