-- ==== Sys2Proof/Machine/Control.lean ====
section
/-! DEFINITION. Control flow: branches, jumps between segments, the end of a split, software traps, and the divergent
branches and joins (R33, R34, R60 to R62, R81 to R99). -/

namespace Sys2Proof.Machine
open Sys2Proof

/-! ### Code addresses and segments (R27, R29, R33) -/

/-- The segment table entry of a code address. -/
def segOf (s : State) (g : Group) (pc : Word) : Option Seg := (launchOf s g).kernel.segs[pc.toNat / 4096 % 4096]?

/-- The overlay slot tagged with a context and a segment base that is loading or resident. -/
def slotFor (s : State) (c cx : Nat) (base : Addr) : Option (Nat × Slot) :=
  (core s c).slots.find? fun e => e.2.st != .empty && e.2.ctx == cx && e.2.base == base

/-- The slot of a code address of a group. -/
def slotOf (s : State) (g : Group) (pc : Word) : Option (Nat × Slot) :=
  match segOf s g pc with
  | some seg => slotFor s (coreOf s g) (ctxOf s g) seg.base
  | none => none

/-- The target of a J-format branch, if it lies in the current segment (R34, R87). -/
def branchTarget (s : State) (g : Group) (pc : Word) (off : BitVec 14) : Option Word :=
  let t : Int := ((pc.toNat % 4096 : Nat) : Int) + 2 * off.toInt
  match segOf s g pc with
  | some seg =>
    if 0 ≤ t ∧ t ≤ (seg.len : Int) - 2 then some ((pc &&& 0xFFFFF000) ||| BitVec.ofNat 32 t.toNat) else none
  | none => none

/-- The issuing stream continues at a code address. -/
def goTo (s : State) (pc : Word) : State := updMe s fun g => setWait (setPc g s.who.2 pc) s.who.2 none

/-! ### Branches of major 0x08 (R87, R88) -/

/-- The shape of the branches: whether it is taken, and what it writes to a register, taken or not. -/
def branch (s : State) (i : Instr) (f : JHead) (taken : Bool) (put : State → State) : State :=
  guarded s i fun s =>
    let g := me s
    if taken then
      match branchTarget s g (pcOf g s.who.2) f.off with
      | none => trapC s .fetch
      | some t => goTo (put s) t
    else advance (put s) 4

/-- BRA (R87). -/
def execBra (f : JHead) (s : State) : Out := .next (branch s (.bra f) f true id)

/-- BRZ (R87). -/
def execBrz (f : JHead) (s : State) : Out := .next (branch s (.brz f) f (sget s f.s == 0) id)

/-- BRNZ (R87). -/
def execBrnz (f : JHead) (s : State) : Out := .next (branch s (.brnz f) f (sget s f.s != 0) id)

/-- CALL (R87). -/
def execCall (f : JHead) (s : State) : Out :=
  .next (branch s (.call f) f true fun s => scalResult s f.s.toNat (nextPc (pcOf (me s) s.who.2) 4) 1)

/-- SDBNZ (R87, R88). -/
def execSdbnz (f : JHead) (s : State) : Out :=
  .next (branch s (.sdbnz f) f (sget s f.s - 1 != 0) fun s => updMe s fun g => writeS g s.who.2 f.s.toNat (readS g s.who.2 f.s.toNat - 1))

/-- BANY (R87). -/
def execBany (f : JHead) (s : State) : Out :=
  .next (branch s (.bany f) f (anyLane (active (me s) s.who.2) (tget s f.s)) id)

/-- BALL (R87). -/
def execBall (f : JHead) (s : State) : Out :=
  .next (branch s (.ball f) f (allLanes (active (me s) s.who.2) (tget s f.s)) id)

/-! ### Transfers to a code address (R33, R60, R61) -/

/-- JFNC, JMPR and RET: the checks in their order, the link, and the wait for a segment that is loading. -/
def transfer (s : State) (i : Instr) (a : Reg) (link : Option Reg) : State :=
  guarded s i fun s =>
    let g := me s
    let t := sget s a
    let pc := pcOf g s.who.2
    if t.extractLsb' 24 8 != 0 || t.getLsbD 0 then trapC s .fetch
    else
      match segOf s g t with
      | none => trapC s .fetch
      | some seg =>
        match slotFor s (coreOf s g) (ctxOf s g) seg.base with
        | none => trap s { cause := .segnp, target := some (t.toNat / 4096 % 4096) }
        | some (_, slot) =>
          if seg.len ≤ t.toNat % 4096 then trapC s .fetch
          else
            let s := match link with
              | some d => scalResult s d.toNat (nextPc pc 4) 1
              | none => s
            let s := goTo s t
            if slot.st = .loading then block s (.segment (t.toNat / 4096 % 4096)) else s

/-- JMPR (R89). -/
def execJmpr (f : Head) (s : State) : Out := .next (transfer s (.jmpr f) f.a none)

/-- RET (R89). -/
def execRet (f : Head) (s : State) : Out := .next (transfer s (.ret f) f.a none)

/-- JFNC (R60). -/
def execJfnc (f : Head) (s : State) : Out := .next (transfer s (.jfnc f) f.a (some f.d))

/-! ### The end of a split, traps and idle cycles -/

/-- The members of a split exit (R90). -/
def exitSplit (g : Group) (n : Nat) : Group :=
  let m := (split g n).members
  let g := updSplit { g with exited := g.exited ||| m } n fun p => { p with members := 0, am := 0, wait := none }
  checkToks (settleSplit g n 9)

/-- EXIT: the split, or the address slice, ends (R90, R323). -/
def execExit (f : Head) (s : State) : Out :=
  .next (guarded s (.exit f) fun s =>
    let s := updMe s fun g =>
      match s.who.2 with
      | .split n => exitSplit g n
      | .aslice => { g with aslice := some { slice g with exited := true, wait := none } }
    exitIfDone s s.who.1)

/-- TRAP n (R92). -/
def execTrap (f : Head) (s : State) : Out :=
  .next (guarded s (.trap f) fun s => trap s { cause := .swtrap, code := f.b.toNat })

/-- BKPT n (R92). -/
def execBkpt (f : Head) (s : State) : Out :=
  .next (guarded s (.bkpt f) fun s => trap s { cause := .bkpt, code := f.b.toNat })

/-- The issuing stream does not issue for `n` further unfrozen cycles. -/
def stallFor (s : State) (n : Nat) : State :=
  updMe s fun g =>
    let t := streamNow s g s.who.2 + 1 + n
    match s.who.2 with
    | .split k => updSplit g k fun p => { p with stall := max p.stall t }
    | .aslice => { g with aslice := some { slice g with stall := max (slice g).stall t } }

/-- NOPS n (R62). -/
def execNops (f : Head) (s : State) : Out :=
  .next (plainOp s (.nops f) fun s => stallFor s (f.b.toNat + f.sc.toNat))

/-! ### Divergence (R93 to R99) -/

/-- Takes lanes out of a split. -/
def dropMembers (p : Split) (c : Lanes) : Split := { p with members := p.members &&& ~~~ c, am := p.am &&& ~~~ c }

/-- The divergent branch of the lanes `c` to `target` (R93). -/
def diverge (s : State) (n : Nat) (c : Lanes) (target : Word) : State :=
  let g := me s
  let p := split g n
  if c = active g (.split n) then goTo s target
  else if g.splits.length < 4 then
    let child : Split := { p with pc := target, members := c, am := c, ctr := 0, stall := 0, first := false, wait := none, clkHi := none, timeHi := none }
    advance (updMe s fun g => updSplit (setSplit g (freeSplit g) child) n fun p => dropMembers p c) 4
  else if (innermost g n).isNone || tokFull g then trapC s .token
  else
    let t := Token.deferred n (nextPc p.pc 4) (p.members &&& ~~~ c) (p.am &&& ~~~ c)
    goTo (updMe s fun g => updSplit (pushTok g n t) n fun p => { p with members := c, am := c }) target

/-- VBR and VBRN. -/
def divergent (s : State) (i : Instr) (f : JHead) (want : Bool) : State :=
  guarded s i fun s =>
    match s.who.2 with
    | .aslice => s
    | .split n =>
      let g := me s
      let t := tget s f.s
      let c := active g (.split n) &&& (if want then t else ~~~ t)
      if c = 0 then advance s 4
      else
        match branchTarget s g (pcOf g s.who.2) f.off with
        | none => trapC s .fetch
        | some target => diverge s n c target

/-- VBR (R93). -/
def execVbr (f : JHead) (s : State) : Out := .next (divergent s (.vbr f) f true)

/-- VBRN (R93). -/
def execVbrn (f : JHead) (s : State) : Out := .next (divergent s (.vbrn f) f false)

/-- VBRK (R95, R96). -/
def execVbrk (f : JHead) (s : State) : Out :=
  .next (guarded s (.vbrk f) fun s =>
    match s.who.2 with
    | .aslice => s
    | .split n =>
      let g := me s
      match innermost g n with
      | none => trapC s .token
      | some t =>
        let c := active g (.split n) &&& tget s f.s
        let s := advance s 4
        let s := updMe s fun g => checkToks (settleSplit (updSplit (park g t c c) n fun p => dropMembers p c) n 9)
        exitIfDone s s.who.1)

/-- JTOK (R97). -/
def execJtok (f : JHead) (s : State) : Out :=
  .next (guarded s (.jtok f) fun s =>
    match s.who.2 with
    | .aslice => s
    | .split n =>
      let g := me s
      match branchTarget s g (pcOf g s.who.2) f.off with
      | none => trapC s .fetch
      | some j =>
        if tokFull g then trapC s .token
        else
          let p := split g n
          advance (updMe s fun g => pushTok g n (.join j p.members 0 0 p.chain)) 4)

/-- The join PC of a token, if it is a join token. -/
def joinPc (g : Group) (i : Nat) : Option Word :=
  match mapGet g.tokens i with
  | some (.join pc ..) => some pc
  | _ => none

/-- The other splits at a JOIN's address with the same top entry (R85). -/
def mergeable (g : Group) (n : Nat) (a : Word) : List Nat :=
  (g.splits.filter fun e => e.1 != n && e.2.pc == a && e.2.chain.head? == (split g n).chain.head?).map (·.1)

/-- The splits `ns` and `n` become one, with the lowest number and the larger wait counter (R85). DESIGN CHOICE: the manual does
not say which pending time captures of R119 the merged split has, nor who owns the deferred entries of the others: it keeps the
captures of the lowest-numbered split, drops the others, and owns every entry that one of them owned (log 36). -/
def mergeSplits (g : Group) (n : Nat) (ns : List Nat) : Nat × Group :=
  let all := n :: ns
  let k := all.foldl Nat.min n
  let merged : Split :=
    { split g k with
      members := unionOf (all.map fun m => (split g m).members), am := unionOf (all.map fun m => (split g m).am)
      ctr := (all.map fun m => (split g m).ctr).foldl max 0, wait := none }
  (k, inherit (setSplit { g with splits := g.splits.filter fun e => !has all e.1 } k merged) all k)

/-- JOIN (R98). The wait counter of the split that issues it is 0 from here on (R77), and R85 merges counters after that. -/
def execJoin (f : JHead) (s : State) : Out :=
  .next (guarded s (.join f) fun s =>
    match s.who.2 with
    | .aslice => s
    | .split n =>
      let s := updMe s fun g => updSplit g n fun p => { p with ctr := 0 }
      let g := me s
      let a := (split g n).pc
      let t := innermost g n
      let tpc := t.bind (joinPc g)
      if (split g n).chain.any fun i => some i != t && joinPc g i == some a then trapC s .token
      else
        match topDeferred g n with
        | some (i, pc, l, m) =>
          if tpc == some a then
            let s := updMe s fun g => checkToks (settleSplit (popDeferred g n i pc l m) n 9)
            exitIfDone s s.who.1
          else joinAt s n a t tpc
        | none => joinAt s n a t tpc)
where
  /-- Steps 3 to 5. -/
  joinAt (s : State) (n : Nat) (a : Word) (t : Option Nat) (tpc : Option Word) : State :=
    let (k, g) := mergeSplits (me s) n (mergeable (me s) n a)
    let s := { setMe s g with who := (s.who.1, .split k) }
    match t with
    | some t =>
      if tpc == some a then
        let s := updMe s fun g => checkToks (updSplit g k fun p => { p with wait := some (.join t) })
        exitIfDone s s.who.1
      else advance s 4
    | none => advance s 4

end Sys2Proof.Machine
end

