-- ==== Sys2Proof/Machine/System.lean ====
section
/-! DEFINITION. Special registers, WAITE, FENCE, IDEM and PHINT (R69, R116 to R119, R274, R316, R408 to R413, R423,
R424). -/

namespace Sys2Proof.Machine
open Sys2Proof

/-! ### Special registers (R116 to R119) -/

/-- TIX, TIY and TIZ from TeamLin (R164). -/
def teamCoord (s : State) (g : Group) (k : Nat) : Nat :=
  let l := launchOf s g
  let lin := linOf s g
  match k with
  | 0 => lin % l.ntx
  | 1 => lin / l.ntx % l.nty
  | _ => lin / (l.ntx * l.nty)

/-- WAITC (R297). -/
def waitc (g : Group) : Word :=
  BitVec.ofNat 32 (classCount g 0 + 2 ^ 8 * classCount g 1 + 2 ^ 16 * classCount g 2 + 2 ^ 24 * classCount g 3)

/-- The pending captures of a stream (R119). -/
def captures (g : Group) : Stream → Option Word × Option Word
  | .split n => ((split g n).clkHi, (split g n).timeHi)
  | .aslice => ((slice g).clkHi, (slice g).timeHi)

def setCaptures (g : Group) (st : Stream) (c t : Option Word) : Group :=
  match st with
  | .split n => updSplit g n fun p => { p with clkHi := c, timeHi := t }
  | .aslice => { g with aslice := some { slice g with clkHi := c, timeHi := t } }

/-- QLOSS counts one wait; OVF is set when the count wraps, but not in the cycle of an SWR of QLOSS (R327, R334, R436). -/
def countLoss (q : Word) (fresh : Bool) : Word :=
  let n := (q &&& 0x7FFFFFFF) + 1
  (q &&& 0x80000000) ||| (if fresh then n &&& 0x7FFFFFFF else n)

/-- What a read of QLOSS gives: the count before an increment of the same cycle, with OVF as it leaves it (R327, R436). -/
def readLoss (s : State) (g : Group) : Word :=
  if g.qlossInc = s.clk.toNat + 1 then (g.qloss &&& 0x80000000) ||| ((g.qloss - 1) &&& 0x7FFFFFFF) else g.qloss

/-- A count of QLOSS that wraps it sets OVF in what an SRD of the same cycle returns (R436). -/
def flagLoss (s : State) (g : Group) : Group :=
  if g.lossRead.1 = s.clk.toNat + 1 ∧ g.qloss &&& 0x7FFFFFFF = 0x7FFFFFFF ∧ g.qlossAt ≠ s.clk.toNat + 1 then
    { g with fly := g.fly.map fun f =>
        if !f.w.isV && f.w.stream != .aslice && f.w.reg == g.lossRead.2 then
          { f with w := { f.w with vals := cellSet f.w.vals 0 (cellGet f.w.vals 0 ||| 0x80000000) } }
        else f }
  else g

/-- What an SWR of QLOSS leaves: an increment of the same cycle applies after it (R436). -/
def writeLoss (s : State) (g : Group) (v : Word) : Word := if g.qlossInc = s.clk.toNat + 1 then countLoss v true else v

/-- The value an SRD of number `n` reads. DESIGN CHOICE: SPLIT reads 0 in the address slice, which has no split; the manual gives
it no value there (log 36). -/
def srValue (s : State) (n : Nat) : Word :=
  let g := me s
  let l := launchOf s g
  let t := teamOf s g
  let id := t.launch
  match n with
  | 0x000 => BitVec.ofNat 32 g.gix
  | 0x001 => BitVec.ofNat 32 l.kernel.team
  | 0x002 => BitVec.ofNat 32 (teamCoord s g 0)
  | 0x003 => BitVec.ofNat 32 (teamCoord s g 1)
  | 0x004 => BitVec.ofNat 32 (teamCoord s g 2)
  | 0x005 => BitVec.ofNat 32 l.ntx
  | 0x006 => BitVec.ofNat 32 l.nty
  | 0x007 => BitVec.ofNat 32 l.ntz
  | 0x008 => BitVec.ofNat 32 (spixOf s g)
  | 0x009 => BitVec.ofNat 32 l.kernel.span
  | 0x00A => BitVec.ofNat 32 g.role
  | 0x00B => BitVec.ofNat 32 t.core
  | 0x00C => BitVec.ofNat 32 id
  | 0x00D => BitVec.ofNat 32 (id / 2 ^ 32)
  | 0x00E => match s.who.2 with | .split k => BitVec.ofNat 32 k | .aslice => 0
  | 0x010 => s.clk.extractLsb' 0 32
  | 0x011 => (captures g s.who.2).1.getD (s.clk.extractLsb' 32 32)
  | 0x012 => s.time.extractLsb' 0 32
  | 0x013 => (captures g s.who.2).2.getD (s.time.extractLsb' 32 32)
  | 0x040 => BitVec.ofNat 32 g.rbase
  | 0x041 => BitVec.ofNat 32 g.rext
  | 0x048 => l.heirns
  | 0x080 => BitVec.ofNat 32 t.spbase
  | 0x081 => BitVec.ofNat 32 t.spsize
  | 0x082 => BitVec.ofNat 32 (l.kernel.nbar + 256 * l.kernel.nsbar)
  | 0x0C0 => BitVec.ofNat 32 (mapGetD t.windows g.gix (0, 0)).1
  | 0x0C1 => BitVec.ofNat 32 (mapGetD t.windows g.gix (0, 0)).2
  | 0x0C2 => BitVec.ofNat 32 t.accn
  | 0x100 => g.dri
  | 0x101 => g.dprec
  | 0x102 => g.dstat
  | 0x140 => g.slip
  | 0x141 => readLoss s g
  | 0x180 => g.cring
  | 0x181 => waitc g
  | 0x1C0 => (ctx s (ctxOf s g)).ctxerr
  | 0x1C1 => g.tcause
  | 0x1C2 => (ctx s (ctxOf s g)).dbgw
  | 0x200 => g.repro
  | 0x202 => g.seed
  | 0x240 => g.csess
  | 0x241 => (part s (partOf s g)).xpol
  | _ => 0

/-- What an SRD captures, or uses up (R119). -/
def srCapture (s : State) (n : Nat) : State :=
  updMe s fun g =>
    let (c, t) := captures g s.who.2
    match n with
    | 0x010 => setCaptures g s.who.2 (some (s.clk.extractLsb' 32 32)) t
    | 0x011 => setCaptures g s.who.2 none t
    | 0x012 => setCaptures g s.who.2 c (some (s.time.extractLsb' 32 32))
    | 0x013 => setCaptures g s.who.2 c none
    | _ => g

/-- The special register number of SRD and SWR: A:B. -/
def srNumber (f : Head) : Nat := 64 * f.a.toNat + f.b.toNat

/-- SRD (R116). -/
def execSrd (f : Head) (s : State) : Out :=
  .next (plainOp s (.srd f) fun s =>
    let v := srValue s (srNumber f)
    let s := updMe s fun g =>
      if srNumber f = 0x141 ∧ s.who.2 ≠ .aslice then { g with lossRead := (s.clk.toNat + 1, f.d.toNat) } else g
    scalResult (srCapture s (srNumber f)) f.d.toNat v 1)

/-- The low `w` bits of a written value; its reserved bits are dropped (R4). -/
def lowBits (v : Word) (w : Nat) : Word := v &&& BitVec.ofNat 32 (2 ^ w - 1)

/-- A written value with 0 read as 1 and the excess over `top` as `top`. -/
def clampReg (v : Word) (top : Nat) : Word := if v = 0 then 1 else if top < v.toNat then BitVec.ofNat 32 top else v

/-- What an SWR of number `n` writes (R165, R297, R327, R375, R433). -/
def srWrite (g : Group) (n : Nat) (v : Word) : Group :=
  match n with
  | 0x100 => { g with dri := clampReg (lowBits v 8) 255 }
  | 0x101 => { g with dprec := clampReg (lowBits v 4) 8 }
  | 0x140 => { g with slip := clampReg (lowBits v 6) 32 }
  | 0x141 => { g with qloss := v }
  | 0x180 => { g with cring := lowBits v 5 }
  | 0x200 => { g with repro := lowBits v 1 }
  | 0x202 => { g with seed := v, count := 0 }
  | 0x240 => { g with csess := lowBits v 8 }
  | _ => g

/-- SWR (R116): a runtime register traps PRIV. -/
def execSwr (f : Head) (s : State) : Out :=
  .next (plainTry s (.swr f) fun s =>
    if srNumber f = 0x1C2 then .stop (trapC s .priv)
    else
      let v := if srNumber f = 0x141 then writeLoss s (me s) (sget s f.d) else sget s f.d
      .done (updMe s fun g =>
        srWrite { g with qlossAt := if srNumber f = 0x141 then s.clk.toNat + 1 else g.qlossAt } (srNumber f) v))

/-! ### WAITE, FENCE, IDEM -/

/-- WAITE c, n (R292, R316). -/
def execWaite (f : Head) (s : State) : Out :=
  .next (plainTry s (.waite f) fun s =>
    if classCount (me s) f.ty.toNat ≤ f.b.toNat then .done s else .stop (block s .retry))

/-- Both streams are of one slice. -/
def sameSlice : Stream → Stream → Bool
  | .aslice, .aslice => true
  | .split _, .split _ => true
  | _, _ => false

/-- A load or atomic of the slice has not returned (R274). Stores and ordered adds are performed as they issue. -/
def accessesOut (g : Group) (st : Stream) : Bool := g.pend.any fun p => p.op.isSome && sameSlice p.stream st

/-- The release at a scope: 0 group, 1 core, 2 cluster, 3 device, 4 system (R261). -/
def releaseAt (s : State) (scope : Nat) : State := if 2 ≤ scope then writeBackAll s (coreOf s (me s)) else s

/-- The acquire at a scope (R261). -/
def acquireAt (s : State) (scope : Nat) : State := if 2 ≤ scope then dropClean s (coreOf s (me s)) else s

/-- FENCE (R261, R274): TY 0 .ar, 1 .rel, 2 .acq, 3 .sc. -/
def execFence (f : Head) (s : State) : Out :=
  .next (plainTry s (.fence f) fun s =>
    if accessesOut (me s) s.who.2 then .stop (block s .retry)
    else
      let scope := f.b.toNat % 8
      let s := if f.ty != 2 then releaseAt s scope else s
      .done (if f.ty != 1 then acquireAt s scope else s))

/-- IDEM (R424). -/
def execIdem (f : Head) (s : State) : Out :=
  .next (plainOp s (.idem f) fun s =>
    updMe s fun g =>
      let g := freeHeld g
      match s.who.2 with
      | .split n => updSplit g n fun p => { p with restart := nextPc p.pc 4, restartable := true, marked := true, first := true, tries := 0 }
      | .aslice => g)

/-! ### PHINT (R408 to R413, R423) -/

/-- The end of a range register's range in bytes. -/
def rangeEnd (v : Word) : Nat := ((v.extractLsb' 0 16).toNat + (v.extractLsb' 16 16).toNat) * 64

/-- A range register's range: first byte and byte count. -/
def rangeOf (v : Word) : Nat × Nat := ((v.extractLsb' 0 16).toNat * 64, (v.extractLsb' 16 16).toNat * 64)

/-- The queues the hint names live: q0 to q3, sq0 to sq3, and the token queue. -/
def hintQ (f : Head) (k : Nat) : Bool := f.d.getLsbD k
def hintSq (u : Word) (k : Nat) : Bool := u.getLsbD (28 + k)
def hintTok (f : Head) : Bool := f.d.getLsbD 4

/-- Every queue that the hint does not name is empty (R412). -/
def unnamedEmpty (g : Group) (f : Head) (u : Word) : Bool :=
  ((List.range 4).all fun k => (hintQ f k || (opQ g k).isEmpty) && (hintSq u k || (stQ g k).isEmpty))
    && (hintTok f || g.toks.isEmpty)

/-- After a hint the registers that it does not name read as zero, and what is still to arrive in them is discarded (R399,
R413). -/
def keepRegs (g : Group) (regs : List Nat) : Group :=
  { g with
    vregs := g.vregs.filter fun e => has regs (e.1 / 96)
    pend := g.pend.map fun p => { p with writes := p.writes.filter fun w => !w.isV || has regs w.reg }
    claims := g.claims.map fun c => { c with lost := (c.regs ++ [c.vs]).filter fun k => !has regs k } }

/-- The record of a stop once its image has found room. -/
def laterRecord (s : State) (gid : Nat) : State :=
  match (grp s gid).state with
  | .stopped t st => trapRecord s gid st t false false
  | .parked => trapRecord s gid (.split 0) { cause := .hintto } false false
  | _ => s

/-- Tries again to write the image of a group whose save found no room (R417). -/
def retrySave (s : State) (gid : Nat) : State :=
  let g := grp s gid
  if g.recordDue && g.image.isNone && (match g.state with | .stopped .. | .parked => true | _ => false) then
    let s := writeImage s gid
    if (grp s gid).image.isSome then
      let s := laterRecord s gid
      match g.hintRegs with
      | some regs => if g.state == .parked then updGrp s gid fun g => keepRegs g regs else s
      | none => s
    else s
  else s

/-- The saves and the phase records of a context that wait for room are tried again: when the runtime enlarges an area, and at
every later save point (R417). -/
def retryAreas (s : State) (cx : Nat) : State :=
  retryRecords ((s.groups.map (·.1)).foldl (fun s gid => if ctxOf s (grp s gid) = cx then retrySave s gid else s) s) cx

/-- A group stopped at a save point is saved: by its hint, or in full (R408, R411, R413). Saves that
still wait for room are tried again first (R417). -/
def saveGroup (s : State) (gid : Nat) (hint : Option (List Nat × List (Nat × Nat))) : State :=
  let (s, ops) := takeOps (retryAreas s (ctxOf s (grp s gid))) gid
  let s := leaveQueues (stopGroup s gid) gid
  let s := updGrp s gid fun g =>
    { g with
      state := .parked, preempt := false, abandoned := g.abandoned ++ ops
      hintRegs := hint.map (·.1), hintRanges := (hint.map (·.2)).getD [] }
  let s := traceGroup (writeImage s gid) gid 4 none none []
  match hint, (grp s gid).image with
  | some (regs, _), some _ => updGrp s gid fun g => keepRegs g regs
  | _, none => trapRecord s gid (.split 0) { cause := .hintto } true false
  | none, some _ => s

/-- PHINT (R412, R423). -/
def execPhint (f : Head) (t u : Word) (s : State) : Out :=
  .next (plainTry s (.phint f t u) fun s =>
    let g := me s
    let regs := (List.range 60).filter fun k => if k < 32 then t.getLsbD k else u.getLsbD (k - 32)
    let size := (teamOf s g).spsize
    let qmap := (List.range 5).any (fun k => f.d.getLsbD k) || (List.range 4).any (hintSq u)
    if size < rangeEnd (sget s f.a) ∨ size < rangeEnd (sget s f.b) then .stop (trapC s .spbnd)
    else if regs.any fun k => decide (topReg g ≤ k) then .stop (trapC s .rfover)
    else if g.aslice.isNone && qmap then .stop (trapC s .quse)
    else if g.preempt && decide (g.splits.length = 1) && unnamedEmpty g f u then
      let ranges := ([rangeOf (sget s f.a), rangeOf (sget s f.b)]).filter fun r => r.2 != 0
      .stop (saveGroup (advance s 12) s.who.1 (some (regs, ranges)))
    else .done s)

end Sys2Proof.Machine
end

