-- ==== Sys2Proof/Machine/LoadStore.lean ====
section
/-! DEFINITION. Loads, stores and atomics of device memory: majors 0x07, 0x20, 0x21, 0x23 and 0x25, the return of loads
and the check of translations (R113 to R115, R256 to R273, R519). -/

namespace Sys2Proof.Machine
open Sys2Proof

/-! ### Access checks (R256, R257, R519) -/

/-- One access of an instruction: its lane, 96 for a scalar one, and its address. -/
abbrev Access := Nat × Addr

def accessLane (l : Nat) : Option Nat := if l < 96 then some l else none

/-- Translation of one access; `refuse` gives a further reason by physical address. A walk that fails is reported at
once; one that passes, or finds ZP set, leaves the access waiting for it. -/
def xlateAccess (s : State) (g : Group) (kind : Nat) (refuse : Nat → Option Nat) (va : Addr) : Xlate :=
  match xlateTlb s (coreOf s g) (ctxOf s g) va kind with
  | .ok pa uc => match refuse pa with | some r => .fail r | none => .ok pa uc
  | .miss =>
    match xlateWalk s (ctxOf s g) va kind with
    | .fail r => .fail r
    | .ok pa _ => match refuse pa with | some r => .fail r | none => .miss
    | _ => .miss
  | x => x

/-- What the checks of an instruction's accesses give: the physical address and UC bit of each, or a state in which it
has trapped or waits for translation. -/
inductive Checked where
  | ok (at_ : List (Nat × Nat × Bool))
  | stop (s : State)

/-- ALIGN, translation and watchpoints, before any effect; the lowest failing lane is reported. -/
def checkAccesses (s : State) (acc : List Access) (size kind : Nat) (refuse : Nat → Option Nat) : Checked :=
  let g := me s
  match acc.find? fun a => a.2.toNat % size != 0 with
  | some a => .stop (trap s { cause := .align, lane := accessLane a.1, addr := some a.2, kind := kind })
  | none =>
    let xs := acc.map fun a => (a, xlateAccess s g kind refuse a.2)
    match xs.findSome? fun x => match x.2 with | .fail r => some (x.1, r) | _ => none with
    | some (a, r) =>
      .stop (trap s { cause := causeOf r, lane := accessLane a.1, addr := some a.2, kind := kind, reason := r })
    | none =>
      if xs.any fun x => x.2 == .miss then .stop (block s (.xlate (acc.map fun a => (a.1, a.2, kind))))
      else
        match acc.findSome? fun a => (watched s g a.2 size kind).map fun w => (a, w) with
        | some (a, w) => .stop (trap s { cause := .watch, lane := accessLane a.1, addr := some a.2, kind := kind, code := w })
        | none => .ok (xs.filterMap fun x => match x.2 with | .ok pa uc => some (x.1.1, pa, uc) | _ => none)

def noRefusal (_ : Nat) : Option Nat := none

/-- A class-0 operation issues and is performed at once (R291). -/
def countDone (s : State) (cls : Nat) : State :=
  let (id, s) := freshId s
  updMe s fun g => classDone (classStart g cls id) cls id

/-- The class counter stands at 63, so that the instruction does not issue (R291). -/
def classFull (s : State) (cls : Nat) : Bool := decide (63 ≤ classCount (me s) cls)

/-- Register results that return later, as an operation of class 0 where `counted` (R50, R291). -/
def pendWrites (s : State) (ws : List RegWrite) (counted : Bool) (far : AMap Lanes := []) : State :=
  let (id, s) := freshId s
  updMe s fun g =>
    let g := if counted then classStart g 0 id else g
    { g with pend := g.pend ++ [{ id := id, writes := ws, op := if counted then some id else none, stream := s.who.2, far := far }] }

/-- The lanes that read a peer's memory, by peer, or under 512 the host's; lane 96 stands for `whole` (R514, R533). -/
def farReads (s : State) (whole : Lanes) (at_ : List (Nat × Nat × Bool)) : AMap Lanes :=
  at_.foldl (fun m e => addFar s m e.2.1 (if e.1 < 96 then laneBit e.1 else whole)) []

/-- Results of registers k to k + n − 1 in some lanes; lane i of register j at key 96j + i of `vals`. -/
def vectorWrites (s : State) (k n : Nat) (lanes : Lanes) (vals : Cells 32) : List RegWrite :=
  (List.range n).map fun j =>
    { isV := true, reg := k + j, mask := lanes, vals := pack lanes fun i => cellGet vals (96 * j + i), stream := s.who.2 }

def scalarWrite (s : State) (r : Nat) (v : Word) : RegWrite :=
  { isV := false, reg := r, vals := cellSet [] 0 v, stream := s.who.2 }

/-- Word j of a list of bytes. -/
def wordAt (bs : List Byte) (j : Nat) : Word := BitVec.ofNat 32 (leNat ((bs.drop (4 * j)).take 4))

/-! ### VLD and VST (R263 to R265) -/

/-- EA of R263: `form` 0 zero-extended, 1 sign-extended, 2 zero-extended × 4. -/
def laneEa (base : Addr) (form : Nat) (o : Word) : Addr :=
  base + (match form with | 0 => o.setWidth 64 | 1 => o.signExtend 64 | _ => o.setWidth 64 * 4)

def laneAccesses (lanes : Lanes) (ea : Nat → Addr) : List Access := (lanesOf lanes).map fun i => (i, ea i)

/-- Bytes and registers of VLD and VST by minor. -/
def vldSize (k : Nat) : Nat := [1, 1, 2, 2, 4, 8, 16, 4].getD k 4
def vldRegs (k : Nat) : Nat := [1, 1, 1, 1, 1, 2, 4, 1].getD k 1
def vstSize (k : Nat) : Nat := [1, 2, 4, 8, 16, 4].getD k 4
def vstRegs (k : Nat) : Nat := [1, 1, 1, 2, 4, 1].getD k 1

/-- The loaded word of register j, extended per the minor. -/
def vldWord (k : Nat) (bs : List Byte) (j : Nat) : Word :=
  match k with
  | 1 => (BitVec.ofNat 8 (leNat bs)).signExtend 32
  | 3 => (BitVec.ofNat 16 (leNat bs)).signExtend 32
  | _ => wordAt bs j

/-- Reads of the lanes, ascending: values, and lanes that read poison (R258). -/
def loadFrom (c size n : Nat) (alloc : Bool) (word : List Byte → Nat → Word) :
    State → List (Nat × Nat × Bool) → State × Cells 32 × Lanes
  | s, [] => (s, [], 0)
  | s, (i, pa, uc) :: rest =>
    if coreBad s c pa size then
      let (s, vals, dead) := loadFrom c size n alloc word s rest
      (s, vals, dead ||| laneBit i)
    else
      let (s, bs) := coreRead s c pa size (alloc && !uc)
      let (s, vals, dead) := loadFrom c size n alloc word s rest
      (s, (List.range n).foldl (fun m j => cellSet m (96 * j + i) (word bs j)) vals, dead)

/-- VLD (R263, R264). -/
def execVld (k : BitVec 3) (f : Head) (s : State) : Out :=
  .next (laneTry s (.vld k f) (some f.a) none fun s lanes a _ =>
    if lanes = 0 then .done s
    else if classFull s 0 then .stop (block s .retry)
    else
      let base := pget s f.b
      let size := vldSize k.toNat
      let n := vldRegs k.toNat
      match checkAccesses s (laneAccesses lanes fun i => laneEa base f.ty.toNat (a i)) size 0 noRefusal with
      | .stop s => .stop s
      | .ok at_ =>
        let (s, vals, dead) := loadFrom (coreOf s (me s)) size n (k != 7) (vldWord k.toNat) s at_
        .done (pendWrites s (vectorWrites s f.d.toNat n (lanes &&& ~~~ dead) vals) true (farReads s 0 at_)) dead)

/-- The stored bytes of lane i. -/
def vstBytes (s : State) (k d i : Nat) : List Byte :=
  ((List.range (vstRegs k)).flatMap fun j => leBytes (readV (me s) (d + j) i).toNat 4).take (vstSize k)

/-- VST (R263, R264): lanes ascending. -/
def execVst (k : BitVec 3) (f : Head) (s : State) : Out :=
  .next (laneTry s (.vst k f) (some f.a) none fun s lanes a _ =>
    if lanes = 0 then .done s
    else if classFull s 0 then .stop (block s .retry)
    else
      let base := pget s f.b
      match checkAccesses s (laneAccesses lanes fun i => laneEa base f.ty.toNat (a i)) (vstSize k.toNat) 1 noRefusal with
      | .stop s => .stop s
      | .ok at_ =>
        let c := coreOf s (me s)
        let src := s
        let s := at_.foldl (fun s e => coreWrite s c e.2.1 (vstBytes src k.toNat f.d.toNat e.1) (k != 5 && !e.2.2)) s
        let cachedAt := (at_.filter fun e => k != 5 && !e.2.2).map fun e => e.2.1
        let otherAt := (at_.filter fun e => k == 5 || e.2.2).map fun e => e.2.1
        .done (countDone (storeClean (storeClean s c cachedAt (vstSize k.toNat) true) c otherAt (vstSize k.toNat) false) 0))

/-! ### SLD, SST, SLDK (R113 to R115) -/

/-- EA of R113. -/
def scalarEa (s : State) (f : Head) (size : Nat) : Addr :=
  pget s f.a + (if f.ty == 0 then BitVec.ofNat 64 (f.b.toNat * size) else (sget s f.b).setWidth 64)

/-- The lanes that a poisoned SLD kills: the split's members, or every living lane of the group (R258). -/
def chargedLanes (s : State) : Lanes :=
  match s.who.2 with
  | .split n => (split (me s) n).members
  | .aslice => livingLanes (me s)

/-- SLD of 4 or 8 bytes. -/
def scalarLoad (s : State) (i : Instr) (f : Head) (size : Nat) : State :=
  plainTry s i fun s =>
    if classFull s 0 then .stop (block s .retry)
    else
      match checkAccesses s [(96, scalarEa s f size)] size 0 noRefusal with
      | .stop s => .stop s
      | .ok at_ =>
        let (_, pa, uc) := at_.headD (96, 0, false)
        if coreBad s (coreOf s (me s)) pa size then .done (countDone s 0) (chargedLanes s)
        else
          let (s, bs) := coreRead s (coreOf s (me s)) pa size (!uc)
          let ws := (List.range (size / 4)).map fun j => scalarWrite s (f.d.toNat + j) (wordAt bs j)
          .done (pendWrites s ws true (farReads s (chargedLanes s) at_))

/-- SST of 4 or 8 bytes. -/
def scalarStore (s : State) (i : Instr) (f : Head) (size : Nat) : State :=
  plainTry s i fun s =>
    if classFull s 0 then .stop (block s .retry)
    else
      match checkAccesses s [(96, scalarEa s f size)] size 1 noRefusal with
      | .stop s => .stop s
      | .ok at_ =>
        let (_, pa, uc) := at_.headD (96, 0, false)
        let v := if size = 8 then (pget s f.d).toNat else (sget s f.d).toNat
        .done (countDone (coreWrite s (coreOf s (me s)) pa (leBytes v size) (!uc)) 0)

/-- SLD.32 (R113). -/
def execSld_32 (f : Head) (s : State) : Out := .next (scalarLoad s (.sld_32 f) f 4)

/-- SLD.64 (R113). -/
def execSld_64 (f : Head) (s : State) : Out := .next (scalarLoad s (.sld_64 f) f 8)

/-- SST.32 (R113). -/
def execSst_32 (f : Head) (s : State) : Out := .next (scalarStore s (.sst_32 f) f 4)

/-- SST.64 (R113). -/
def execSst_64 (f : Head) (s : State) : Out := .next (scalarStore s (.sst_64 f) f 8)

/-- SLDK (R115): words beyond the argument block read as zero. -/
def execSldk (f : Head) (s : State) : Out :=
  .next (plainOp s (.sldk f) fun s =>
    let k := 64 * f.a.toNat + f.b.toNat
    let l := launchOf s (me s)
    let word := fun j => if 4 * j < l.argl then cellGet l.args j else 0
    let s := updMe s fun g => writeS g s.who.2 f.d.toNat (word k)
    if f.ty == 1 then updMe s fun g => writeS g s.who.2 (f.d.toNat + 1) (word (k + 1)) else s)

/-! ### ATOM (R261, R262, R266 to R268) -/

/-- The new value of a location: add, min, max, and, or, xor, exch, cas (R228, R266). -/
def atomValue {w : Nat} (op : Nat) (signed : Bool) (old v c : BitVec w) : BitVec w :=
  match op with
  | 0 => old + v
  | 1 => if (if signed then v.slt old else v.ult old) then v else old
  | 2 => if (if signed then old.slt v else old.ult v) then v else old
  | 3 => old &&& v
  | 4 => old ||| v
  | 5 => old ^^^ v
  | 6 => v
  | _ => if old = c then v else old

/-- The value of a 32-bit or 64-bit operand of a lane. -/
def laneOperand (g : Group) (wide : Bool) (k i : Nat) : Addr :=
  if wide then readV g (k + 1) i ++ readV g k i else (readV g k i).setWidth 64

/-- The new value in the operation's width. -/
def atomNew (op : Nat) (signed wide : Bool) (old v c : Addr) : Addr :=
  if wide then atomValue op signed old v c
  else (atomValue op signed (old.setWidth 32) (v.setWidth 32) (c.setWidth 32) : Word).setWidth 64

/-- Host memory performs add, exch and cas only (R267). -/
def hostAtomic (s : State) (op pa : Nat) : Option Nat :=
  if regionOf s pa = .host ∧ op ≠ 0 ∧ op ≠ 6 ∧ op ≠ 7 then some 8 else none

/-- The operations of the lanes, ascending: old values, and lanes whose line is poisoned. -/
def atomFrom (src : Group) (op : Nat) (signed wide : Bool) (v c : Nat) :
    State → List (Nat × Nat × Bool) → State × Cells 32 × Lanes
  | s, [] => (s, [], 0)
  | s, (i, pa, _) :: rest =>
    let size := if wide then 8 else 4
    if poisoned s pa size then
      let (s, vals, dead) := atomFrom src op signed wide v c s rest
      (s, vals, dead ||| laneBit i)
    else
      let old : Addr := BitVec.ofNat 64 (leNat (homeRead s pa size))
      let new := atomNew op signed wide old (laneOperand src wide v i) (laneOperand src wide c i)
      let s := homeWrite s pa (leBytes new.toNat size) { group := s.who.1 }
      let (s, vals, dead) := atomFrom src op signed wide v c s rest
      let vals := cellSet vals i (old.extractLsb' 0 32)
      (s, if wide then cellSet vals (96 + i) (old.extractLsb' 32 32) else vals, dead)

/-- The lines of some accesses. -/
def accessLines (at_ : List (Nat × Nat × Bool)) : List Nat := at_.map fun e => e.2.1 / 64

/-- The issuing core's L1 gives up its copies of lines that the cluster cache takes exclusively (R267). -/
def yieldLines (s : State) (c : Nat) (ls : List Nat) : State :=
  ls.foldl (fun s l => cleanLine (writeBackLine s c l) c l) s

/-- The record of a core-scope release (R262). -/
def recordRelease (s : State) (c : Nat) (ls : List Nat) : State :=
  ls.foldl (fun s l => if cached s (64 * l) then { s with relRecs := mapPut s.relRecs l (mapPut (mapGetD s.relRecs l []) c (core s c).l1seq) } else s) s

/-- The write-back that an RSP acquire draws from the releasing cores: from each whose release of the word the value read may
follow (R262, R282). -/
def promote (s : State) (c : Nat) (ls : List Nat) : State :=
  ls.foldl (fun s l =>
    (mapGetD s.relRecs l []).foldl (fun s r => if r.1 = c then s else writeBackUpTo s r.1 r.2) s) s

/-- ATOM (R266): release, operation, acquire. -/
def execAtom (k : BitVec 3) (f : Head) (t : Word) (s : State) : Out :=
  .next (laneTry s (.atom k f t) (some f.a) none fun s lanes a _ =>
    let ord := (t.extractLsb' 29 3).toNat
    let scope := (t.extractLsb' 26 3).toNat
    let isRel := decide (ord = 2 ∨ ord = 3 ∨ ord = 4)
    let isAcq := decide (ord = 1 ∨ ord = 3 ∨ ord = 4)
    if lanes != 0 && classFull s 0 then .stop (block s .retry)
    else
      let base := pget s f.b
      let wide := decide (2 ≤ f.ty.toNat)
      let form := (t.extractLsb' 8 2).toNat
      match checkAccesses s (laneAccesses lanes fun i => laneEa base form (a i)) (if wide then 8 else 4) 2
          (hostAtomic s k.toNat) with
      | .stop s => .stop s
      | .ok at_ =>
        let g := me s
        let c := coreOf s g
        let ls := accessLines at_
        let s := if isRel then releaseAt s scope else s
        let s := if isAcq && t.getLsbD 25 then promote s c ls else s
        let s := yieldLines s c ls
        let (s, vals, dead) := atomFrom g k.toNat (f.ty == 0 || f.ty == 2) wide (t.extractLsb' 10 6).toNat
          (t.extractLsb' 16 6).toNat s at_
        let s := yieldLines s c ls
        let s := if (ord == 2 || ord == 3) && scope == 1 then recordRelease s c ls else s
        let s := if isAcq then acquireAt s scope else s
        if lanes = 0 then .done s
        else if t.getLsbD 22 then .done (countDone s 0) dead
        else .done (pendWrites s (vectorWrites s f.d.toNat (if wide then 2 else 1) (lanes &&& ~~~ dead) vals) true (farReads s 0 at_)) dead)

/-! ### FATOM (R269 to R273) -/

/-- The unit takes contributions of HBM and the second tier only (R269). -/
def orderedTarget (s : State) (pa : Nat) : Option Nat := if cached s pa then none else some 9

/-- Contributions held for a partition. -/
def heldIn (s : State) (p : Nat) : Nat :=
  s.launches.foldl (fun n l => if l.2.part = p then n + l.2.contribs.length else n) 0

/-- One contribution under its key (R269). -/
def contribute (g : Group) (l lin : Nat) (bf16 : Bool) (s : State) (i pa : Nat) (v : Word) : State :=
  updLaunch s l fun k =>
    let n := (k.contribs.filter fun c => c.lin == lin && c.gix == g.gix && c.lane == i).length
    { k with contribs := k.contribs ++ [{ pa := pa, bf16 := bf16, lin := lin, gix := g.gix, lane := i, k := n, val := v }] }

/-- The value added: f32, or bf16 widened (R273). -/
def addend (bf16 : Bool) (v : Word) : Nat := if bf16 then v.toNat % 65536 else v.toNat

/-- Unordered adds of the lanes, ascending, at the home. -/
def addFrom (src : Group) (d : Nat) : State → List (Nat × Nat × Bool) → State × Lanes
  | s, [] => (s, 0)
  | s, (i, pa, _) :: rest =>
    if poisoned s pa 4 then
      let (s, dead) := addFrom src d s rest
      (s, dead ||| laneBit i)
    else
      let v := addF fp32 (leNat (homeRead s pa 4)) (readV src d i).toNat
      addFrom src d (homeWrite s pa (leBytes v 4) { group := s.who.1 }) rest

/-- FATOM (R273): MIN 0 .f32.ord, 1 .bf16.ord, 2 .f32.unord. -/
def execFatom (k : BitVec 3) (f : Head) (s : State) : Out :=
  .next (laneTry s (.fatom k f) (some f.a) none fun s lanes a _ =>
    if lanes = 0 then .done s
    else if classFull s 0 then .stop (block s .retry)
    else
      let g := me s
      let ordered := k != 2 || g.repro.getLsbD 0
      let bf16 := k == 1
      let base := pget s f.b
      let refuse := fun pa =>
        if ordered then orderedTarget s pa else if regionOf s pa = .host then some 8 else none
      match checkAccesses s (laneAccesses lanes fun i => laneEa base f.ty.toNat (a i)) (if bf16 then 2 else 4) 2 refuse with
      | .stop s => .stop s
      | .ok at_ =>
        let p := partOf s g
        if ordered then
          if (part s p).addSize < 16 * (heldIn s p + at_.length) then
            let s := if (part s p).addFull then s
              else { updPart s p fun q => { q with addFull := true } with interrupts := s.interrupts ++ [.systemAll p 1] }
            let s := updLaunch s (teamOf s g).launch fun l => { l with areaWait := true }
            .stop (block s .retry)
          else
            .done (countDone
              (at_.foldl (fun s e => contribute g (teamOf s g).launch (linOf s g) bf16 s e.1 e.2.1
                (BitVec.ofNat 32 (addend bf16 (readV g f.d.toNat e.1)))) s) 0)
        else
          let c := coreOf s g
          let ls := accessLines at_
          let (s, dead) := addFrom g f.d.toNat (yieldLines s c ls) at_
          .done (countDone (yieldLines s c ls) 0) dead)

/-! ### Returns and translation checks -/

/-- The stream an event names: 0 to 3 a split, 4 the address slice. -/
def streamOf (n : Nat) : Stream := if n = 4 then .aslice else .split n

/-- A result arrives at its register: of a running group, of a stopped one and its image, or of a saved one whose
image keeps the register (R50, R399). -/
def deliver (s : State) (gid : Nat) (w : RegWrite) : State :=
  let g := grp s gid
  let keep := match g.hintRegs with
    | some rs => !w.isV || has rs w.reg
    | none => true
  if !keep then s
  else
    let s := updGrp s gid fun g =>
      if w.isV then writeV g w.reg w.mask fun i => cellGet w.vals i else writeS g w.stream w.reg (cellGet w.vals 0)
    if g.image.isSome then patchImage s gid w else s

/-- LOAD_RETURN: the result with this number arrives and its operation is complete (R50, R264, R291). -/
def execLoadReturn (group load : Nat) (s : State) : Out :=
  .next (match (grp s group).pend.find? fun p => p.id == load with
    | none => s
    | some p =>
      let s := updGrp s group fun g => { g with pend := g.pend.filter fun q => q.id != load }
      let s := p.writes.foldl (fun s w => deliver s group w) s
      match p.op with
      | some op => updGrp s group fun g => classDone g 0 op
      | none => s)

/-- TRANSLATION_CHECK_DONE: the walks that a stream waits for have ended (R252 to R257). -/
def execTranslationCheckDone (group stream : Nat) (s : State) : Out :=
  .next (
    let st := streamOf stream
    let g := grp s group
    match waitOf g st with
    | some (.xlate reqs) =>
      let c := coreOf s g
      let cx := ctxOf s g
      let s := reqs.foldl (fun s r => tlbFill s c cx r.2.1) s
      let res := reqs.map fun r =>
        (r, match xlateTlb s c cx r.2.1 r.2.2 with | .miss => xlateWalk s cx r.2.1 r.2.2 | x => x)
      match res.findSome? fun x => match x.2 with | .fail r => some (x.1, r) | _ => none with
      | some (r, reason) =>
        let s := updGrp s group fun g => setWait g st none
        takeTrap s group st { cause := causeOf reason, lane := accessLane r.1, addr := some r.2.1, kind := r.2.2, reason := reason }
      | none =>
        let zeros := res.filterMap fun x => if x.2 == .zero then some x.1.2.1 else none
        updGrp s group fun g => setWait g st (if zeros.isEmpty then none else some (.zero zeros))
    | _ => s)

/-- L1_EVICTION: a line's dirty bytes reach its home and the line leaves the L1 (R248). -/
def execL1Eviction (core line : Nat) (s : State) : Out :=
  .next (updCore (writeBackLine s core line) core fun k => { k with l1 := mapDel k.l1 line })

end Sys2Proof.Machine
end

