-- ==== Sys2Proof/Machine/Scratch.lean ====
section
/-! DEFINITION. Scratchpad access, barriers, and the monitor: majors 0x22, 0x24, 0x26 and 0x28 (R221 to R241). -/

namespace Sys2Proof.Machine
open Sys2Proof

/-! ### Banks and checks (R221, R222, R226) -/

/-- The stripes that some words touch, as bank + 32 × stripe, each once. -/
def stripesOf (addrs : List Nat) : List Nat := addrs.foldl (fun m a => addTo m (a / 4 % 32 + 32 * (a / 512))) []

/-- C of R222 without cycles lost to other requesters: the most stripes of one bank. -/
def bankCost (addrs : List Nat) : Nat :=
  let st := stripesOf addrs
  (List.range 32).foldl (fun n b => max n (st.filter fun x => x % 32 == b).length) 0

/-- Requesters that may be served ahead of the lane ports are at work on a core: a matrix engine, a copy or a write-out (R224). -/
def banksShared (k : Core) : Bool :=
  (k.eng0 ++ k.eng1).any (fun o => o.started && !o.committed) || !k.copies.isEmpty || !k.outgoing.isEmpty

/-- C of R222, with the cycles that the bank loses to other requesters, which event 5 counts (R522). How many it loses, up to the bound
of R224, is a free value (log 10). -/
def bankCycles (s : State) (addrs : List Nat) : State × Nat :=
  let c := coreOf s (me s)
  if addrs.isEmpty || !banksShared (core s c) then (s, bankCost addrs)
  else
    let lost := (Config.freeByte s.fresh).toNat % 9
    (countEvent { s with fresh := s.fresh + 1 } c 5 lost, bankCost addrs + lost)

/-- Freezes the issuing quad for `n` cycles (R80). -/
def freezeQuad (s : State) (n : Nat) : State :=
  let g := me s
  updQuad s (coreOf s g) g.quad fun q => { q with owed := q.owed + n }

/-- The freeze, and the stall beyond it, of an access of cost `c`: both follow the third beat cycle (R222). -/
def payBanks (s : State) (c : Nat) : State :=
  let s := if 3 < c then freezeQuad s (min c 11 - 3) else s
  if 11 < c then stallFor s (c - 9) else s

/-- A lane and its scratchpad byte offset. -/
abbrev SpAccess := Nat × Nat

/-- ALIGN and SPBND, before any effect; the lowest such lane is reported (R226, R227). -/
def checkSp (s : State) (acc : List SpAccess) (size kind : Nat) : Option State :=
  let info := fun (c : Cause) (a : SpAccess) =>
    trap s { cause := c, lane := some a.1, addr := some (BitVec.ofNat 64 a.2), kind := kind }
  match acc.find? fun a => a.2 % size != 0 with
  | some a => some (info .align a)
  | none => (acc.find? fun a => decide ((teamOf s (me s)).spsize < a.2 + size)).map (info .spbnd)

def spAccesses (lanes : Lanes) (a : Nat → Word) (off : Nat) : List SpAccess :=
  (lanesOf lanes).map fun i => (i, (a i).toNat + off)

/-- The word addresses of some accesses of n words. -/
def spWords (acc : List SpAccess) (n : Nat) : List Nat := acc.flatMap fun a => (List.range n).map fun j => a.2 + 4 * j

/-! ### VLDS and VSTS (R226, R227) -/

/-- VLDS of n words. -/
def spLoad (s : State) (i : Instr) (f : Head) (n : Nat) : State :=
  laneTry s i (some f.a) none fun s lanes a _ =>
    let acc := spAccesses lanes a (16 * f.b.toNat)
    match checkSp s acc (4 * n) 0 with
    | some s => .stop s
    | none =>
      let tid := (me s).team
      let dead := (acc.filter fun x => spBad s tid x.2 (4 * n)).foldl (fun m x => m ||| laneBit x.1) 0
      let live := lanes &&& ~~~ dead
      let vals := acc.foldl (fun m x =>
        (List.range n).foldl (fun m j =>
          cellSet m (96 * j + x.1) (BitVec.ofNat 32 (leNat (spRead s tid (x.2 + 4 * j) 4)))) m) ([] : Cells 32)
      let (s, c) := bankCycles s (spWords acc n)
      let s := payBanks s c
      if 11 < c then .done (pendWrites s (vectorWrites s f.d.toNat n live vals) false) dead
      else
        .done ((List.range n).foldl (fun s j => flyV s (f.d.toNat + j) live (fun i => cellGet vals (96 * j + i)) 10) s) dead

/-- The poisoned sectors that the accesses of one VSTS cover whole are clean again (R225, R227). -/
def spClean (s : State) (tid : Nat) (acc : List SpAccess) (size : Nat) : State :=
  updTeam s tid fun t =>
    { t with spPoison := t.spPoison.filter fun q =>
        !((List.range 32).all fun k => acc.any fun x => decide (x.2 ≤ 32 * q + k) && decide (32 * q + k < x.2 + size)) }

/-- VSTS of n words: lanes ascending. -/
def spStore (s : State) (i : Instr) (f : Head) (n : Nat) : State :=
  laneTry s i (some f.a) none fun s lanes a _ =>
    let acc := spAccesses lanes a (16 * f.b.toNat)
    match checkSp s acc (4 * n) 1 with
    | some s => .stop s
    | none =>
      let g := me s
      let s := acc.foldl (fun s x =>
        spPut s g.team x.2 ((List.range n).flatMap fun j => leBytes (readV g (f.d.toNat + j) x.1).toNat 4)) s
      let (s, c) := bankCycles (spClean s g.team acc (4 * n)) (spWords acc n)
      .done (payBanks s c)

/-- VLDS.32 (R226). -/
def execVlds_32 (f : Head) (s : State) : Out := .next (spLoad s (.vlds_32 f) f 1)

/-- VLDS.64 (R226). -/
def execVlds_64 (f : Head) (s : State) : Out := .next (spLoad s (.vlds_64 f) f 2)

/-- VLDS.128 (R226). -/
def execVlds_128 (f : Head) (s : State) : Out := .next (spLoad s (.vlds_128 f) f 4)

/-- VSTS.32 (R226). -/
def execVsts_32 (f : Head) (s : State) : Out := .next (spStore s (.vsts_32 f) f 1)

/-- VSTS.64 (R226). -/
def execVsts_64 (f : Head) (s : State) : Out := .next (spStore s (.vsts_64 f) f 2)

/-- VSTS.128 (R226). -/
def execVsts_128 (f : Head) (s : State) : Out := .next (spStore s (.vsts_128 f) f 4)

/-! ### ATOMS (R228, R229) -/

/-- The new word: integers as ATOM, .f32 with one rounding. -/
def atomsNew (op ty : Nat) (old v c : Word) : Word :=
  if ty = 2 then
    BitVec.ofNat 32 (match op with
      | 0 => addF fp32 old.toNat v.toNat
      | 1 => minF fp32 old.toNat v.toNat
      | _ => maxF fp32 old.toNat v.toNat)
  else atomValue op (ty == 0) old v c

/-- The operations of the lanes, ascending: old values, and lanes whose sector is poisoned. -/
def atomsFrom (op ty tid : Nat) (v c : Nat → Word) : State → List SpAccess → State × Cells 32 × Lanes
  | s, [] => (s, [], 0)
  | s, (i, a) :: rest =>
    if spBad s tid a 4 then
      let (s, vals, dead) := atomsFrom op ty tid v c s rest
      (s, vals, dead ||| laneBit i)
    else
      let old : Word := BitVec.ofNat 32 (leNat (spRead s tid a 4))
      let s := spPut s tid a (leBytes (atomsNew op ty old (v i) (c i)).toNat 4)
      let (s, vals, dead) := atomsFrom op ty tid v c s rest
      (s, cellSet vals i old, dead)

/-- ATOMS (R228). -/
def execAtoms (k : BitVec 3) (f : Head) (t : Word) (s : State) : Out :=
  .next (laneTry s (.atoms k f t) (some f.a) (some f.b) fun s lanes a b =>
    let acc := spAccesses lanes a (4 * (t.toNat % 1024))
    match checkSp s acc 4 2 with
    | some s => .stop s
    | none =>
      let g := me s
      let (s, vals, dead) := atomsFrom k.toNat f.ty.toNat g.team b (readV g (t.extractLsb' 16 6).toNat) s acc
      let (s, c) := bankCycles s (spWords acc 1)
      let s := payBanks s c
      if t.getLsbD 22 || lanes == 0 then .done s dead
      else .done (pendWrites s (vectorWrites s f.d.toNat 1 (lanes &&& ~~~ dead) vals) false) dead)

/-- SCRATCH_ECC_ERROR: an uncorrectable error poisons the sector (R225). -/
def execScratchEccError (team off : Nat) (s : State) : Out := .next (spPoisonSector s team (off / 32))

/-! ### Barriers (R236, R237) -/

/-- A barrier instruction: TY and A name the barrier; an unallotted one traps BARUSE. -/
def barOp (s : State) (i : Instr) (f : Head) (eff : State → Bool → Nat → Barrier → Eff) : State :=
  plainTry s i fun s =>
    let g := me s
    let k := (launchOf s g).kernel
    let sp := f.ty == 1
    let n := f.a.toNat
    if (if sp then k.nsbar else k.nbar) ≤ n then .stop (trapC s .baruse)
    else eff s sp n (barOf s g.team sp n)

/-- BARI (R236). -/
def execBari (f : Head) (s : State) : Out :=
  .next (barOp s (.bari f) f fun s sp n x =>
    let c := (sget s f.b).toNat
    let exp := c % 512
    if exp = 0 ∨ (if sp then 256 else 32) < exp ∨ 10 < c / 4096 % 16 ∨ c / 65536 ≠ 0 ∨ c / 512 % 8 ≠ 0 ∨ x.arr ≠ 0 then
      .stop (trapC s .baruse)
    else
      let tid := (me s).team
      .done (checkBar (updBar s tid sp n fun x => { x with exp := exp, op := c / 4096 % 16 }) tid sp n))

/-- The group has arrived in the current phase. -/
def hasArrived (s : State) (x : Barrier) : Bool := has x.arrived (barKey s (me s))

/-- BARA (R236, R237). -/
def execBara (f : Head) (s : State) : Out :=
  .next (barOp s (.bara f) f fun s sp n x =>
    if hasArrived s x then .stop (trapC s .baruse)
    else .done (arrive (updMe s fun g => writeS g s.who.2 f.d.toNat x.ph) s.who.1 sp n none))

/-- BARW (R236): the return is an acquire (R234). -/
def execBarw (f : Head) (s : State) : Out :=
  .next (barOp s (.barw f) f fun s sp n x =>
    if x.ph = sget s f.b then .stop (block s (.barw sp n x.ph)) else .done (barAcquire s s.who.1 sp))

/-- BARX (R236). -/
def execBarx (f : Head) (s : State) : Out :=
  .next (barOp s (.barx f) f fun s sp n x =>
    let t := x.tx.toInt + (sget s f.b).toNat
    let tid := (me s).team
    if 2 ^ 31 - 1 < t then .stop (trapC s .baruse)
    else .done (checkBar (updBar s tid sp n fun x => { x with tx := BitVec.ofInt 32 t }) tid sp n))

/-- BRED (R236): the split waits for the phase it arrived in, and its completion writes the result. -/
def execBred (f : Head) (s : State) : Out :=
  .next (barOp s (.bred f) f fun s sp n x =>
    if hasArrived s x then .stop (trapC s .baruse)
    else
      let v := sget s f.b
      .stop (arrive (block s (.bred sp n x.ph f.d)) s.who.1 sp n (some v)))

/-- BARQ (R236): selectors 0 EXP, ARR and PH; 1 TX; 2 PH; 3 OP. -/
def execBarq (f : Head) (s : State) : Out :=
  .next (barOp s (.barq f) f fun s _ _ x =>
    let v : Word := match f.b.toNat with
      | 0 => BitVec.ofNat 9 x.exp ++ BitVec.ofNat 9 x.arr ++ x.ph.extractLsb' 0 14
      | 1 => x.tx
      | 2 => x.ph
      | _ => BitVec.ofNat 32 x.op
    .done (updMe s fun g => writeS g s.who.2 f.d.toNat v))

/-- Participants that have neither exited nor been killed. -/
def liveParticipants (s : State) (tid : Nat) (sp : Bool) : Nat :=
  ((barGroups s tid sp).filter fun id => (grp s id).state != .gone).length

/-- BARINV (R236): it releases no waiter. -/
def execBarinv (f : Head) (s : State) : Out :=
  .next (barOp s (.barinv f) f fun s sp n _ =>
    let tid := (me s).team
    let live := liveParticipants s tid sp
    .done (updBar s tid sp n fun x =>
      { x with arr := 0, arrived := [], payload := [], tx := 0, op := 0, exp := live, epoch := x.epoch + 1 }))

/-! ### Monitor (R238 to R241) -/

def arm (s : State) (sp : Bool) (a : Nat) : State :=
  updMe s fun g => { g with monitor := some { sp := sp, line := a / 64 * 64, latch := false } }

/-- MON (R240). -/
def execMon (f : Head) (s : State) : Out :=
  .next (plainTry s (.mon f) fun s =>
    let g := me s
    if f.ty == 0 then
      let va := pget s f.a
      match xlateAccess s g 0 noRefusal va with
      | .fail r => .stop (trap s { cause := causeOf r, addr := some va, kind := 0, reason := r })
      | .ok pa _ => .done (arm s false pa)
      | _ => .stop (block s (.xlate [(96, va, 0)]))
    else
      let a := (sget s f.a).toNat
      if (teamOf s g).spsize ≤ a then .stop (trap s { cause := .spbnd, addr := some (BitVec.ofNat 64 a) })
      else .done (arm s true a))

/-- MWAIT (R240): status 3 unarmed, 0 the latch; else it waits. -/
def execMwait (f : Head) (s : State) : Out :=
  .next (plainTry s (.mwait f) fun s =>
    let put := fun (v : Word) => updMe s fun g => writeS g s.who.2 f.d.toNat v
    match (me s).monitor with
    | none => .done (put 3)
    | some m =>
      if m.latch then .done (updMe (put 0) fun g => { g with monitor := none })
      else
        let n := sget s f.b
        .stop (block s (.mwait (if n = 0 then none else some (s.time + n.setWidth 64)) f.d)))

/-- MCLR (R240). -/
def execMclr (f : Head) (s : State) : Out :=
  .next (plainOp s (.mclr f) fun s => updMe s fun g => { wakeMwait g 2 with monitor := none })

/-- MWAIT_TIMEOUT: the split returns with status 1, and the others that wait with status 2, since its return disarms
the monitor (R238, R240, log 20). -/
def execMwaitTimeout (group split : Nat) (s : State) : Out :=
  .next (updGrp s group fun g =>
    match waitOf g (streamOf split) with
    | some (.mwait (some t) d) =>
      if t ≤ s.time ∧ g.state = .running then { wakeMwait (wake g (streamOf split) [(d.toNat, 1)]) 2 with monitor := none }
      else g
    | _ => g)

/-- LATCH_SET_WITH_NO_WRITE (R238). -/
def execLatchSetWithNoWrite (group : Nat) (s : State) : Out := .next (updGrp s group latch)

end Sys2Proof.Machine
end

