-- ==== Sys2Proof/Machine/Slices.lean ====
section
/-! DEFINITION. The queue instructions of two-slice groups: majors 0x32 and 0x33, the fill of queue entries and the end
of a pop's freeze (R80, R324 to R341). -/

namespace Sys2Proof.Machine
open Sys2Proof

/-- QPUSH (R339): a filled entry with s[A] in all 96 lanes. -/
def execQpush (f : Head) (s : State) : Out :=
  .next (plainTry s (.qpush f) fun s =>
    let g := me s
    let k := f.d.toNat
    if streaming g k || !roomQ g k then .stop (block s .retry)
    else
      let v := sget s f.a
      let (id, s) := freshId s
      .done (updMe s fun g =>
        setOpQ g k (opQ g k ++ [{ id := id, vals := pack (BitVec.allOnes 96) fun _ => v, mask := BitVec.allOnes 96 }])))

/-- The descriptor that QLD, QST and QAFF name: kind 0 memory, 1 memory without allocation, 2 scratchpad. -/
def descOf (s : State) (kind : Nat) (a : Reg) (stride : Word) : LoadDesc :=
  { kind := kind, base := if kind = 2 then (sget s a).setWidth 64 else pget s a, stride := stride.signExtend 64 }

/-- QLD (R331, R339). -/
def execQld (f : Head) (s : State) : Out :=
  .next (plainTry s (.qld f) fun s =>
    let g := me s
    let k := f.d.toNat
    let d := descOf s f.ty.toNat f.a (sget s f.b)
    if streaming g k || !roomQ g k then .stop (block s .retry)
    else
      match loadWaits s s.who.1 d (loadLanes g) with
      | some va => .stop (block s (.zero [va]))
      | none => .done (pushLoad s s.who.1 k d))

/-- The first failing check of a QST's lanes, or the page it waits for. -/
def storeFails (s : State) (d : LoadDesc) (lanes : Lanes) : Option LaneCheck :=
  (lanesOf lanes).findSome? fun i =>
    match checkLane s s.who.1 d 1 i with
    | .fail t => some (.fail t)
    | _ => none

def storeWaits (s : State) (d : LoadDesc) (lanes : Lanes) : Option Addr :=
  (lanesOf lanes).findSome? fun i => match checkLane s s.who.1 d 1 i with | .zero va => some va | _ => none

/-- One lane of a QST, whose checks have passed. -/
def storeLane (s : State) (d : LoadDesc) (e : QEntry) (x : Nat × LaneCheck) : State :=
  let g := me s
  let bs := leBytes (cellGet e.vals x.1).toNat 4
  match x.2 with
  | .sp a => spPut s g.team a bs
  | .mem pa uc => coreWrite s (coreOf s g) pa bs (!uc && d.kind == 0)
  | _ => s

/-- The lanes of a QST: to memory, as one store (R258). -/
def storeLanes (s : State) (d : LoadDesc) (e : QEntry) : State :=
  let xs := (lanesOf e.mask).map fun i => (i, checkLane s s.who.1 d 1 i)
  let out := xs.foldl (fun s x => storeLane s d e x) s
  let at_ := xs.filterMap fun x => match x.2 with | .mem pa uc => some (pa, !uc && d.kind == 0) | _ => none
  let out := storeClean out (coreOf s (me s)) ((at_.filter (·.2)).map (·.1)) 4 true
  storeClean out (coreOf s (me s)) ((at_.filter fun e => !e.2).map (·.1)) 4 false

/-- QST (R339, R340): it waits for a filled head; lanes ascending. -/
def execQst (f : Head) (s : State) : Out :=
  .next (plainTry s (.qst f) fun s =>
    let g := me s
    let k := f.d.toNat
    let d := descOf s f.ty.toNat f.a (sget s f.b)
    match stQ g k with
    | [] => if computeGone g then .stop (trapC s .quse) else .stop (block s .retry)
    | e :: rest =>
      if nowOf s g < e.due || classFull s 0 then .stop (block s .retry)
      else
        match storeFails s d e.mask, storeWaits s d e.mask with
        | some (.fail t), _ => .stop (trap s t)
        | _, some va => .stop (block s (.zero [va]))
        | _, none =>
          let s := updMe s fun g => setStQ g k rest
          .done (countDone (storeLanes s d e) 0))

/-- QTOK (R334, R339). -/
def execQtok (f : Head) (s : State) : Out :=
  .next (plainTry s (.qtok f) fun s =>
    if 16 ≤ (me s).toks.length then .stop (block s .retry)
    else
      let v := sget s f.a
      .done (updMe s fun g => { g with toks := g.toks ++ [v] }))

/-- QWTOK (R334, R339). -/
def execQwtok (f : Head) (s : State) : Out :=
  .next (plainTry s (.qwtok f) fun s =>
    let g := me s
    match g.toks with
    | v :: rest => .done (updMe s fun g => writeS { g with toks := rest, qwCounted := false } s.who.2 f.d.toNat v)
    | [] =>
      if computeGone g then .stop (trapC s .quse)
      else
        .stop (block (if g.qwCounted then s
          else updMe s fun g =>
            { flagLoss s g with qloss := countLoss g.qloss (g.qlossAt == s.clk.toNat + 1), qlossInc := s.clk.toNat + 1, qwCounted := true }) .retry))

/-- QDRN (R339): TY 0 operand queues, 1 store-data queues, 2 tokens. -/
def execQdrn (f : Head) (s : State) : Out :=
  .next (plainOp s (.qdrn f) fun s =>
    updMe s fun g =>
      match f.ty.toNat with
      | 0 =>
        { g with
          q := g.q.map fun e => if f.b.getLsbD e.1 then (e.1, e.2.filter fun x => x.held) else e
          affine := g.affine.filter fun a => !f.b.getLsbD a.q }
      | 1 => { g with sq := g.sq.map fun e => if f.b.getLsbD e.1 then (e.1, []) else e }
      | _ => { g with toks := [] })

/-- QSTAT's fields: in flight, stream active, head faulted, filled, occupied. -/
def qstatWord (inFly : Nat) (aff bad : Bool) (filled occ : Nat) : Word :=
  BitVec.ofNat 32 (2 ^ 24 * inFly + (if aff then 2 ^ 17 else 0) + (if bad then 2 ^ 16 else 0) + 2 ^ 8 * filled + occ)

/-- QSTAT (R339), two cycles on (R340): selectors 0 to 3 operand queues, 4 to 7 store-data queues, 8 tokens. -/
def execQstat (f : Head) (s : State) : Out :=
  .next (plainOp s (.qstat f) fun s =>
    let g := me s
    let n := f.b.toNat
    let v :=
      if n < 4 then
        let es := opQ g n
        let bad := match unpopped es with | e :: _ => !e.pending && !e.faults.isEmpty | [] => false
        qstatWord (inFlight g) (streaming g n) bad (es.filter fun e => !e.pending && e.faults.isEmpty).length es.length
      else if n < 8 then
        let es := stQ g (n - 4)
        qstatWord (inFlight g) false false (es.filter fun e => decide (e.due ≤ nowOf s g)).length es.length
      else qstatWord (inFlight g) false false g.toks.length g.toks.length
    lockS s s.who.1 s.who.2 f.d.toNat v 2)

/-- QAFF (R341): the stream starts; a stream already on the queue makes its pushes first. -/
def execQaff (f : Head) (t : Word) (s : State) : Out :=
  .next (plainOp s (.qaff f t) fun s =>
    let kind := (t.extractLsb' 20 2).toNat
    let d := descOf s kind f.a (sget s f.b)
    let a : Affine :=
      { q := f.d.toNat, kind := kind, base := d.base, stride := d.stride
        step := (readS (me s) s.who.2 (f.b.toNat + 1)).signExtend 64, left := (t.extractLsb' 8 12).toNat }
    updMe s fun g => { g with affine := g.affine ++ [a] })

/-- The first stream of a group that can push: no earlier stream on its queue, room, and no page being zeroed. -/
def readyStream (s : State) (gid : Nat) : Option Affine :=
  let g := grp s gid
  g.affine.find? fun a =>
    g.affine.find? (fun b => b.q == a.q) == some a && roomQ g a.q
      && (loadWaits s gid { kind := a.kind, base := a.base, stride := a.stride } (loadLanes g)).isNone

/-- The streams after one push of `a`; after its last push it ends. -/
def pushed (a : Affine) : List Affine → List Affine
  | [] => []
  | b :: bs =>
    if b = a then (if a.left ≤ 1 then bs else { a with base := a.base + a.step, left := a.left - 1 } :: bs)
    else b :: pushed a bs

/-- One push of a stream (R341). -/
def pushStream (s : State) (gid : Nat) (a : Affine) : State :=
  let s := pushLoad s gid a.q { kind := a.kind, base := a.base, stride := a.stride }
  updGrp s gid fun g => { g with affine := pushed a g.affine }

/-- QUEUE_ENTRY_FILL: every lane of an entry has resolved (R325). -/
def execQueueEntryFill (group queue entry : Nat) (s : State) : Out :=
  .next (updGrp s group fun g =>
    setOpQ g queue ((opQ g queue).map fun e => if e.id = entry then { e with pending := false } else e))

/-- POP_FREEZE_EXPIRE: the instruction is withdrawn and its split waits for the entry (R80). -/
def execPopFreezeExpire (group split : Nat) (s : State) : Out :=
  .next (updGrp s group fun g =>
    match waitOf g (streamOf split) with
    | some .pop => setWait g (streamOf split) (some .late)
    | _ => g)

end Sys2Proof.Machine
end

