-- ==== Sys2Proof/Machine/Estates.lean ====
section
/-! DEFINITION. Estates and phases: major 0x2A, the service of claims, lease close and wills, and the Paddock (R184 to
R217). -/

namespace Sys2Proof.Machine
open Sys2Proof

/-! ### Room in the Hayloft (R187, R417) -/

/-- A request waits for the phase area of a queued group; the record that says so is written once. -/
def waitForArea (s : State) (gid : Nat) : State :=
  if (grp s gid).recordDue then s
  else areaRecord (updGrp s gid fun g => { g with recordDue := true }) gid (.split 0)

/-! ### EBEQ (R194, R209) -/

/-- Tag of position j; a reserved code is stored as 0 (R194). -/
def tagAt (tags : Word) (j : Nat) : Nat :=
  let t := tags.toNat / 2 ^ (4 * j) % 16
  if 10 ≤ t then 0 else t

/-- Tag of position j of a claim's tag word (R194). -/
def claimTag (tags : Word) (j : Nat) : Nat := tags.toNat / 2 ^ (4 * j) % 16

/-- The stored tag word of k registers. -/
def storedTags (tags : Word) (k : Nat) : Word :=
  BitVec.ofNat 32 ((List.range k).foldl (fun n j => n + tagAt tags j * 2 ^ (4 * j)) 0)

/-- Stores the bequest of one lane: in a line of the Hayloft, else in its context's HBM estate area, and where that is full LOST
and counted (R187). DESIGN CHOICE: R187 does not say where an estate stored LOST without a line lies: it is in no Hayloft and no
line of HBM, a claim of it is served at once, and EQRY gives its location as 2 (log 21). -/
def bequeath (cx c : Nat) (e : Estate) (s : State) : State :=
  match makeRoom s c 1 4200 with
  | .free s => storeEstate s cx { e with core := some c }
  | .full s | .busy s | .wait s _ =>
    match estateSlot (ctx s cx) with
    | some i =>
      let e := { e with slot := some i }
      let s := storeEstate s cx e
      if (ctx s cx).estates.contains e then writeLine s cx e else s
    | none =>
      storeEstate (updLaunch s e.launch fun l => { l with lost := l.lost + 1 }) cx { e with core := none, lost := true }

/-- EBEQ (R209). -/
def execEbeq (f : Head) (t : Word) (s : State) : Out :=
  .next (laneTry s (.ebeq f t) none (some f.b) fun s lanes _ ids =>
    let g := me s
    let ns := sget s f.a
    let tags := readS g s.who.2 (f.a.toNat + 1)
    let regs := mapRegs t
    let c := coreOf s g
    let cx := ctxOf s g
    if ns = 0 then .stop (trapC s .estate)
    else if overReach g (usesOf (.ebeq f t)) then .stop (trapC s .rfover)
    else
      let go := fun (s : State) =>
        (lanesOf lanes).foldl
          (fun s i =>
            let (stamp, s) := freshId s
            bequeath cx c
              { ns := ns, ident := ids i, tags := storedTags tags regs.length, regs := regs.map fun k => readV g k i
                launch := (teamOf s g).launch, lin := linOf s g, gix := g.gix, lane := i, group := s.who.1
                core := none, stamp := stamp } s) s
      match makeRoom s c (lanesOf lanes).length 4200 with
      | .wait s gid => .stop (block (waitForArea s gid) .retry)
      | .busy s => .stop (block s .retry)
      | .free s | .full s => .done (go s))

/-! ### Claims (R195 to R197, R210, R217) -/

/-- Two tags match (R194). -/
def tagsMatch (a b : Nat) : Bool := a == b || a == 0 || b == 0

/-- What a claim of m registers gets from an estate: status and registers (R195). -/
def claimResult (m : Nat) (tags : Word) (e : Option Estate) : Word × List Word :=
  match e with
  | none => (1, List.replicate m 0)
  | some e =>
    let k := e.regs.length
    let n := Nat.min k m
    if e.lost then (5, List.replicate m 0)
    else if k < m then (2, e.regs ++ List.replicate (m - k) 0)
    else if m < k then (3, e.regs.take m)
    else if (List.range n).any fun j => !tagsMatch (claimTag tags j) (claimTag e.tags j) then (4, e.regs)
    else (0, e.regs)

/-- A lane of a claim has been served. -/
def served (c : Claim) (i : Nat) (r : Word × List Word) : Claim :=
  { c with
    todo := c.todo.filter fun x => x.1 != i, moving := none, status := cellSet c.status i r.1
    vals := (List.range r.2.length).foldl (fun m j => cellSet m (96 * j + i) (r.2.getD j 0)) c.vals }

def updClaim (s : State) (gid : Nat) (c : Claim) : State :=
  updGrp s gid fun g => { g with claims := g.claims.map fun k => if k.id = c.id then c else k }

/-- The registers a finished claim writes, in all its living lanes together (R217). -/
def finishClaim (s : State) (gid : Nat) (c : Claim) : State :=
  let s := updGrp s gid fun g => { g with claims := g.claims.filter fun k => k.id != c.id }
  let write := fun (k : Nat) (f : Nat → Word) => ({ isV := true, reg := k, mask := c.mask, vals := pack c.mask f, stream := .split 0 } : RegWrite)
  let ws := (List.range c.regs.length).map fun j => write (c.regs.getD j 0) fun i => cellGet c.vals (96 * j + i)
  ((ws ++ [write c.vs fun i => cellGet c.status i]).filter fun w => !has c.lost w.reg).foldl (fun s w => deliver s gid w) s

/-- CLAIM_DELIVER: the next lane of a claim is served, from this core's Hayloft at once and from elsewhere once the
estate has moved; after the last lane the registers are written (R196, R199, R217). -/
def execClaimDeliver (group claim : Nat) (s : State) : Out :=
  .next (
    let g := grp s group
    match g.claims.find? fun c => c.id == claim with
    | none => s
    | some c =>
      if c.moving.isSome then s
      else
        match c.todo with
        | [] => finishClaim s group c
        | (i, ident) :: _ =>
          let cx := ctxOf s g
          match findOpen s cx (teamOf s g).launch c.ns ident with
          | none => updClaim s group (served c i (claimResult c.regs.length c.tags none))
          | some e =>
            if e.core == some (coreOf s g) || (e.core.isNone && e.slot.isNone) then
              updClaim (freeEstate s cx e) group (served c i (claimResult c.regs.length c.tags (some e)))
            else updClaim (updEstate s cx e fun e => { e with moving := true, mover := claim }) group { c with moving := some (i, ident) })

/-- ESTATE_MIGRATE_ARRIVE: a migrating estate takes a line and is consumed on arrival (R187, R199). -/
def execEstateMigrateArrive (group claim : Nat) (s : State) : Out :=
  .next (
    let g := grp s group
    match g.claims.find? fun c => c.id == claim with
    | none => s
    | some c =>
      match c.moving with
      | none => s
      | some (i, _) =>
        let cx := ctxOf s g
        let arrive := fun (s : State) =>
          let e := (ctx s cx).estates.find? (movedBy claim)
          let s := updCtx s cx fun k => { k with estates := k.estates.filter fun e => !movedBy claim e }
          updClaim s group (served c i (claimResult c.regs.length c.tags e))
        match makeRoom s (coreOf s g) 1 4200 with
        | .wait s gid => waitForArea s gid
        | .busy s => s
        | .free s | .full s => arrive s)

/-- ECLM (R210). -/
def execEclm (f : Head) (t : Word) (s : State) : Out :=
  .next (laneTry s (.eclm f t) none (some f.b) fun s lanes _ ids =>
    let ns := sget s f.a
    let tags := readS (me s) s.who.2 (f.a.toNat + 1)
    if ns = 0 then .stop (trapC s .estate)
    else if lanes = 0 then .done s
    else
      let (id, s) := freshId s
      let c : Claim :=
        { id := id, heir := false, todo := (lanesOf lanes).map fun i => (i, ids i), ns := ns, tags := tags
          regs := mapRegs t, vs := f.d.toNat, mask := lanes }
      .done (updMe s fun g => { g with claims := g.claims ++ [c] }))

/-- The automatic claims of a group's member lanes (R197). DESIGN CHOICE: R193 names no check of a `.heir` shape or status
register beyond the base set: the registers are written all the same (log 21). -/
def heirClaims (s : State) (gid : Nat) : State :=
  let g := grp s gid
  if g.claimed then s
  else
    let l := launchOf s g
    let lanes := unionOf (g.splits.map fun e => e.2.members)
    let s := updGrp s gid fun g => { g with claimed := true }
    l.kernel.heirs.foldl
      (fun s h =>
        let (id, s) := freshId s
        let ident := fun (i : Nat) =>
          h.ca * BitVec.ofNat 32 (linOf s g) + h.cb * BitVec.ofNat 32 g.gix + h.cc * BitVec.ofNat 32 i + h.cd
        let c : Claim :=
          { id := id, heir := true, todo := (lanesOf lanes).map fun i => (i, ident i), ns := l.heirns, tags := h.tagw
            regs := mapRegs h.map, vs := h.vs, mask := lanes }
        updGrp s gid fun g => { g with claims := g.claims ++ [c] }) s

/-! ### EDROP, EQRY, EPIN (R211, R212) -/

/-- An instruction that computes one result per lane from its identity, ascending, or has to wait. -/
def estateOp (s : State) (i : Instr) (f : Head) (op : State → Word → Word → Option (State × Word) ⊕ State) : State :=
  laneTry s i none (some f.b) fun s lanes _ ids =>
    let ns := sget s f.a
    if ns = 0 then .stop (trapC s .estate)
    else
      let r := (lanesOf lanes).foldl
        (fun (acc : (State × Cells 32) ⊕ State) i =>
          match acc with
          | .inr s => .inr s
          | .inl (s, vals) =>
            match op s ns (ids i) with
            | .inl (some (s, v)) => .inl (s, cellSet vals i v)
            | .inl none => .inl (s, vals)
            | .inr s => .inr s) (.inl (s, []))
      match r with
      | .inr s => .stop s
      | .inl (s, vals) => .done (laneResult s f.d lanes (cellGet vals) 1)

/-- Frees the open estate of a key and the launch's own pending one; whether an open one was found (R211). -/
def dropKey (s : State) (cx l : Nat) (ns ident : Word) : State × Bool :=
  let open_ := findOpen s cx l ns ident
  let own := findPending s cx l ns ident
  let s := match open_ with | some e => freeEstate s cx e | none => s
  let s := match own with | some e => freeEstate s cx e | none => s
  (s, open_.isSome)

/-- The launch of the issuing group. -/
def myLaunch (s : State) : Nat := (teamOf s (me s)).launch
def myCtx (s : State) : Nat := ctxOf s (me s)

/-- EDROP and EDROP.ns (R211). -/
def execEdrop (f : Head) (t : Word) (s : State) : Out :=
  .next (if f.ty == 0 then
    estateOp s (.edrop f t) f fun s ns ident =>
      let (s, found) := dropKey s (myCtx s) (myLaunch s) ns ident
      .inl (some (s, if found then 1 else 0))
  else
    plainTry s (.edrop f t) fun s =>
      let ns := sget s f.a
      if ns = 0 then .stop (trapC s .estate)
      else
        let l := myLaunch s
        let mine := fun (e : Estate) => e.ns == ns && !e.moving && e.closing.isNone && if e.isOpen then orderedAfter s l e.launch else e.launch == l
        let n := ((ctx s (myCtx s)).estates.filter mine).length
        let s := updCtx s (myCtx s) fun c => { c with estates := c.estates.filter fun e => !mine e }
        .done (updMe s fun g => writeS g s.who.2 f.d.toNat (BitVec.ofNat 32 n)))

/-- EQRY (R212). -/
def execEqry (f : Head) (t : Word) (s : State) : Out :=
  .next (estateOp s (.eqry f t) f fun s ns ident =>
    match findOpen s (myCtx s) (myLaunch s) ns ident with
    | none => .inl (some (s, 1))
    | some e =>
      let loc := match e.core with | some c => if c = coreOf s (me s) then 0 else 1 | none => 2
      let v := (if e.lost then 5 else 0) + 16 * e.regs.length + 256 * loc + (if e.pinned then 1024 else 0)
      .inl (some (s, BitVec.ofNat 32 v)))

/-- Pinned lines of a core (R200). -/
def pinnedLines (s : State) (c : Nat) : Nat :=
  s.ctxs.foldl (fun n x => n + (x.2.estates.filter fun e => e.pinned && e.core == some c).length) 0

/-- EPIN and EPIN.un (R200, R212). -/
def execEpin (f : Head) (t : Word) (s : State) : Out :=
  .next (estateOp s (.epin f t) f fun s ns ident =>
    let cx := myCtx s
    let c := coreOf s (me s)
    match findOpen s cx (myLaunch s) ns ident with
    | none => .inl (some (s, 1))
    | some e =>
      if f.ty == 1 then .inl (some (updEstate s cx e fun e => { e with pinned := false }, 0))
      else if e.core == some c && e.pinned then .inl (some (s, 0))
      else if 1024 ≤ pinnedLines s c then .inl (some (s, 2))
      else if e.core == some c then .inl (some (updEstate s cx e fun e => { e with pinned := true }, 0))
      else
        match makeRoom s c 1 4200 with
        | .free s => .inl (some (updEstate s cx e fun e => { e with pinned := true, core := some c, slot := none }, 0))
        | .full s => .inl (some (s, 2))
        | .busy s => .inr (block s .retry)
        | .wait s gid => .inr (block (waitForArea s gid) .retry))

/-! ### Lease close and wills (R192, R216) -/

/-- A launch's will area: address and size, if its argument block holds the words that name it (R193). -/
def willArea (l : Launch) : Option (Addr × Nat) :=
  match l.kernel.willk with
  | none => none
  | some k =>
    if l.argl < 4 * (k + 3) then none
    else some (cellGet l.args (k + 1) ++ cellGet l.args k, (cellGet l.args (k + 2)).toNat)

/-- What the close of one estate comes to. -/
inductive Will where
  | written (s : State)
  | discarded (s : State)
  /-- the page is not present and waits for service -/
  | wait (va : Addr)

/-- Lines that the lease close `k` has passed over in a launch's will area since the last one written (R216). -/
def skipped (l : Launch) (k : Nat) : Nat := ((l.willSkip.find? fun e => e.1 == k).map (·.2)).getD 0

/-- The lease close `k` writes one of its estates to the bequeather's will area, or discards it (R216). DESIGN CHOICE: the line shows
PINNED as it stood before the close unpins the estate (R200), and of a line in two pages, of an area that is not 64-byte aligned, the
page of its first byte alone decides whether it can be written (R193, R216; log 21). -/
def closeEstate (s : State) (cx k : Nat) (skip : Bool) (e : Estate) : Will :=
  let l := launch s e.launch
  match willArea l with
  | none => .discarded (freeEstate s cx e)
  | some (base, size) =>
    let line := l.willFill + skipped l k
    if size / 64 ≤ line then .discarded (freeEstate s cx e)
    else
      let va := base + BitVec.ofNat 64 (64 * line)
      match xlateWalk s cx va 1 with
      | .ok .. =>
        .written (updLaunch (freeEstate (writeVa s (e.core.getD 0) cx va (estateLine l.part cx e)) cx e) e.launch fun l =>
          { l with willFill := line + 1, willSkip := mapDel l.willSkip k })
      | .fail r =>
        if r = 1 && !skip then .wait va
        else .discarded (updLaunch (freeEstate s cx e) e.launch fun l => { l with willSkip := mapPut l.willSkip k (skipped l k + 1) })
      | _ => .wait va

/-- The lease close `k` of a namespace begins: it takes every estate of it that is open at that moment (R192). -/
def beginLease (s : State) (cx : Nat) (ns : Word) (k : Nat) : State :=
  updCtx s cx fun c => { c with estates := c.estates.map fun e =>
    if e.isOpen && e.ns == ns && !e.moving && e.closing.isNone then { e with closing := some k } else e }

/-- The lease close `k` is over: the next one of a will area continues after the last line written (R216). -/
def endLease (s : State) (cx k : Nat) : State :=
  { s with launches := s.launches.map fun e => (e.1, if e.2.ctx = cx then { e.2 with willSkip := mapDel e.2.willSkip k } else e.2) }

/-- The steps of the lease close `k`, ascending by identity; `skip`: the service of the first one's page has failed; `fuel` bounds
the estates. -/
def closeSteps (s : State) (cx k : Nat) (skip : Bool) (wills disc : Nat) : Nat → State × Nat × Nat × Option Addr
  | 0 => (s, wills, disc, none)
  | fuel + 1 =>
    let es := (ctx s cx).estates.filter fun e => e.closing == some k
    match sortBy (fun (a b : Estate) => decide (a.ident.toNat ≤ b.ident.toNat)) es with
    | [] => (s, wills, disc, none)
    | e :: _ =>
      match closeEstate s cx k skip e with
      | .written s => closeSteps s cx k false (wills + 1) disc fuel
      | .discarded s => closeSteps s cx k false wills (disc + 1) fuel
      | .wait va => (s, wills, disc, some va)

/-- Goes on with the lease close `k`: estates written and discarded so far, and the page it waits for (R192). -/
def closeLease (s : State) (cx k : Nat) (skip : Bool) (wills disc : Nat) : State × Nat × Nat × Option Addr :=
  match closeSteps s cx k skip wills disc ((ctx s cx).estates.length + 1) with
  | (s, w, d, none) => (endLease s cx k, w, d, none)
  | r => r

/-- The pending bequests of a launch become open, in their lines of HBM too, and replace open estates of their keys (R185, R190,
R191). -/
def openBequests (s : State) (cx l : Nat) : State :=
  ((ctx s cx).estates.filter fun e => !e.isOpen && e.launch == l).foldl
    (fun s e =>
      let s := match (ctx s cx).estates.find? fun x =>
          x.isOpen && !x.moving && x.closing.isNone && x.ns == e.ns && x.ident == e.ident with
        | some old => countReplaced (freeEstate s cx old) l
        | none => s
      writeLine (updEstate s cx e fun e => { e with isOpen := true }) cx { e with isOpen := true }) s

/-! ### PHEND and the Paddock (R203 to R208, R213) -/

/-- Blocks that hold carry registers (R205). -/
def carryBlocks (g : Group) (c : Nat) : Nat := if c ≤ g.rbase then 0 else (c - g.rbase + 3) / 4

/-- The group becomes a queued phase that starts at `start` (R204, R213). -/
def toPhase (g : Group) (start : Word) (c : Nat) (w : Option PhaseWait) : Group :=
  let members := unionOf (g.splits.map fun e => e.2.members)
  { landAll g with
    state := .phase, resident := false, carry := c, phaseWait := w, rext := carryBlocks g c
    vregs := (landAll g).vregs.filter fun e => decide (e.1 < 96 * c)
    splits := [(0, { pc := start, members := members, am := members, restart := start })]
    monitor := none, dri := 16, dprec := 3, preempt := false, recordDue := false }

/-- Queues the phase of the issuing group and arrives at its barrier, if it names one. -/
def queuePhase (s : State) (start : Word) (c : Nat) (bar : Option (Bool × Nat)) : State :=
  let gid := s.who.1
  let g := me s
  let back := g.rext - carryBlocks g c
  let w := bar.map fun b => ({ span := b.1, n := b.2, phase := (barOf s g.team b.1 b.2).ph } : PhaseWait)
  let s := endBinding s gid
  let s := updMe s fun g => toPhase g start c w
  let s := giveBack s g.team g.quad back
  let s := updCore s (coreOf s g) fun k => { k with paddock := addTo k.paddock gid }
  match bar with
  | some (sp, n) => arrive s gid sp n none
  | none => makeReady s gid

/-- PHEND (R213): TY 1 names a core barrier, TY 2 a span barrier. -/
def execPhend (f : Head) (t : Word) (s : State) : Out :=
  .next (guarded s (.phend f t) fun s =>
    let g := me s
    let k := (launchOf s g).kernel
    let c := f.b.toNat
    let sp := f.ty == 2
    let n := f.a.toNat
    if !k.phased || k.slices2 || decide (1 < g.splits.length) || !g.tokens.isEmpty then trapC s .estate
    else if topReg g < c then trapC s .rfover
    else if !g.pend.isEmpty || !g.claims.isEmpty || g.fly.any (fun f => f.lock) then block s .retry
    else if f.ty != 0 && (decide ((if sp then k.nsbar else k.nbar) ≤ n) || hasArrived s (barOf s g.team sp n)) then
      trapC s .baruse
    else
      match makeRoom s (coreOf s g) (5 + 6 * c) 4200 with
      | .wait s gid => block (waitForArea s gid) .retry
      | .full s | .busy s => block s .retry
      | .free s => queuePhase s t c (if f.ty == 0 then none else some (sp, n)))

/-- Group-registers of a quad that placed teams hold (R122, R203): base sets, and pools. -/
def quadRegs (s : State) (c q : Nat) : Nat :=
  s.teams.foldl
    (fun n t =>
      if t.2.core != c || !t.2.placed || t.2.ended then n
      else
        let k := (launch s t.2.launch).kernel
        let gs := t.2.groups.filter fun id => (grp s id).quad == q
        let holding := if k.phased then gs.filter fun id => (grp s id).resident
          else if gs.any fun id => (grp s id).state != .gone then gs else []
        let pool := if gs.any fun id => (grp s id).state != .gone then (poolOf t.2 q).size else 0
        n + k.regs * holding.length + 4 * pool) 0

/-- The lowest free resident slot of a quad (R65). -/
def freeSlot (s : State) (c q : Nat) : Option Nat :=
  (List.range 8).find? fun i => !s.groups.any fun e =>
    e.2.resident && e.2.quad == q && e.2.slot == i && coreOf s e.2 == c

/-- The quad and slot on which a queued phase can resume (R205, R206): its own quad where it holds blocks, else the
lowest that has room. -/
def resumePlace (s : State) (gid : Nat) : Option (Nat × Nat) :=
  let g := grp s gid
  let c := coreOf s g
  let qs := if 0 < g.rext then [g.quad] else List.range 4
  qs.findSome? fun q =>
    if quadRegs s c q + g.rbase ≤ 256 then (freeSlot s c q).map fun i => (q, i) else none

/-- A whole beat for every beat that a set touches. -/
def wholeBeats (ls : Lanes) : Lanes :=
  (List.range 3).foldl (fun m j => if beatOf ls j = 0 then m else setBeat m j 0xFFFFFFFF) 0

/-- The record of a queued phase is in the Hayloft, or has been fetched (R207). -/
def recordHere (s : State) (gid : Nat) : Bool :=
  let k := core s (coreOf s (grp s gid))
  !has k.phaseOut gid || has k.fetched gid

/-- A queued phase is ready on the core that its team is placed on (R206). -/
def phaseReady (s : State) (gid : Nat) : Bool :=
  let g := grp s gid
  g.state == .phase && (teamOf s g).placed && has (core s (coreOf s g)).ready gid

/-- PADDOCK_RESUME: a ready phase takes a slot and its base set and runs on from its record (R206 to R208), with the
pre-emption request of its team where one is pending (R408). -/
def execPaddockResume (group : Nat) (s : State) : Out :=
  .next (
    let g := grp s group
    let c := coreOf s g
    match (if phaseReady s group && recordHere s group then resumePlace s group else none) with
    | none => s
    | some (q, i) =>
      let s := updCtx s (groupCtx s group) fun c => { c with phased := mapDel c.phased group }
      let s := updCore s c fun k =>
        { k with paddock := without k.paddock group, ready := without k.ready group
                 phaseOut := without k.phaseOut group, fetched := without k.fetched group }
      let s := updGrp s group fun g =>
        { g with
          state := .running, resident := true, quad := q, slot := i, recErr := 0, recordDue := false
          preempt := (teamOf s g).preempt }
      let s := laneDeath s group (wholeBeats g.recErr) 4
      let s := if (grp s group).state == .running then heirClaims s group else s
      match (grp s group).state, (grp s group).failDue with
      | .running, some t => takeTrap (updGrp s group fun g => { g with failDue := none }) group (.split 0) t
      | _, _ => s)

/-- PHASE_RECORD_FETCH_DONE: a record has come back from the HBM phase area for a phase that can resume (R207). It takes no line
of the Hayloft, and its place in the area is free when the phase resumes (R417). -/
def execPhaseRecordFetchDone (group : Nat) (s : State) : Out :=
  .next (
    if phaseReady s group && !recordHere s group && (resumePlace s group).isSome then
      updCore s (coreOf s (grp s group)) fun k => { k with fetched := addTo k.fetched group }
    else s)

/-- The line of a key in which an error lies: that of the bequest by `group` where there is one, else the open estate's, else
the first (R186, log 21). -/
def lineInError (es : List Estate) (ns ident : Word) (group : Nat) : Option Estate :=
  let mine := es.filter fun e => e.core.isSome && e.ns == ns && e.ident == ident
  match mine.find? fun e => group != 0 && e.group == group with
  | some e => some e
  | none => match mine.find? fun e => e.isOpen with | some e => some e | none => mine.head?

/-- HAYLOFT_ERROR: an uncorrectable error in an estate line sets LOST (R186); in the record of a queued phase it
kills lanes at resume (R208). -/
def execHayloftError (ctx : Nat) (ns ident : Word) (group : Nat) (lanes : Lanes) (s : State) : Out :=
  .next (
    let s := match lineInError (Machine.ctx s ctx).estates ns ident group with
      | some e => updEstate s ctx e fun e => { e with lost := true }
      | none => s
    if (grp s group).state == .phase then updGrp s group fun g => { g with recErr := g.recErr ||| lanes } else s)

/-- HAYLOFT_WRITE_OUT_DONE: the oldest write-out of a core's Hayloft has reached HBM, and its lines are free for the request that
waited (R187). -/
def execHayloftWriteOutDone (core : Nat) (s : State) : Out :=
  .next (updCore s core fun k => { k with outgoing := k.outgoing.drop 1 })

end Sys2Proof.Machine
end

