-- ==== Sys2Proof/Machine/Tensors.lean ====
section
/-! DEFINITION. Tensor identifiers: the entry layout, its checks, element addresses, and TIDQ and TIDLD (R343 to R349,
R386). -/

namespace Sys2Proof.Machine
open Sys2Proof

/-! ### Fields of a byte image -/

/-- The little-endian field of `n` bytes at an offset. -/
def fieldAt (bs : List Byte) (off n : Nat) : Nat := leNat ((bs.drop off).take n)

/-- A 64-bit field read as signed. -/
def signedAt (bs : List Byte) (off : Nat) : Int := (BitVec.ofNat 64 (fieldAt bs off 8)).toInt

/-- Bits [hi:lo] of a number. -/
def bitsOf (v hi lo : Nat) : Nat := v / 2 ^ lo % 2 ^ (hi + 1 - lo)

/-! ### Elements (R345) -/

/-- Bits of an element by format code. -/
def elemBits (fmt : Nat) : Nat := [32, 16, 16, 8, 8, 8, 4, 4].getD fmt 8

/-- Every position of a box, dimension 0 innermost. -/
def positions : List Nat → List (List Nat)
  | [] => [[]]
  | d :: ds => (positions ds).flatMap fun rest => (List.range d).map fun e => e :: rest

/-- Σ m_k × STRIDE_k. -/
def elemIndex : List Int → List Int → Int
  | m :: ms, t :: ts => m * t + elemIndex ms ts
  | _, _ => 0

/-- Byte address of an element by its index; the byte that holds a 4-bit one. -/
def elemAddr (base : Addr) (fmt : Nat) (x : Int) : Addr :=
  if elemBits fmt = 4 then base + BitVec.ofInt 64 (x.fdiv 2) else base + BitVec.ofInt 64 (x * (elemBits fmt / 8 : Nat))

/-- Address of the scale word of an element. -/
def scaleAddr (sbase : Addr) (x : Int) : Addr := sbase + BitVec.ofInt 64 (2 * x.fdiv 32)

/-- Every element index of a tensor. -/
def elemIndices (t : Tid) : List Int := (positions t.dims).map fun m => elemIndex (m.map fun (n : Nat) => (n : Int)) t.strides

/-! ### Entries -/

def tidOf (s : State) (cx n : Nat) : Tid := mapGetD (ctx s cx).tids n {}

def updTid (s : State) (cx n : Nat) (f : Tid → Tid) : State :=
  updCtx s cx fun c => { c with tids := mapPut c.tids n (f (mapGetD c.tids n {})) }

/-- The descriptor checks of R346. -/
def descriptorOk (bs : List Byte) : Bool :=
  let fmt := fieldAt bs 24 1
  let rank := fieldAt bs 26 1
  let flags := fieldAt bs 27 1
  let dim := fun k => fieldAt bs (48 + 4 * k) 4
  let stride := fun k => signedAt bs (96 + 8 * k)
  let mx := bitsOf flags 1 1 == 1
  let ks := List.range 12
  decide (fmt < 8) && decide (fieldAt bs 25 1 ≤ 16) && decide (flags < 8) && fieldAt bs 29 3 == 0
    && decide (fieldAt bs 32 4 < 2 ^ 17) && fieldAt bs 44 4 == 0 && ((bs.drop 192).take 64).all (· == 0)
    && decide (1 ≤ rank) && decide (rank ≤ 12)
    && ks.all (fun k => if k < rank then dim k != 0 else dim k == 0 && stride k == 0)
    && (!mx || ((fmt == 3 || fmt == 4 || fmt == 5 || fmt == 7) && fieldAt bs 8 8 != 0 && dim 0 % 32 == 0))
    && (fmt != 7 || mx)
    && (!(fmt == 6 || fmt == 7) || (stride 0 == 1 && ks.all fun k => k == 0 || stride k % 2 == 0))
    && (bitsOf flags 2 2 == 0 || fieldAt bs 0 8 != 0)

/-- The entry that a checked descriptor gives: it ignores RES, WVER and VALID (R346). -/
def descriptorTid (bs : List Byte) (old : Tid) : Tid :=
  let rank := fieldAt bs 26 1
  let flags := fieldAt bs 27 1
  { base := BitVec.ofNat 64 (fieldAt bs 0 8), sbase := BitVec.ofNat 64 (fieldAt bs 8 8), back := BitVec.ofNat 64 (fieldAt bs 16 8)
    fmt := fieldAt bs 24 1, pl := fieldAt bs 25 1, rank := rank, valid := true
    mx := bitsOf flags 1 1 == 1, delta := bitsOf flags 2 2 == 1, res := old.res
    expert := fieldAt bs 32 4 / 65536 == 1, xnum := fieldAt bs 32 4 % 65536, wver := old.wver + 1
    pad := BitVec.ofNat 32 (fieldAt bs 40 4)
    dims := (List.range rank).map fun k => fieldAt bs (48 + 4 * k) 4
    strides := (List.range rank).map fun k => signedAt bs (96 + 8 * k), pages := [] }

/-- The physical 4 KB pages that hold a byte of a tensor's elements or of its scale array, whatever their rights (R386). -/
def tensorPages (s : State) (cx : Nat) (t : Tid) : List Nat :=
  let page := fun (ps : List Nat) (va : Addr) => match leafPa s cx va with | some pa => addTo ps (pa / 4096) | none => ps
  let pages := fun (ps : List Nat) (va : Addr) (n : Nat) => page (page ps va) (va + BitVec.ofNat 64 (n - 1))
  (elemIndices t).foldl (fun ps x =>
    let ps := pages ps (elemAddr t.base t.fmt x) ((elemBits t.fmt + 7) / 8)
    if t.mx then pages ps (scaleAddr t.sbase x) 2 else ps) []

/-- The pages that a partition watches, beside those of one identifier (R386, log 35). -/
def pagesWatched (s : State) (cx t : Nat) : Nat :=
  s.ctxs.foldl
    (fun n c => if c.2.part == (ctx s cx).part then c.2.tids.foldl (fun n e => if c.1 == cx && e.1 == t then n else n + e.2.pages.length) n else n) 0

/-- An identifier with what the filter watches for it: its pages, or beyond 65,536 of the partition the 2 MB regions around them. -/
def watchTid (s : State) (cx n : Nat) (e : Tid) : Tid :=
  if e.delta then
    let ps := tensorPages s cx e
    { e with pages := ps, wide := decide (65536 < pagesWatched s cx n + ps.length) }
  else e

/-! ### TIDQ and TIDLD (R349) -/

/-- What translating a range of memory comes to (R256, R257). -/
inductive RangeCheck where
  | ok
  | trap (t : TrapInfo)
  | zero (va : Addr)

/-- Translation of every page of a range; access kind 0 read or 1 write. -/
def checkRange (s : State) (cx : Nat) (va : Addr) (n kind : Nat) : RangeCheck :=
  match (pagesOf va n).findSome? fun p =>
      match xlateWalk s cx p kind with
      | .ok .. => none
      | .fail r => some (RangeCheck.trap { cause := causeOf r, addr := some p, kind := kind, reason := r })
      | _ => some (.zero p) with
  | some r => r
  | none => .ok

/-- TIDQ (R349): the result arrives four cycles on. -/
def execTidq (f : Head) (s : State) : Out :=
  .next (plainTry s (.tidq f) fun s =>
    let t := sget s f.a
    if t.toNat ≥ 1024 then .stop (trapC s .tensor)
    else .done (lockS s s.who.1 s.who.2 f.d.toNat (tidWord (tidOf s (myCtx s) t.toNat) f.b.toNat) 4))

/-- Bytes of whole lines, as the core reads them without allocating. -/
def readLines (s : State) (c cx : Nat) (va : Addr) (n : Nat) : List Byte × Bool :=
  (List.range n).foldl
    (fun acc i =>
      match xlateWalk s cx (va + BitVec.ofNat 64 (64 * i)) 0 with
      | .ok pa _ => (acc.1 ++ (coreRead s c pa 64 false).2, acc.2 || coreBad s c pa 64)
      | _ => acc) ([], false)

/-- TIDLD (R346, R349): the entry is written as it issues, and the stream waits until no core holds the old one. -/
def execTidld (f : Head) (s : State) : Out :=
  .next (plainTry s (.tidld f) fun s =>
    let t := sget s f.d
    let va := pget s f.a
    let cx := myCtx s
    if t.toNat ≥ 1024 then .stop (trapC s .tensor)
    else if !(ctx s cx).ctlw.getLsbD 0 then .stop (trapC s .priv)
    else if va.toNat % 64 ≠ 0 then .stop (trap s { cause := .align, addr := some va })
    else
      match checkRange s cx va 256 0 with
      | .trap t => .stop (trap s t)
      | .zero p => .stop (block s (.zero [p]))
      | .ok =>
        let (bs, bad) := readLines s (coreOf s (me s)) cx va 4
        if bad || !descriptorOk bs then .stop (trapC s .tensor)
        else
          let e := watchTid s cx t.toNat (descriptorTid bs (tidOf s cx t.toNat))
          .stop (block (updTid s cx t.toNat fun _ => e) (.tidld t.toNat)))

/-- TIDLD_COMPLETE: no core holds the old entry, and the stream goes on (R349). -/
def execTidldComplete (group stream : Nat) (s : State) : Out :=
  .next (updGrp s group fun g =>
    match waitOf g (streamOf stream) with
    | some (.tidld _) => wake g (streamOf stream) []
    | _ => g)

end Sys2Proof.Machine
end

