-- ==== Sys2Proof/Machine/Copies.lean ====
section
/-! DEFINITION. The copy engines: completion rings, the common tail, CPY, CPYZ, CPYT, CPYG, CPYS, CPYP, CPYA, and their
completion (R293 to R311). -/

namespace Sys2Proof.Machine
open Sys2Proof

/-! ### Moving bytes (R294, R303, R304) -/

/-- Where bytes lie: device memory, the team's scratchpad, or its accumulator store, whose row r of engine E begins at
byte (512 × E + r) × 256. -/
inductive Place where
  | mem (va : Addr)
  | sp (a : Nat)
  | acc (a : Nat)
  deriving DecidableEq, Repr

/-- Why an engine does not go on: a translation failure, a page to be serviced, or one that is being zeroed. -/
inductive Halt where
  | fault (va : Addr) (reason kind : Nat)
  | service (va : Addr)
  | zero
  deriving DecidableEq, Repr

/-- The physical pieces (offset, address, bytes) of a range up to the first that fails, and why that fails. -/
def pieces (s : State) (op : CopyOp) (va : Addr) (n kind : Nat) : List (Nat × Nat × Nat) × Option Halt :=
  (pagesOf va n).foldl
    (fun acc p =>
      match acc.2 with
      | some _ => acc
      | none =>
        let off := (p - va).toNat
        match xlateWalk s op.ctx p kind with
        | .ok pa _ => (acc.1 ++ [(off, pa, Nat.min (n - off) (65536 - p.toNat % 65536))], none)
        | .fail r => (acc.1, some (if r == 1 && !(op.failed.any (· == p)) then .service p else .fault p r kind))
        | _ => (acc.1, some .zero)) ([], none)

/-- The parts (offset, bytes) of a piece that lie in bad sectors. -/
def badParts (isBad : Nat → Bool) (off a n : Nat) : List (Nat × Nat) :=
  if n = 0 then []
  else
    (((List.range ((a + n - 1) / 32 - a / 32 + 1)).map (· + a / 32)).filter isBad).map fun q =>
      (off + Nat.max (32 * q) a - a, Nat.min (32 * q + 32) (a + n) - Nat.max (32 * q) a)

/-- What a read gives: its bytes up to a failure, and the poisoned parts. -/
structure Got where
  bytes : List Byte
  bad   : List (Nat × Nat) := []
  halt  : Option Halt := none
  deriving DecidableEq, Repr

/-- Bytes of the accumulator store of a team. -/
def accBytes (t : Team) (a n : Nat) : List Byte :=
  (List.range n).map fun i => (cellGet t.acc ((a + i) / 4)).extractLsb' (8 * ((a + i) % 4)) 8

/-- A read by the copy engine; `kind` 1 reads what a write is about to change, for which the page need not be readable. -/
def readPlace (s : State) (op : CopyOp) (p : Place) (n : Nat) (kind : Nat := 0) : Got :=
  match p with
  | .mem va =>
    let (ps, h) := pieces s op va n kind
    { bytes := ps.flatMap fun e => homeRead s e.2.1 e.2.2, halt := h
      bad := ps.flatMap fun e => badParts (fun q => poisoned s (32 * q) 32) e.1 e.2.1 e.2.2 }
  | .sp a => { bytes := spRead s op.team a n, bad := badParts (fun q => spBad s op.team (32 * q) 32) 0 a n }
  | .acc a => { bytes := accBytes (team s op.team) a n, bad := badParts (fun q => has (team s op.team).accPoison (q / 8)) 0 a n }

/-- Re-reads the poisoned parts of a tensor from its backing copy, `shift` bytes on (R304). Where the copy's page must be serviced or
zeroed first, or fails translation, the read ends before that part (R303). -/
def heal (s : State) (op : CopyOp) (va : Addr) (shift : Option Addr) (g : Got) : Got × Bool :=
  match shift with
  | none => (g, false)
  | some d =>
    g.bad.foldl
      (fun acc b =>
        let back := readPlace s op (.mem (va + d + BitVec.ofNat 64 b.1)) b.2
        if acc.1.bytes.length ≤ b.1 then acc
        else if back.halt.isNone && back.bad.isEmpty then
          ({ acc.1 with bytes := overlay acc.1.bytes b.1 back.bytes, bad := acc.1.bad.filter fun x => x != b }, true)
        else if back.halt.isSome then ({ acc.1 with bytes := acc.1.bytes.take b.1, halt := back.halt }, acc.2)
        else acc) (g, false)

/-- The address in FADDR of the sector, or the row, that holds a byte of a place (R299). -/
def placeAddr (p : Place) (off : Nat) : Addr :=
  match p with
  | .mem va => (va + BitVec.ofNat 64 off) &&& ~~~ 31
  | .sp a => BitVec.ofNat 64 ((a + off) / 32 * 32)
  | .acc a => BitVec.ofNat 64 (2 ^ 63 + (a + off) / 256)

/-- Marks the sectors of a memory piece that poisoned source parts reach. -/
def poisonPiece (bad : List (Nat × Nat)) (s : State) (e : Nat × Nat × Nat) : State :=
  bad.foldl
    (fun s b =>
      let lo := Nat.max e.1 b.1
      let hi := Nat.min (e.1 + e.2.2) (b.1 + b.2)
      if lo < hi then
        (badParts (fun _ => true) 0 (e.2.1 + lo - e.1) (hi - lo)).foldl
          (fun s x => poisonSector s ((e.2.1 + lo - e.1 + x.1) / 32)) s
      else s) s

/-- Writes words of the accumulator store; a row that a poisoned part reaches is poisoned, one written whole without is
not (R304, R360). -/
def writeAcc (s : State) (tid a : Nat) (bs : List Byte) (bad : List (Nat × Nat)) : State :=
  let ws := bytesWords bs
  let rows := (List.range (bs.length / 256)).map fun i => a / 256 + i
  let hit := fun r => bad.any fun b => decide (a + b.1 < 256 * r + 256) && decide (256 * r < a + b.1 + b.2)
  updTeam s tid fun t =>
    { t with
      acc := (List.range ws.length).foldl (fun m i => cellSet m (a / 4 + i) (ws.getD i 0)) t.acc
      accPoison := rows.foldl (fun ps r => if hit r then addTo ps r else without ps r) t.accPoison }

/-- A write by the copy engine, with the parts whose source was poisoned; the lines that stay show the new marks (R285). -/
def writePlace (s : State) (c : Nat) (op : CopyOp) (p : Place) (bs : List Byte) (bad : List (Nat × Nat)) : State :=
  match p with
  | .mem va =>
    let ps := (pieces s op va bs.length 1).1
    let s := ps.foldl (fun s e => engineWrite s c e.2.1 ((bs.drop e.1).take e.2.2) op.group) s
    if bad.isEmpty then s
    else (ps.foldl (poisonPiece bad) s) |> fun s => ps.foldl (fun s e => engineDrop s c e.2.1 e.2.2 op.group) s
  | .sp a =>
    bad.foldl (fun s b => (badParts (fun _ => true) 0 (a + b.1) b.2).foldl
      (fun s x => spPoisonSector s op.team ((a + b.1 + x.1) / 32)) s) (spWrite s op.team a bs)
  | .acc a => writeAcc s op.team a bs bad

/-- The bytes of a destination range that can be written, and why no more. -/
def writable_ (s : State) (op : CopyOp) (p : Place) (n : Nat) : Nat × Option Halt :=
  match p with
  | .mem va => let (ps, h) := pieces s op va n 1; (ps.foldl (fun k e => k + e.2.2) 0, h)
  | _ => (n, none)

/-- An operation in progress: bits written, the first poisoned source sector, re-reads, and why it stopped. -/
structure Run where
  s      : State
  bits   : Nat := 0
  bad    : Option Addr := none
  reread : Bool := false
  halt   : Option Halt := none

/-- The address of the first poisoned part. -/
def firstBad (p : Place) (bad : List (Nat × Nat)) : Option Addr := (bad.head?).map fun b => placeAddr p b.1

/-- Moves `n` bytes; `shift` leads to the backing copy of the source. -/
def moveBytes (op : CopyOp) (c : Nat) (shift : Option Addr) (r : Run) (src dst : Place) (n : Nat) : Run :=
  if r.halt.isSome then r
  else
    let raw := readPlace r.s op src n
    let (got, again) := match src with | .mem va => heal r.s op va shift raw | _ => (raw, false)
    let (room, stop) := writable_ r.s op dst n
    let k := Nat.min got.bytes.length room
    let bad := got.bad.filter fun b => decide (b.1 < k)
    { s := writePlace r.s c op dst (got.bytes.take k) bad, bits := r.bits + 8 * k, bad := r.bad.or (firstBad src bad)
      reread := r.reread || again
      halt := if k = n then none else if got.bytes.length ≤ room then got.halt else stop }

/-- Writes given bytes with their poisoned parts. -/
def putParts (op : CopyOp) (c : Nat) (r : Run) (dst : Place) (bs : List Byte) (bad : List (Nat × Nat)) : Run :=
  if r.halt.isSome then r
  else
    let (room, stop) := writable_ r.s op dst bs.length
    { r with
      s := writePlace r.s c op dst (bs.take room) (bad.filter fun b => decide (b.1 < room)), bits := r.bits + 8 * room
      halt := if room = bs.length then none else stop }

/-- Writes given bytes, poisoned as a whole where `bad`. -/
def putBytes (op : CopyOp) (c : Nat) (r : Run) (dst : Place) (bs : List Byte) (bad : Bool) : Run :=
  putParts op c r dst bs (if bad then [(0, bs.length)] else [])

/-- One half of a byte. -/
def halfOf (b : Byte) (odd : Bool) : Byte := if odd then b >>> 4 else b &&& 0xF

/-- A byte with one half replaced. -/
def withHalf (b : Byte) (odd : Bool) (v : Byte) : Byte := if odd then (b &&& 0xF) ||| (v <<< 4) else (b &&& 0xF0) ||| (v &&& 0xF)

/-- Writes one 4-bit element into the byte at a place. -/
def putHalf (op : CopyOp) (c : Nat) (r : Run) (dst : Place) (odd : Bool) (v : Byte) (bad : Bool) : Run :=
  if r.halt.isSome then r
  else
    let old := (readPlace r.s op dst 1 1).bytes.headD 0
    let r' := putBytes op c r dst [withHalf old odd v] bad
    { r' with bits := r.bits + (if r'.halt.isNone then 4 else 0) }

/-- Moves one 4-bit element. -/
def moveHalf (op : CopyOp) (c : Nat) (shift : Option Addr) (r : Run) (src : Place) (odd : Bool) (dst : Place) (odd' : Bool) : Run :=
  if r.halt.isSome then r
  else
    let raw := readPlace r.s op src 1
    let (got, again) := match src with | .mem va => heal r.s op va shift raw | _ => (raw, false)
    match got.bytes with
    | b :: _ =>
      putHalf op c { r with bad := r.bad.or (firstBad src got.bad), reread := r.reread || again } dst odd' (halfOf b odd)
        (!got.bad.isEmpty)
    | [] => { r with halt := got.halt }

/-! ### The operations -/

/-- CPY and CPYZ (R305, R307): TY names the sides; the slices of a team collective cover the range together. -/
def runCpy (op : CopyOp) (c : Nat) (r : Run) : Run :=
  if op.min = 6 then
    putBytes op c r (if op.ty = 0 then .mem op.dst else .sp op.dst.toNat) (List.replicate op.len 0) false
  else
    let dst : Place := if op.ty = 0 ∨ op.ty = 2 then .mem op.dst else .sp op.dst.toNat
    let src : Place := if op.ty ≤ 1 then .mem op.src else .sp op.src.toNat
    if op.len = 0 then r else moveBytes op c none r src dst op.len

/-- A box position plus the start coordinates. -/
def shifted (c : List Int) (e : List Nat) : List Int := (List.range e.length).map fun k => c.getD k 0 + (e.getD k 0 : Nat)

def inRange (t : Tid) (m : List Int) : Bool :=
  (List.range t.rank).all fun k => decide (0 ≤ m.getD k 0) && decide (m.getD k 0 < (t.dims.getD k 0 : Nat))

def asInts (e : List Nat) : List Int := e.map fun (n : Nat) => (n : Int)

/-- The distance from a tensor to its backing copy, if it has one. -/
def backShift (t : Tid) : Option Addr := if t.back = 0 then none else some (t.back - t.base)

/-- CPYT (R308). -/
def runCpyt (op : CopyOp) (c : Nat) (r : Run) : Run :=
  let t := op.tensor.getD {}
  let x := op.box.getD {}
  let w := elemBits t.fmt
  (positions x.dims).foldl
    (fun r e =>
      let m := shifted op.coords e
      let xi := elemIndex m t.strides
      let bi := elemIndex (asInts e) x.strides
      let mem := Place.mem (elemAddr t.base t.fmt xi)
      let sp := Place.sp (elemAddr op.dst t.fmt bi).toNat
      let odd := decide (xi % 2 = 1)
      let odd' := decide (bi % 2 = 1)
      if op.ty = 0 then
        if inRange t m then
          if w = 4 then moveHalf op c (backShift t) r mem odd sp odd' else moveBytes op c (backShift t) r mem sp (w / 8)
        else if w = 4 then putHalf op c r sp odd' (t.pad.setWidth 8) false
        else putBytes op c r sp (leBytes t.pad.toNat (w / 8)) false
      else if inRange t m then
        if w = 4 then moveHalf op c none r sp odd' mem odd else moveBytes op c none r sp mem (w / 8)
      else r)
    r

/-- CPYG and CPYS (R309): the index list is read as the copy starts; rows ascending, so that the higher j remains. -/
def runRows (op : CopyOp) (c : Nat) (start : Run) : Run :=
  (List.range op.len).foldl
    (fun r j =>
      if r.halt.isSome then r
      else
        let idx := readPlace start.s op (.sp (op.aux + 4 * j)) 4
        let i := leNat idx.bytes
        let far := BitVec.ofNat 64 (i * op.arg)
        let near := fun (a : Addr) => Place.sp (a.toNat + j * op.arg)
        let skip := op.ty == 1 && i == 0xFFFFFFFF
        let mark := fun (r' : Run) (dst : Place) =>
          if idx.bad.isEmpty then r'
          else
            { r' with
              s := writePlace r'.s c op dst ((readPlace r'.s op dst op.arg 1).bytes) [(0, op.arg)]
              bad := r.bad.or (firstBad (.sp (op.aux + 4 * j)) idx.bad) }
        if op.min = 2 then
          if skip then mark (putBytes op c r (near op.dst) (List.replicate op.arg 0) false) (near op.dst)
          else mark (moveBytes op c none r (.mem (op.src + far)) (near op.dst) op.arg) (near op.dst)
        else if skip then r
        else mark (moveBytes op c none r (near op.src) (.mem (op.dst + far)) op.arg) (.mem (op.dst + far)))
    start

/-- An element read for conversion: its code and scale word; none where it is out of range. -/
structure Elem where
  val  : Option (Nat × Nat) := none
  bad  : Option Addr := none
  again : Bool := false
  halt : Option Halt := none

/-- Reads one element of a tensor, with its scale word (R345); with a base of its own the elements are those of another array, which
the entry's backing copy does not back (R304). -/
def readElem (s : State) (op : CopyOp) (t : Tid) (m : List Int) : Elem :=
  if !inRange t m then {}
  else
    let base := op.base.getD t.base
    let x := elemIndex m t.strides
    let shift := if base = t.base then backShift t else none
    let get := fun (va : Addr) (n : Nat) => let raw := readPlace s op (.mem va) n; (va, heal s op va shift raw)
    let (va, g, again) := get (elemAddr base t.fmt x) ((elemBits t.fmt + 7) / 8)
    let b := leNat g.bytes
    let code := if elemBits t.fmt = 4 then (if x % 2 = 1 then b / 16 else b % 16) else b
    if t.mx then
      let (sva, sg, sagain) := get (scaleAddr (t.sbase + (base - t.base)) x) 2
      { val := some (code, leNat sg.bytes), again := again || sagain, halt := g.halt.or sg.halt
        bad := (firstBad (.mem va) g.bad).or (firstBad (.mem sva) sg.bad) }
    else { val := some (code, 0), bad := firstBad (.mem va) g.bad, again := again, halt := g.halt }

/-- The value of an element by format code. -/
def elemVal (t : Tid) (code word : Nat) : Val :=
  if t.mx then mxValue code (match t.fmt with | 3 => 0 | 4 => 1 | 5 => 2 | _ => 3) word
  else
    match t.fmt with
    | 0 => fp32.val code
    | 1 => fp16.val code
    | 2 => bf16.val code
    | 3 => e4m3.val code
    | 4 => e5m2.val code
    | 5 => intVal 8 code
    | _ => intVal 4 code

/-- The plane count of a block: the format's own, or the one given (R160, R310). -/
def planesFor (t : Tid) (p : Nat) : Option Nat :=
  match t.fmt with
  | 7 => some 6
  | 5 => some 8
  | 6 => some 4
  | _ => if 2 ≤ p ∧ p ≤ 16 then some p else none

/-- P is allowed (R310). -/
def planesOk (t : Tid) (p : Nat) : Bool :=
  match planesFor t p with
  | some n => p == 0 || p == n
  | none => false

/-- Converts a block (R160): its exponent and integers. The formats with a fixed P take the exponent from the scale word of
the block's first element in range; where none is in range the exponent is `free`, any value but 255 (R352, log 22). -/
def convertBlock (t : Tid) (p free : Nat) (es : List Elem) : Nat × List Int :=
  let vals := es.map fun e => match e.val with | some (c, w) => elemVal t c w | none => .fin false 0 0
  let zeros := es.map fun _ => (0 : Int)
  let at_ := fun (pe : Nat) =>
    (pe, vals.map fun v => clampInt (-(2 ^ (p - 1) : Nat)) ((2 ^ (p - 1) : Nat) - 1) (fitAt v pe))
  match t.fmt with
  | 7 | 5 | 6 =>
    if !t.mx then at_ 127
    else
      match es.findSome? fun e => e.val with
      | none => (free, zeros)
      | some (_, w) =>
        if (es.any fun e => match e.val with | some (_, w) => w % 256 == 255 | none => false) then (255, zeros)
        else at_ (if t.fmt = 7 then w % 256 - 2 else w % 256)
  | _ => fitBlock vals p

/-- Groups a list by 32. -/
def blocksOf {α : Type} (xs : List α) : List (List α) :=
  (List.range (xs.length / 32)).map fun b => (xs.drop (32 * b)).take 32

/-- CPYP (R310): P words and an exponent byte for each block. -/
def runCpyp (op : CopyOp) (c : Nat) (r : Run) : Run :=
  let t := op.tensor.getD {}
  let x := op.box.getD {}
  let p := (planesFor t op.arg).getD 2
  let bs := blocksOf ((positions x.dims).map (shifted op.coords))
  (List.range bs.length).foldl
    (fun r b =>
      if r.halt.isSome then r
      else
        let es := (bs.getD b []).map (readElem r.s op t)
        match es.findSome? fun e => e.halt with
        | some h => { r with halt := some h }
        | none =>
          let bad := es.findSome? fun e => e.bad
          let (pe, qs) := convertBlock t p ((Config.freeByte r.s.fresh).toNat % 255) es
          let r := { r with
            s := { r.s with fresh := r.s.fresh + 1 }, bad := r.bad.or bad, reread := r.reread || es.any fun e => e.again }
          let r := putBytes op c r (.sp (op.dst.toNat + 4 * p * b))
            ((List.range p).flatMap fun j => leBytes (planeWord qs j) 4) bad.isSome
          putBytes op c r (.sp (op.aux + b)) [BitVec.ofNat 8 pe] bad.isSome)
    r

/-- CPYA (R311): rows in order; TY 0 .a2m, 1 .a2s, 2 .m2a, 3 .s2a. -/
def runCpya (op : CopyOp) (c : Nat) (r : Run) : Run :=
  (List.range op.len).foldl
    (fun r j =>
      let row := Place.acc ((op.arg + j) * 256)
      let far := if op.ty = 0 ∨ op.ty = 2 then Place.mem (op.dst + BitVec.ofNat 64 (256 * j)) else .sp (op.dst.toNat + 256 * j)
      if op.ty ≤ 1 then moveBytes op c none r row far 256 else moveBytes op c none r far row 256)
    r

/-- The nominal byte count N (R301). -/
def nominal (op : CopyOp) : Nat :=
  let boxElems := ((op.box.getD {}).dims).foldl (· * ·) 1
  match op.min with
  | 1 => (boxElems * elemBits (op.tensor.getD {}).fmt + 7) / 8
  | 2 | 3 => op.len * op.arg
  | 4 => boxElems / 32 * (4 * (planesFor (op.tensor.getD {}) op.arg).getD 2 + 1)
  | 7 => 256 * op.len
  | _ => op.len

/-! ### Completion (R284, R297 to R304) -/

/-- The end that a run gives, but for a page to be serviced. -/
def endOf (r : Run) : Ended :=
  let bytes := (r.bits + 7) / 8
  match r.halt with
  | some (.fault va reason _) => { status := 2, fcode := codeOf (causeOf reason), faddr := va, bytes := bytes, reread := r.reread }
  | _ =>
    match r.bad with
    | some a => { status := 1, faddr := a, bytes := bytes, reread := r.reread }
    | none => { status := 0, bytes := bytes, reread := r.reread }

/-- A completion record (R299). -/
def recordOf (s : State) (op : CopyOp) (e : Ended) (seq : Nat) : List Byte :=
  leBytes seq 4 ++ leBytes e.status 1 ++ leBytes op.tag 1
    ++ leBytes (op.min + (if op.coll then 8 else 0) + 16 * op.ty + (if e.reread then 64 else 0)) 1 ++ leBytes e.fcode 1
    ++ leBytes e.bytes 8 ++ leBytes e.faddr.toNat 8 ++ leBytes s.time.toNat 8

/-- The address of an entry of the context's ring table. -/
def ringAddr (s : State) (cx ring : Nat) : Addr := (ctx s cx).ringt + BitVec.ofNat 64 (16 * ring)

/-- An entry of the ring table that can be used: BASE, LOG and NEXT (R298, R300). -/
def ringEntry (s : State) (cx ring : Nat) : Option (Addr × Nat × Nat) :=
  match readVa s cx (ringAddr s cx ring) 16 with
  | none => none
  | some bs =>
    let base := fieldAt bs 0 8
    let log := fieldAt bs 8 1
    if 1 ≤ log ∧ log ≤ 20 ∧ base % 64 = 0 then some (BitVec.ofNat 64 base, log, fieldAt bs 12 4) else none

/-- What trying to complete an operation gives. -/
inductive Tried where
  | done (s : State)
  /-- a page of the context must be serviced first -/
  | service (va : Addr)
  /-- it cannot complete yet -/
  | blocked

/-- The ring's table entry lies in a page that waits to be zeroed (R255). -/
def ringZero (s : State) (cx ring : Nat) : Bool := zpIn s cx (ringAddr s cx ring) 16 0

/-- Writes the record; a slot that cannot be translated leaves a gap (R299, R300). -/
def writeRecord (s : State) (c : Nat) (op : CopyOp) (ring : Nat) (e : Ended) : Tried :=
  if ringZero s op.ctx ring then .blocked else
  match ringEntry s op.ctx ring with
  | none => .done (setCtxErr s op.ctx (codeOf .copy))
  | some (base, log, seq) =>
    let slot := base + BitVec.ofNat 64 (32 * (seq % 2 ^ log))
    let s := writeVa s c op.ctx (ringAddr s op.ctx ring + 12) (leBytes (seq + 1) 4) op.group
    match (pieces s op slot 32 1).2 with
    | none => .done (writeVa (writeBackAll s c) c op.ctx slot (recordOf s op e seq) op.group)
    | some (.service va) => .service va
    | some .zero => .blocked
    | some (.fault ..) => .done (setCtxErr s op.ctx (codeOf .copy))

/-- Groups halted on a core whose context has FREEZE set (R422). -/
def freezers (s : State) (c : Nat) : List Nat :=
  (s.groups.filter fun e =>
    match e.2.state with
    | .stopped t _ => t.halt && (teamOf s e.2).placed && coreOf s e.2 == c && (ctx s (ctxOf s e.2)).dbgw.getLsbD 1
    | _ => false).map (·.1)

/-- The core's copy engine is frozen (R422). -/
def engineFrozen (s : State) (c : Nat) : Bool := !(core s c).thawed && !(freezers s c).isEmpty

/-- The barrier that an operation credits is gone: a core barrier with its team, a span barrier with the last team of its span
(R230, R296). -/
def barGone (s : State) (tid : Nat) (sp : Bool) : Bool :=
  (team s tid).ended && (!sp || (span s (team s tid).span).teams.all fun t => (team s t).ended)

/-- Steps 3 to 5 of R284: credit, record, count. -/
def finishCopy (s : State) (c : Nat) (op : CopyOp) (n : Nat) (e : Ended) : Tried :=
  if engineFrozen s c then .blocked else
  let s := if e.status = 2 then setCtxErr s op.ctx (codeOf .copy) else s
  let s := countEvent s c 9 e.bytes
  let s := match op.bar with
    | some (sp, k, epoch) => if barGone s op.team sp then s else credit s op.team sp k epoch n
    | none => s
  let rec_ := match op.ring with
    | some ring => writeRecord s c op ring e
    | none => .done s
  match rec_ with
  | .done s =>
    let s := op.issued.foldl (fun s gid => updGrp s gid fun g => classDone g (if op.coll then 3 else 1) op.id) s
    .done (updCore s c fun k => { k with copies := k.copies.filter fun o => o.id != op.id })
  | x => x

/-- A matrix operation that has not committed owns a row of a team (R358). -/
def rowsOwned (s : State) (c tid eng row n : Nat) : Bool :=
  let k := core s c
  ((if eng = 0 then k.eng0 else k.eng1)).any fun o =>
    !o.committed && (grp s o.group).team == tid && decide (o.row < row + n) && decide (row < o.row + o.rows)

/-- A CPYA into rows that an operation owns waits for its commit (R311). -/
def accBlocked (s : State) (c : Nat) (op : CopyOp) : Bool :=
  op.min == 7 && decide (2 ≤ op.ty) && rowsOwned s c op.team (op.arg / 512) (op.arg % 512) op.len

/-- An operation of major 0x30 other than CFETCH, carried out and completed in one step (log 6). -/
def tryCopy (s : State) (c : Nat) (op : CopyOp) : Tried :=
  if !op.started || op.service.isSome || accBlocked s c op then .blocked
  else if op.clash then finishCopy s c op (nominal op) { status := 3 }
  else
    let r : Run := { s := s }
    let r := match op.min with
      | 1 => runCpyt op c r
      | 2 | 3 => runRows op c r
      | 4 => runCpyp op c r
      | 7 => runCpya op c r
      | _ => runCpy op c r
    match r.halt with
    | some (.service va) => .service va
    | some .zero => .blocked
    | _ => finishCopy r.s c op (nominal op) (endOf r)

/-- Changes one copy. -/
def updCopy (s : State) (c id : Nat) (f : CopyOp → CopyOp) : State :=
  updCore s c fun k => { k with copies := k.copies.map fun o => if o.id = id then f o else o }

def findCopy (s : State) (c id : Nat) : Option CopyOp := (core s c).copies.find? fun o => o.id == id

/-- What trying an operation leaves. -/
def afterTry (s : State) (c : Nat) (op : CopyOp) (t : Tried) : State :=
  match t with
  | .done s => s
  | .service va => updCopy s c op.id fun o => { o with service := some va }
  | .blocked => s

/-- COPY_COMPLETE (R284, R301 to R304). -/
def execCopyComplete (core op : Nat) (s : State) : Out :=
  .next (match findCopy s core op with
    | some o => if o.coll || o.min == 5 then s else afterTry s core o (tryCopy s core o)
    | none => s)

/-- Every participant of a team collective has issued, or has exited or been killed (R305). -/
def allIssued (s : State) (op : CopyOp) : Bool :=
  (team s op.team).groups.all fun gid =>
    decide (op.np < (grp s gid).gix) || has op.issued gid || (grp s gid).state == .gone

/-- COLLECTIVE_COPY_START (R305): its start is a release (R284), also by the core on which the team stands by then. -/
def execCollectiveCopyStart (core op : Nat) (s : State) : Out :=
  .next (match findCopy s core op with
    | some o =>
      if allIssued s o then
        updCopy (writeBackAll (writeBackAll s core) (team s o.team).core) core op fun o => { o with started := true }
      else s
    | none => s)

/-! ### Issue (R293, R300 to R302) -/

/-- The checks of an instruction of major 0x30 beyond its barrier and its ring (R302). -/
structure CopyChecks where
  copy   : Bool := false
  tensor : Bool := false
  align  : Bool := false
  /-- scratchpad ranges: first byte and bytes -/
  sp     : List (Int × Nat) := []
  awin   : Bool := false
  /-- memory ranges: first byte, bytes, access kind -/
  mem    : List (Addr × Nat × Nat) := []

/-- The barrier of a tail: span?, number. -/
def tailBar (t : Word) : Option (Bool × Nat) :=
  if t.getLsbD 18 then some (t.getLsbD 17, (t.extractLsb' 11 6).toNat) else none

/-- REC is set and the ring cannot be used (R300). -/
def ringBad (s : State) (t : Word) : Bool :=
  let g := me s
  t.getLsbD 10 && (!g.cring.getLsbD 4 || (ringEntry s (ctxOf s g) (g.cring.toNat % 16)).isNone)

/-- REC is set, and the ring's table entry waits to be zeroed. -/
def ringWaits (s : State) (t : Word) : Bool :=
  let g := me s
  t.getLsbD 10 && g.cring.getLsbD 4 && ringZero s (ctxOf s g) (g.cring.toNat % 16)

/-- A scratchpad range holds a byte outside 0 to SPSIZE − 1 (R302). -/
def outOfSp (s : State) (r : Int × Nat) : Bool :=
  r.2 != 0 && (decide (r.1 < 0) || decide (((teamOf s (me s)).spsize : Int) < r.1 + r.2))

/-- The first failing check, as the state it leaves (R302); at a page that waits to be zeroed the split waits (R255, R256). -/
def copyFails (s : State) (t : Word) (k : CopyChecks) : Option State :=
  let g := me s
  let kern := (launchOf s g).kernel
  let barBad := match tailBar t with
    | some (sp, n) => decide ((if sp then kern.nsbar else kern.nbar) ≤ n)
    | none => false
  if barBad then some (trapC s .baruse)
  else if k.copy then some (trapC s .copy)
  else if ringWaits s t then some (block s (.zero [ringAddr s (ctxOf s g) (g.cring.toNat % 16)]))
  else if ringBad s t then some (trapC s .copy)
  else if k.tensor then some (trapC s .tensor)
  else if k.align then some (trapC s .align)
  else if k.sp.any (outOfSp s) then some (trapC s .spbnd)
  else if k.awin then some (trapC s .awin)
  else
    k.mem.findSome? fun m =>
      match checkRange s (ctxOf s g) m.1 (Nat.min 1 m.2.1) m.2.2 with
      | .trap t => some (trap s t)
      | .zero p => some (block s (.zero [p]))
      | .ok => none

/-- What every operation takes from its issue: group, team, context, tail. -/
def copyBase (s : State) (t : Word) (id min ty : Nat) (coll : Bool) : CopyOp :=
  let g := me s
  { id := id, coll := coll, min := min, ty := ty, group := s.who.1, team := g.team, ctx := ctxOf s g
    tag := (t.extractLsb' 24 8).toNat
    bar := (tailBar t).map fun b => (b.1, b.2, (barOf s g.team b.1 b.2).epoch)
    ring := if t.getLsbD 10 then some (g.cring.toNat % 16) else none, ringGix := g.gix
    repro := g.repro.getLsbD 0, issued := [s.who.1] }

/-- A new operation enters the engine and counts in its class. -/
def enterCopy (s : State) (t : Word) (min ty cls : Nat) (f : CopyOp → CopyOp) : State :=
  let (id, s) := freshId s
  let op := f (copyBase s t id min ty (cls == 3))
  let c := coreOf s (me s)
  let s := if op.started then writeBackAll s c else s
  let s := updCore s c fun k => { k with copies := k.copies ++ [op] }
  updMe s fun g => classStart g cls id

/-- The engine holds 128 operations, or the class counter is full. -/
def engineFull (s : State) (cls : Nat) : Bool := decide (128 ≤ (core s (coreOf s (me s))).copies.length) || classFull s cls

/-- An instruction of major 0x30: its checks, and its entry into the engine. -/
def copyInstr (s : State) (i : Instr) (t : Word) (min ty : Nat) (k : State → CopyChecks) (f : State → CopyOp → CopyOp) : State :=
  plainTry s i fun s =>
    if engineFull s 1 then .stop (block s .retry)
    else
      match copyFails s t (k s) with
      | some s => .stop s
      | none => .done (enterCopy s t min ty 1 (f s))

/-- The team collective of this kind that the group has not joined and that has not started, and its core: the team may have been
restored on another one since. -/
def openCollective (s : State) (min : Nat) : Option (Nat × CopyOp) :=
  let g := me s
  let mine := fun (o : CopyOp) => !o.coll && o.min == min && !o.started && o.team == g.team && !has o.issued s.who.1
  (coreOf s g :: s.cores.map (·.1)).findSome? fun c => ((core s c).copies.find? mine).map fun o => (c, o)

/-- CPY and CPYZ: alone, as the first participant of a team collective, or as a further one (R305). -/
def teamCopy (s : State) (i : Instr) (t : Word) (min ty : Nat) (k : State → CopyChecks) (dst src : State → Addr) (len : State → Nat)
    (values : State → List Word) : State :=
  let np := (t.extractLsb' 19 5).toNat
  let base := fun (s : State) (o : CopyOp) =>
    { o with dst := dst s, src := src s, len := len s, np := np, values := values s, started := np == 0 }
  if np = 0 then copyInstr s i t min ty k base
  else
    plainTry s i fun s =>
      match openCollective s min with
      | none =>
        if engineFull s 1 then .stop (block s .retry)
        else
          match copyFails s t (k s) with
          | some s => .stop s
          | none => .done (enterCopy s t min ty 1 (base s))
      | some (c, o) =>
        if engineFull s 1 then .stop (block s .retry)
        else
          match copyFails s t (k s) with
          | some s => .stop s
          | none =>
            let g := me s
            let s := updCopy s c o.id fun o =>
              { o with
                issued := o.issued ++ [s.who.1], clash := o.clash || o.values != values s
                ring := if g.gix < o.ringGix then (if t.getLsbD 10 then some (g.cring.toNat % 16) else none) else o.ring
                ringGix := Nat.min g.gix o.ringGix }
            .done (updMe s fun g => classStart g 1 o.id)

/-- CPY (R305, R306): TY 0 .m2m, 1 .m2s, 2 .s2m, 3 .s2s. -/
def execCpy (f : Head) (t : Word) (s : State) : Out :=
  let dmem := f.ty == 0 || f.ty == 2
  let smem := f.ty == 0 || f.ty == 1
  let dst := fun (s : State) => if dmem then pget s f.d else (sget s f.d).setWidth 64
  let src := fun (s : State) => if smem then pget s f.a else (sget s f.a).setWidth 64
  let len := fun (s : State) => (sget s f.b).toNat
  .next (teamCopy s (.cpy f t) t 0 f.ty.toNat
    (fun s =>
      let n := len s
      { copy := decide ((t.extractLsb' 19 5).toNat < (me s).gix) && (t.extractLsb' 19 5 != 0)
        align := f.ty != 0 && ((!dmem && (dst s).toNat % 4 != 0) || (!smem && (src s).toNat % 4 != 0) || n % 4 != 0)
        sp := (if smem then [] else [(((src s).toNat : Int), n)]) ++ (if dmem then [] else [(((dst s).toNat : Int), n)])
        mem := (if smem then [(src s, n, 0)] else []) ++ (if dmem then [(dst s, n, 1)] else []) })
    dst src len
    (fun s => [f.ty.setWidth 32, t] ++ (if dmem then [(pget s f.d).extractLsb' 0 32, (pget s f.d).extractLsb' 32 32] else [sget s f.d])
      ++ (if smem then [(pget s f.a).extractLsb' 0 32, (pget s f.a).extractLsb' 32 32] else [sget s f.a]) ++ [sget s f.b]))

/-- CPYZ (R307): TY 0 .m, 1 .s. -/
def execCpyz (f : Head) (t : Word) (s : State) : Out :=
  let mem := f.ty == 0
  let dst := fun (s : State) => if mem then pget s f.d else (sget s f.d).setWidth 64
  let len := fun (s : State) => (sget s f.b).toNat
  .next (teamCopy s (.cpyz f t) t 6 f.ty.toNat
    (fun s =>
      let n := len s
      { copy := decide ((t.extractLsb' 19 5).toNat < (me s).gix) && (t.extractLsb' 19 5 != 0)
        align := !mem && ((dst s).toNat % 4 != 0 || n % 4 != 0)
        sp := if mem then [] else [(((dst s).toNat : Int), n)]
        mem := if mem then [(dst s, n, 1)] else [] })
    dst (fun _ => 0) len
    (fun s => [f.ty.setWidth 32, t] ++ (if mem then [(pget s f.d).extractLsb' 0 32, (pget s f.d).extractLsb' 32 32] else [sget s f.d])
      ++ [sget s f.b]))

/-! ### CPYT and CPYP -/

/-- T and X of sA, and whether another bit of it is set. -/
def tensorPair (s : State) (v : Word) : Tid × Tid :=
  (tidOf s (myCtx s) (v.extractLsb' 0 10).toNat, tidOf s (myCtx s) (v.extractLsb' 16 10).toNat)

def pairReserved (v : Word) : Bool := v.extractLsb' 10 6 != 0 || v.extractLsb' 26 6 != 0

/-- The start coordinates in sB and up. -/
def startCoords (s : State) (b rank : Nat) : List Int :=
  (List.range rank).map fun k => (readS (me s) s.who.2 (b + k)).toInt

/-- The registers of r coordinates go beyond the last one that may be named (R308). -/
def coordsBeyond (s : State) (b rank : Nat) : Bool := decide ((match s.who.2 with | .split _ => 60 | .aslice => 31) < b + rank - 1)

/-- A coordinate register is still to arrive (R50). -/
def coordsPend (s : State) (b rank : Nat) : Bool := (List.range rank).any fun k => pendsS (me s) s.who.2 (b + k)

/-- The least and greatest element index of a box. -/
def boxSpan (x : Tid) : Int × Int :=
  (List.range x.rank).foldl
    (fun acc k =>
      let d : Int := (((x.dims.getD k 1) - 1 : Nat) : Int) * x.strides.getD k 0
      (acc.1 + min 0 d, acc.2 + max 0 d)) (0, 0)

/-- The scratchpad range of a box: first byte and bytes. -/
def boxRange (dst : Nat) (fmt : Nat) (x : Tid) : Int × Nat :=
  let (lo, hi) := boxSpan x
  let w : Int := (elemBits fmt : Nat)
  let a := (lo * w).fdiv 8
  ((dst : Int) + a, ((hi * w + w + 7).fdiv 8 - a).toNat)

/-- The first element of the box in range, and its scale word. -/
def boxFirst (t x : Tid) (base : Addr) (cs : List Int) (kind : Nat) : List (Addr × Nat × Nat) :=
  match ((positions x.dims).map (shifted cs)).find? (inRange t) with
  | none => []
  | some m =>
    let i := elemIndex m t.strides
    (elemAddr base t.fmt i, 1, kind) :: (if t.mx && kind == 0 then [(scaleAddr (t.sbase + (base - t.base)) i, 1, 0)] else [])

/-- An effect that first waits for its coordinate registers, which the checking scoreboard sees too (R50, R52). -/
def afterCoords (s : State) (i : Instr) (a b : Reg) (go : State → State) : State :=
  guarded s i fun s =>
    let rank := (tensorPair s (sget s a)).1.rank
    if coordsPend s b.toNat rank then block s .retry
    else if scores s (me s) && readsEarly (me s) s.who.2 { sr := spanRegs b rank } then trapC s .scount
    else go s

/-- CPYT (R308): TY 0 .ld, 1 .st. -/
def execCpyt (f : Head) (t : Word) (s : State) : Out :=
  .next (afterCoords s (.cpyt f t) f.a f.b fun s => copyInstr s (.cpyt f t) t 1 f.ty.toNat
    (fun s =>
      let v := sget s f.a
      let (tt, x) := tensorPair s v
      let cs := startCoords s f.b.toNat tt.rank
      { copy := pairReserved v || coordsBeyond s f.b.toNat tt.rank
        tensor := !tt.valid || !x.valid || tt.rank != x.rank || tt.fmt != x.fmt
        sp := [boxRange (sget s f.d).toNat tt.fmt x]
        mem := (boxFirst tt x tt.base cs f.ty.toNat).take 1 })
    fun s o =>
      let (tt, x) := tensorPair s (sget s f.a)
      { o with dst := (sget s f.d).setWidth 64, tensor := some tt, box := some x, coords := startCoords s f.b.toNat tt.rank })

/-- CPYP (R310): TY 1 .ap takes the base from s[D+2]:s[D+3]. -/
def execCpyp (f : Head) (t : Word) (s : State) : Out :=
  let base := fun (s : State) => if f.ty == 1 then some (readPair (me s) s.who.2 (f.d.toNat + 2)) else none
  let p := (t.extractLsb' 0 5).toNat
  .next (afterCoords s (.cpyp f t) f.a f.b fun s => copyInstr s (.cpyp f t) t 4 f.ty.toNat
    (fun s =>
      let v := sget s f.a
      let (tt, x) := tensorPair s v
      let cs := startCoords s f.b.toNat tt.rank
      let n := (x.dims.foldl (· * ·) 1) / 32
      let loaded := tt.valid && x.valid
      let dst := (sget s f.d).toNat
      { copy := pairReserved v || coordsBeyond s f.b.toNat tt.rank
          || (loaded && (x.dims.getD 0 0 % 32 != 0 || (tt.mx && cs.getD 0 0 % 32 != 0) || !planesOk tt p))
        tensor := !loaded || tt.rank != x.rank || tt.fmt != x.fmt
        align := dst % 4 != 0
        sp := [((dst : Int), 4 * (planesFor tt p).getD 0 * n), (((readS (me s) s.who.2 (f.d.toNat + 1)).toNat : Int), n)]
        mem := boxFirst tt x ((base s).getD tt.base) cs 0 })
    fun s o =>
      let (tt, x) := tensorPair s (sget s f.a)
      { o with
        dst := (sget s f.d).setWidth 64, aux := (readS (me s) s.who.2 (f.d.toNat + 1)).toNat, base := base s, arg := p
        tensor := some tt, box := some x, coords := startCoords s f.b.toNat tt.rank })

/-! ### CPYG, CPYS, CPYA -/

/-- The row size of CPYG and CPYS in bytes. -/
def rowBytes (t : Word) : Nat := 4 * ((t.extractLsb' 0 10).toNat + 1)

/-- CPYG and CPYS (R309): `mem` and `spr` name the memory pair and the scratchpad offset. -/
def rowCopy (s : State) (i : Instr) (f : Head) (t : Word) (min kind : Nat) (mem spr : Reg) (sides : Addr → Addr → CopyOp → CopyOp) : State :=
  let n := fun (s : State) => (readS (me s) s.who.2 (f.b.toNat + 1)).toNat
  copyInstr s i t min f.ty.toNat
    (fun s =>
      let list := (sget s f.b).toNat
      let a := (sget s spr).toNat
      { align := list % 4 != 0 || a % 4 != 0
        sp := [((list : Int), 4 * n s), ((a : Int), rowBytes t * n s)]
        mem := [(pget s mem, n s, kind)] })
    fun s o => sides (pget s mem) ((sget s spr).setWidth 64) { o with len := n s, arg := rowBytes t, aux := (sget s f.b).toNat }

/-- CPYG (R309). -/
def execCpyg (f : Head) (t : Word) (s : State) : Out :=
  .next (rowCopy s (.cpyg f t) f t 2 0 f.a f.d fun m p o => { o with src := m, dst := p })

/-- CPYS (R309). -/
def execCpys (f : Head) (t : Word) (s : State) : Out :=
  .next (rowCopy s (.cpys f t) f t 3 1 f.d f.a fun m p o => { o with src := p, dst := m })

/-- Rows `row` to `row + n − 1` lie in the group's window and below ACCN (R356). -/
def inWindow (s : State) (row n : Nat) : Bool :=
  let g := me s
  let w := mapGetD (teamOf s g).windows g.gix (0, 0)
  decide (w.1 ≤ row) && decide (row + n ≤ w.2) && decide (row + n ≤ (teamOf s g).accn)

/-- CPYA (R311): a write of owned rows does not issue before their commit (R359). -/
def execCpya (f : Head) (t : Word) (s : State) : Out :=
  let far := fun (s : State) => if f.ty == 0 || f.ty == 2 then pget s f.d else (sget s f.d).setWidth 64
  let row := fun (s : State) => (sget s f.a).toNat % 512
  let eng := fun (s : State) => (sget s f.a).toNat / 512 % 2
  let n := fun (s : State) => (sget s f.b).toNat
  .next (plainTry s (.cpya f t) fun s =>
    if engineFull s 1 then .stop (block s .retry)
    else
      let mem := f.ty == 0 || f.ty == 2
      let k : CopyChecks :=
        { copy := (sget s f.a).extractLsb' 10 22 != 0 || n s == 0 || decide (512 < row s + n s)
          align := !mem && (far s).toNat % 4 != 0
          sp := if mem then [] else [(((far s).toNat : Int), 256 * n s)]
          awin := !inWindow s (row s) (n s)
          mem := if mem then [(far s, 256 * n s, if f.ty == 0 then 1 else 0)] else [] }
      match copyFails s t k with
      | some s => .stop s
      | none =>
        if decide (2 ≤ f.ty.toNat) && rowsOwned s (coreOf s (me s)) (me s).team (eng s) (row s) (n s) then .stop (block s .retry)
        else .done (enterCopy s t 7 f.ty.toNat 1 fun o => { o with dst := far s, len := n s, arg := 512 * eng s + row s }))

end Sys2Proof.Machine
end

