-- ==== Sys2Proof/Machine/Fetch.lean ====
section
/-! DEFINITION. Overlay slots and the loading of code segments, CFETCH, and the collectives of major 0x31 (R28 to R35, R312
to R315). -/

namespace Sys2Proof.Machine
open Sys2Proof

/-! ### Overlay slots (R29 to R31) -/

def slotAt (s : State) (c n : Nat) : Slot := mapGetD (core s c).slots n {}

def updSlot (s : State) (c n : Nat) (f : Slot → Slot) : State :=
  updCore s c fun k => { k with slots := mapPut k.slots n (f (mapGetD k.slots n {})) }

/-- A slot holds a segment table entry of a launch of a context. -/
def holdsSeg (sl : Slot) (cx : Nat) (seg : Seg) : Bool := sl.st != .empty && sl.ctx == cx && sl.base == seg.base

/-- The code addresses at which a group's streams run, or will resume (R30). -/
def livePcs (g : Group) : List Word :=
  (g.splits.map fun p => p.2.pc) ++ (match g.aslice with | some a => if a.exited then [] else [a.pc] | none => [])

/-- A group holds slots in use: it is resident and has not been saved, or is a phase queued on its team's core (R30). -/
def holdsSlots (s : State) (g : Group) : Bool :=
  (teamOf s g).placed && match g.state with | .gone | .parked => false | .phase => true | .running | .stopped .. => g.resident

/-- A slot is in use (R30). -/
def slotInUse (s : State) (c : Nat) (sl : Slot) : Bool :=
  sl.st == .loading
    || (s.groups.any fun e =>
      holdsSlots s e.2 && coreOf s e.2 == c
        && (livePcs e.2).any fun pc => match segOf s e.2 pc with | some seg => holdsSeg sl (ctxOf s e.2) seg | none => false)
    || s.teams.any fun e =>
      e.2.core == c && e.2.placed && !e.2.ended
        && (launch s e.2.launch).kernel.segs.any fun seg => seg.preload && holdsSeg sl (launch s e.2.launch).ctx seg

/-- The slot a load takes: the lowest empty one, else the least recently used resident one not in use (R31). -/
def chooseSlot (s : State) (c : Nat) : Option Nat :=
  match (List.range 32).find? fun n => (slotAt s c n).st == .empty with
  | some n => some n
  | none =>
    let free := (List.range 32).filter fun n => !slotInUse s c (slotAt s c n)
    free.foldl (fun best n =>
      match best with
      | none => some n
      | some b => if (slotAt s c n).used < (slotAt s c b).used then some n else best) none

/-- Counts a use of a slot in the present cycle (R31). -/
def useSlot (s : State) (c n : Nat) : State := updSlot s c n fun sl => { sl with used := s.clk.toNat + 1 }

/-- The CFETCHs that wait for the load of a slot end with it (R31). -/
def endFetches (s : State) (c n : Nat) (e : CopyOp → Ended) : State :=
  let sl := slotAt s c n
  updCore s c fun k => { k with copies := k.copies.map fun o =>
    if !o.coll && o.min == 5 && o.aux == n && o.ended.isNone && o.ctx == sl.ctx && o.src == sl.base then { o with ended := some (e o) } else o }

/-- The bytes of a segment that lie in one page. -/
def pageBytes (s : State) (pa : Nat) (base : Addr) (len : Nat) (p : Addr) : List Byte :=
  homeRead s pa (Nat.min (len - (p - base).toNat) (65536 - p.toNat % 65536))

/-- What a load that begins now reads of the pages that can be read: a later store does not change it (R36). -/
def snapSegment (s : State) (cx : Nat) (base : Addr) (len : Nat) : AMap (List Byte) :=
  (pagesOf base len).foldl
    (fun m p => match xlateWalk s cx p 3 with | .ok pa _ => mapPut m p.toNat (pageBytes s pa base len p) | _ => m) []

/-- Starts the load of a segment into a slot. -/
def startLoad (s : State) (c n cx : Nat) (seg : Seg) : State :=
  updSlot s c n fun _ =>
    { st := .loading, ctx := cx, base := seg.base, len := seg.len, snap := snapSegment s cx seg.base seg.len }

/-- The bytes of a segment whose load is in progress, or why they cannot be read: a page that could not be read when the load
began is read once it can. -/
def segmentBytes (s : State) (cx : Nat) (base : Addr) (len : Nat) (snap : AMap (List Byte)) (failed : List Addr) :
    List Byte × Option Halt :=
  (pagesOf base len).foldl
    (fun acc p =>
      match acc.2, mapGet snap p.toNat with
      | some _, _ => acc
      | none, some bs => (acc.1 ++ bs, none)
      | none, none =>
        match xlateWalk s cx p 3 with
        | .ok pa _ => (acc.1 ++ pageBytes s pa base len p, none)
        | .fail r => (acc.1, some (if r == 1 && !(failed.any (· == p)) then .service p else .fault p r 3))
        | _ => (acc.1, some .zero)) ([], none)

/-- A slot becomes resident; splits that wait for its segment become eligible (R33), and so ends a CFETCH. The one that began the
load read the poison at `bad`, if there is any (R304, R312). -/
def fillSlot (s : State) (c n : Nat) (bs : List Byte) (bad : Option Addr) : State :=
  let s := endFetches s c n fun o =>
    match (if o.len = 0 then none else bad) with
    | some a => { status := 1, faddr := a, bytes := o.len }
    | none => { status := 0, bytes := o.len }
  let s := useSlot (updSlot s c n fun sl =>
    { sl with st := .resident, bytes := setBytes [] 0 bs, snap := [], service := none, failed := [] }) c n
  let sl := slotAt s c n
  { s with groups := s.groups.map fun e =>
      let g := e.2
      let wake := fun (w : Option Wait) =>
        match w with
        | some (.segment k) =>
          match (launchOf s g).kernel.segs[k]? with
          | some seg => if holdsSeg sl (ctxOf s g) seg then none else w
          | none => w
        | _ => w
      if coreOf s g != c then e
      else
        (e.1, { g with
          splits := g.splits.map fun p => (p.1, { p.2 with wait := wake p.2.wait })
          aslice := g.aslice.map fun a => { a with wait := wake a.wait } }) }

/-- Streams of a group that wait for a segment of a slot. -/
def waitingFor (s : State) (sl : Slot) (g : Group) : List (Stream × Nat) :=
  let sts := (g.splits.map fun p => (Stream.split p.1, p.2.wait)) ++ (match g.aslice with | some a => [(Stream.aslice, a.wait)] | none => [])
  sts.filterMap fun x =>
    match x.2 with
    | some (.segment k) =>
      match (launchOf s g).kernel.segs[k]? with
      | some seg => if holdsSeg sl (ctxOf s g) seg then some (x.1, k) else none
      | none => none
    | _ => none

/-- The runtime's load for a group stopped by SEGNP has failed: the group stays stopped (R33). -/
def loadLost (s : State) (c : Nat) (sl : Slot) (g : Group) : Group :=
  match g.state with
  | .stopped t st =>
    match t.target.bind fun k => (launchOf s g).kernel.segs[k]? with
    | some seg =>
      if t.cause == .segnp && coreOf s g == c && holdsSeg sl (ctxOf s g) seg then { g with state := .stopped { t with loadFailed := true } st }
      else g
    | none => g
  | _ => g

/-- A load has failed translation: the slot is empty, a split that waited for it traps FETCH (R35), and a CFETCH that waited ends
with status 2 (R312). A placement or a restore that asked for it goes on without the segment (R32). -/
def failSlot (s : State) (c n : Nat) (va : Addr) (reason : Nat) : State :=
  let sl := slotAt s c n
  let s' : State := endFetches s c n fun _ => { status := 2, fcode := codeOf (causeOf reason), faddr := va }
  let s' : State := updSlot s' c n fun _ => {}
  let s' : State := { s' with launches := s'.launches.map fun e =>
      if e.2.done || e.2.ctx != sl.ctx then e
      else
        (e.1, { e.2 with badSegs := e.2.badSegs ++ ((List.range e.2.kernel.segs.length).filterMap fun k =>
          match e.2.kernel.segs[k]? with
          | some seg => if seg.base == sl.base && has e.2.asked (4096 * c + k) then some (c, k, va, reason) else none
          | none => none) }) }
  let s' : State := { s' with groups := s'.groups.map fun e => (e.1, loadLost s c sl e.2) }
  (s.groups.map (·.1)).foldl
    (fun s' gid =>
      let g := grp s' gid
      if coreOf s' g != c || g.state != .running then s'
      else
        match waitingFor s' sl g with
        | [] => s'
        | (st, k) :: _ =>
          let s' := updGrp s' gid fun g =>
            { g with
              splits := g.splits.map fun p => (p.1, match p.2.wait with | some (.segment _) => { p.2 with wait := none } | _ => p.2)
              aslice := g.aslice.map fun a => match a.wait with | some (.segment _) => { a with wait := none } | _ => a }
          takeTrap s' gid st { cause := .fetch, addr := some va, kind := 3, reason := reason, target := some k })
    s'

/-- Tries to end the load of a slot; the copy engine makes it (R422). -/
def tryLoad (s : State) (c n : Nat) : Tried :=
  let sl := slotAt s c n
  if sl.st != .loading || sl.service.isSome || engineFrozen s c then .blocked
  else
    match segmentBytes s sl.ctx sl.base sl.len sl.snap sl.failed with
    | (bs, none) => .done (fillSlot s c n bs (firstBad (.mem sl.base) (readPlace s { id := 0, min := 5, ctx := sl.ctx } (.mem sl.base) bs.length).bad))
    | (_, some (.service va)) => .service va
    | (_, some .zero) => .blocked
    | (_, some (.fault va r _)) => .done (failSlot s c n va r)

/-- The segments for which a group wants a load: the one whose absence stopped it with SEGNP, `failed` being whether the
runtime's load of it has failed already, or those its streams wait for (R32, R33). -/
def wantedSegs (g : Group) (failed : Bool) : List Nat :=
  match g.state with
  | .stopped t _ => if t.cause == .segnp && t.loadFailed == failed then t.target.toList else []
  | .running =>
    if failed then []
    else (g.splits.map (·.2.wait) ++ (g.aslice.map (·.wait)).toList).filterMap fun w => match w with | some (.segment k) => some k | _ => none
  | _ => []

/-- A segment that a group of the core wants and that is neither resident nor loading, with its context. -/
def missingSeg (s : State) (c : Nat) (failed : Bool) : Option (Nat × Seg) :=
  s.groups.findSome? fun e =>
    if !e.2.resident || coreOf s e.2 != c then none
    else
      (wantedSegs e.2 failed).findSome? fun k =>
        match (launchOf s e.2).kernel.segs[k]? with
        | some seg => if (slotFor s c (ctxOf s e.2) seg.base).isNone then some (ctxOf s e.2, seg) else none
        | none => none

/-- SEGMENT_LOAD_DONE: a load ends. For a slot that is not loading it is a load that a group waits for, into the slot that R31
gives it: of RESUME after a failed load, or the runtime's after SEGNP, which may be made again once it has failed (R31 to R33,
R35). -/
def execSegmentLoadDone (core slot : Nat) (s : State) : Out :=
  .next (
    let sl := slotAt s core slot
    let try_ := fun (s : State) =>
      match tryLoad s core slot with
      | .done s => s
      | .service va => updSlot s core slot fun sl => { sl with service := some va }
      | .blocked => s
    if sl.st == .loading then try_ s
    else
      match (missingSeg s core false).orElse (fun _ => missingSeg s core true), chooseSlot s core with
      | some (cx, seg), some n => if n = slot then try_ (startLoad s core slot cx seg) else s
      | _, _ => s)

/-- IMEM_ERROR: the slot is reloaded from its base, and its splits wait (R35). -/
def execImemError (core slot : Nat) (s : State) : Out :=
  .next (if (slotAt s core slot).st == .resident then
    updSlot s core slot fun sl => { sl with st := .loading, bytes := [], snap := snapSegment s sl.ctx sl.base sl.len }
  else s)

/-! ### CFETCH (R312) -/

/-- CFETCH: a segment that is resident or loading needs no slot, and one that is resident is loaded and used at once; without
a slot the operation ends with status 4 (R31). DESIGN CHOICE: with a bad ring and a bad code address it traps COPY; the manual
gives the two no order (log 42). -/
def execCfetch (f : Head) (t : Word) (s : State) : Out :=
  .next (plainTry s (.cfetch f t) fun s =>
    if engineFull s 1 then .stop (block s .retry)
    else
      match copyFails s t {} with
      | some s => .stop s
      | none =>
        let a := sget s f.a
        let g := me s
        match (if a.extractLsb' 24 8 = 0 then segOf s g a else none) with
        | none => .stop (trapC s .fetch)
        | some seg =>
          let c := coreOf s g
          let cx := ctxOf s g
          let k := a.toNat / 4096 % 4096
          match slotFor s c cx seg.base with
          | some (n, sl) =>
            if sl.st = .resident then
              .done (enterCopy (useSlot s c n) t 5 0 1 fun o => { o with arg := k, aux := n, src := seg.base, ended := some { status := 0 } })
            else .done (enterCopy s t 5 0 1 fun o => { o with arg := k, aux := n, src := seg.base })
          | none =>
            match chooseSlot s c with
            | none => .done (enterCopy s t 5 0 1 fun o => { o with arg := k, src := seg.base, ended := some { status := 4 } })
            | some n =>
              .done (enterCopy (startLoad s c n cx seg) t 5 0 1 fun o => { o with arg := k, aux := n, src := seg.base, len := seg.len }))

/-- CFETCH_DONE: the operation ends as the load of its segment did: with the segment resident, or with status 2; and with status 4
without a slot (R31, R312). -/
def tryFetch (s : State) (c : Nat) (op : CopyOp) : Tried :=
  match op.ended with
  | some e => finishCopy s c op 0 e
  | none =>
    let sl := slotAt s c op.aux
    if sl.st == .loading && sl.ctx == op.ctx && sl.base == op.src then .blocked else finishCopy s c op 0 { status := 4 }

def execCfetchDone (core op : Nat) (s : State) : Out :=
  .next (match findCopy s core op with
    | some o => if o.min == 5 && !o.coll then afterTry s core o (tryFetch s core o) else s
    | none => s)

/-! ### Collectives (R313 to R315) -/

/-- Bytes of one element, and of the scale words of n elements, by FMT. -/
def colElem (fmt : Nat) : Nat := match fmt with | 0 => 4 | 1 => 2 | _ => 1
def colData (fmt n : Nat) : Nat := if fmt = 4 then n / 2 else colElem fmt * n
def colScale (fmt n : Nat) : Nat := if 2 ≤ fmt ∧ fmt ≤ 5 then n / 32 * 2 else 0

/-- An instruction of major 0x31 (R313). -/
def collective (s : State) (i : Instr) (f : Head) (t : Word) (min : Nat) : State :=
  plainTry s i fun s =>
    if engineFull s 3 then .stop (block s .retry)
    else
      let n := (sget s f.b).toNat
      let fmt := t.toNat % 8
      let v := (readS (me s) s.who.2 (f.b.toNat + 1)).toNat
      match copyFails s t { copy := decide (2 ≤ fmt ∧ fmt ≤ 5) && n % 32 != 0 } with
      | some s => .stop s
      | none =>
        .done (enterCopy s t min f.ty.toNat 3 fun o =>
          { o with dst := pget s f.d, src := pget s f.a, len := n, arg := fmt, aux := v % 256 + 256 * (v / 256 % 1024) })

/-- COLG (R313). -/
def execColg (f : Head) (t : Word) (s : State) : Out := .next (collective s (.colg f t) f t 0)

/-- COLS (R313). -/
def execCols (f : Head) (t : Word) (s : State) : Out := .next (collective s (.cols f t) f t 1)

/-- COLR (R314). -/
def execColr (f : Head) (t : Word) (s : State) : Out := .next (collective s (.colr f t) f t 2)

/-- COLB (R313). -/
def execColb (f : Head) (t : Word) (s : State) : Out := .next (collective s (.colb f t) f t 3)

/-- The devices of a collective's set by rank. -/
def setOf (s : State) (op : CopyOp) : List Nat := mapGetD (part s (ctx s op.ctx).part).sets (op.aux % 256) []

/-- Bytes that each sender sends: every rank for COLG and COLR, the root alone for COLS and COLB. -/
def sentBytes (op : CopyOp) (ranks : Nat) : Nat :=
  let n := if op.min = 1 then op.len * ranks else op.len
  colData op.arg n + colScale op.arg n

/-- Destination bytes on this device. -/
def gotBytes (op : CopyOp) (ranks : Nat) : Nat :=
  let n := if op.min = 0 then op.len * ranks else op.len
  colData op.arg n + colScale op.arg n

/-- Element i of a sender's bytes, widened to FP32 (R314). -/
def colValue (fmt : Nat) (bs : List Byte) (i : Nat) : Nat :=
  if fmt = 1 then fieldAt bs (2 * i) 2 * 65536 else fieldAt bs (4 * i) 4

/-- The reduction of element i over the ranks, ascending: TY 0 sum, 1 max, 2 min. -/
def colReduce (fmt ty : Nat) (senders : List (List Byte)) (i : Nat) : List Byte :=
  let vs := senders.map fun bs => colValue fmt bs i
  let op := fun (a b : Nat) => match ty with | 0 => addF fp32 a b | 1 => maxF fp32 a b | _ => minF fp32 a b
  let v := match vs with | [] => 0 | v :: rest => rest.foldl op v
  if fmt = 1 then leBytes (bf16.round (fp32.val v) 0 0) 2 else leBytes v 4

/-- What this device's destination gets from the senders' bytes (R313, R314). -/
def colResult (op : CopyOp) (ranks rank : Nat) (senders : List (List Byte)) : List Byte :=
  let d := colData op.arg op.len
  let sc := colScale op.arg op.len
  match op.min with
  | 0 => (senders.flatMap fun bs => bs.take d) ++ senders.flatMap fun bs => (bs.drop d).take sc
  | 1 =>
    let bs := senders.headD []
    ((bs.drop (d * rank)).take d) ++ ((bs.drop (d * ranks + sc * rank)).take sc)
  | 2 => (List.range op.len).flatMap fun i => colReduce op.arg op.ty senders i
  | _ => senders.headD []

/-- The destination byte that byte `j` of this device's own source reaches, if any. -/
def colReach (op : CopyOp) (ranks rank j : Nat) : Option Nat :=
  let d := colData op.arg op.len
  let sc := colScale op.arg op.len
  match op.min with
  | 0 => some (if j < d then rank * d + j else ranks * d + rank * sc + (j - d))
  | 1 =>
    if j < d * ranks then (if j / d = rank then some (j % d) else none)
    else if (j - d * ranks) / sc = rank then some (d + (j - d * ranks) % sc) else none
  | _ => some j

/-- The destination bytes that poisoned parts of the own source reach. -/
def colBad (op : CopyOp) (ranks rank : Nat) (bad : List (Nat × Nat)) : List (Nat × Nat) :=
  bad.flatMap fun b => (List.range b.2).filterMap fun i => (colReach op ranks rank (b.1 + i)).map fun j => (j, 1)

/-- The destination bytes that poisoned bytes of the other ranks reach, by their places in the data of `k` bytes from each sender; the
one sender of a rooted collective reaches the bytes that this rank takes. -/
def farBad (op : CopyOp) (ranks rank k : Nat) (rooted : Bool) (bad : List Nat) : List (Nat × Nat) :=
  (bad.filter fun i => rooted || i / k != rank).filterMap fun i =>
    (colReach op ranks (if rooted then rank else i / k) (if rooted then i else i % k)).map fun j => (j, 1)

/-- Pieces of `k` bytes. -/
def cut (k : Nat) (bs : List Byte) : List (List Byte) := (List.range (bs.length / k)).map fun i => (bs.drop (k * i)).take k

/-- The end of a collective on this device: `sent` is what the senders sent, by rank, with any bytes in this device's own
place. Where the ranks' operands differ, or the length is not the set's and the count's, nothing is written. With a peer of the set
unreachable it ends with status 6, and the bytes are what had been written (R304, R313 to R315, log 23). -/
def tryCollective (s : State) (c : Nat) (op : CopyOp) (sent : Arrival) : Tried :=
  let data := sent.bytes
  let devs := setOf s op
  let ranks := devs.length
  let rank := (devs.idxOf? s.device).getD ranks
  let root := op.aux / 256
  let k := sentBytes op ranks
  let rooted := op.min == 1 || op.min == 3
  let n := gotBytes op ranks
  let dst := Place.mem op.dst
  let close := fun (r : Run) (status : Option Nat) =>
    match r.halt with
    | some (.service va) => .service va
    | some .zero => .blocked
    | _ =>
      let e := endOf r
      finishCopy r.s c op n (match status with | some v => { e with status := v, fcode := 0, faddr := 0 } | none => e)
  if op.service.isSome then .blocked
  else if devs.any fun d => d != s.device && !s.reaches d then close (putBytes op c { s := s } dst (data.take n) false) (some 6)
  else if sent.differ || ranks ≤ rank || (rooted && ranks ≤ root) || data.length != (if rooted then k else k * ranks) then
    finishCopy s c op n { status := 3 }
  else
    let sends := !rooted || root == rank
    let own := if sends then readPlace s op (.mem op.src) k else { bytes := [] }
    match (if sends then own.halt else none) with
    | some (.service va) => .service va
    | some .zero => .blocked
    | some (.fault va r _) => finishCopy s c op n { status := 2, fcode := codeOf (causeOf r), faddr := va }
    | none =>
      let senders := if rooted then [if sends then own.bytes else data] else setAt (cut k data) rank own.bytes
      let far := if rooted && sends then [] else farBad op ranks rank k rooted sent.bad
      let bad := colBad op ranks rank own.bad ++ far
      let r := putParts op c { s := s } dst (colResult op ranks rank senders) bad
      close { r with bad := if bad.isEmpty then none else (firstBad (.mem op.src) own.bad).or (some (placeAddr (.mem op.src) 0)) } none

/-- COLLECTIVE_COMPLETE (R315). -/
def execCollectiveComplete (core op : Nat) (sent : Arrival) (s : State) : Out :=
  .next (match findCopy s core op with
    | some o =>
      if o.coll then
        afterTry (updCopy s core op fun o => { o with arrived := some sent }) core o (tryCollective s core o sent)
      else s
    | none => s)

end Sys2Proof.Machine
end

