-- ==== Sys2Proof/Machine/Code.lean ====
section
/-! DEFINITION. The fetch of an instruction's halfwords from an overlay slot, and their decoding (R27, R33 to R37). -/

namespace Sys2Proof.Machine
open Sys2Proof

/-- What a fetch gives: an instruction and its bytes, an illegal encoding, a code address that FETCH stops at, or a
segment that is loading or absent. -/
inductive Fetched where
  | ok (i : Instr) (len : Nat)
  | illegal
  | outside
  | loading (k : Nat)
  | absent (k : Nat)
  deriving DecidableEq, Repr

/-- Halfwords of bytes, the first byte of each the less significant (R2). -/
def halves : List Byte → List (BitVec 16)
  | a :: b :: rest => (b ++ a) :: halves rest
  | _ => []

/-- Decodes bytes of code. -/
def readCode (bs : List Byte) : Fetched :=
  match decode (halves bs) with
  | .ok i n => .ok i (2 * n)
  | .illegal => .illegal
  | .short => .outside

/-- The segment that holds a code address, with its number and the offset; none where R34 has FETCH. -/
def placeOf (s : State) (g : Group) (pc : Word) : Option (Nat × Seg × Nat) :=
  if 2 ^ 24 ≤ pc.toNat ∨ pc.toNat % 2 = 1 then none
  else
    match segOf s g pc with
    | some seg => if pc.toNat % 4096 < seg.len then some (pc.toNat / 4096, seg, pc.toNat % 4096) else none
    | none => none

/-- The fetch at a code address of a group. -/
def fetchAt (s : State) (g : Group) (pc : Word) : Fetched :=
  match placeOf s g pc with
  | none => .outside
  | some (k, seg, off) =>
    match slotFor s (coreOf s g) (ctxOf s g) seg.base with
    | none => .absent k
    | some (_, sl) =>
      if sl.st = .resident then readCode (bytesAt sl.bytes off (Nat.min 12 (seg.len - off))) else .loading k

/-- The instruction at a code address of a group, from its slot or else from the segment's memory. -/
def codeAt (s : State) (g : Group) (pc : Word) : Fetched :=
  match fetchAt s g pc, placeOf s g pc with
  | .absent k, some (_, seg, off) =>
    match readVa s (ctxOf s g) (seg.base + BitVec.ofNat 64 off) (Nat.min 12 (seg.len - off)) with
    | some bs => readCode bs
    | none => .absent k
  | x, _ => x

end Sys2Proof.Machine
end

