-- ==== Sys2Proof/Machine/Matrix.lean ====
section
/-! DEFINITION. Matrix engines and accumulators, plain and delta: major 0x38, and the start, commit and completion of engine
operations (R350 to R369, R378 to R383, R392). -/

namespace Sys2Proof.Machine
open Sys2Proof

/-! ### Accumulator rows (R354 to R361) -/

/-- The key of an element. -/
def accKey (eng row col : Nat) : Nat := (512 * eng + row) * 64 + col

def accGet (t : Team) (eng row col : Nat) : Word := cellGet t.acc (accKey eng row col)

def accBad (t : Team) (eng row : Nat) : Bool := has t.accPoison (512 * eng + row)

/-- The elements of rows row to row + n − 1. -/
def takeRows (m : Cells 32) (eng row n : Nat) : Cells 32 :=
  m.filter fun e => decide (accKey eng row 0 ≤ e.1) && decide (e.1 < accKey eng (row + n) 0)

/-- Replaces rows row to row + n − 1. -/
def putRows (m : Cells 32) (eng row n : Nat) (new : Cells 32) : Cells 32 :=
  (m.filter fun e => decide (e.1 < accKey eng row 0)) ++ new ++ m.filter fun e => decide (accKey eng (row + n) 0 ≤ e.1)

/-- Marks or clears the poison of rows. -/
def markRows (ps : List Nat) (eng row n : Nat) (bad : Bool) : List Nat :=
  (List.range n).foldl (fun ps j => if bad then addTo ps (512 * eng + row + j) else without ps (512 * eng + row + j)) ps

/-- E of a tail. -/
def engOf (t : Word) : Nat := if t.getLsbD 16 then 1 else 0

/-- The issuing group's core and team own rows that a direct access must wait for (R359). -/
def ownedRows (s : State) (eng row n : Nat) : Bool := rowsOwned s (coreOf s (me s)) (me s).team eng row n

/-! ### Direct row access (R365, R366, R369) -/

/-- ACCZ (R365). -/
def execAccz (f : Head) (t : Word) (s : State) : Out :=
  .next (plainTry s (.accz f t) fun s =>
    let row := (sget s f.a).toNat
    let n := (sget s f.b).toNat
    if n = 0 || decide (512 < n) || !inWindow s row n then .stop (trapC s .awin)
    else if ownedRows s (engOf t) row n then .stop (block s .retry)
    else
      .done (updTeam s (me s).team fun k =>
        { k with acc := putRows k.acc (engOf t) row n [], accPoison := markRows k.accPoison (engOf t) row n false }))

/-- Row and column of lane i (R366). -/
def laneRow (row i : Nat) : Nat := row + i / 32
def laneCol (t : Word) (i : Nat) : Nat := (if t.getLsbD 0 then 32 else 0) + i % 32

/-- ACCRD (R366): latency 12; a lane of a poisoned row dies. -/
def execAccrd (f : Head) (t : Word) (s : State) : Out :=
  .next (laneTry s (.accrd f t) none none fun s lanes _ _ =>
    let row := (sget s f.a).toNat
    if lanes = 0 then .done s
    else if !inWindow s row 3 then .stop (trapC s .awin)
    else
      let k := teamOf s (me s)
      let dead := unionOf (((lanesOf lanes).filter fun i => accBad k (engOf t) (laneRow row i)).map laneBit)
      .done (flyV s f.d.toNat (lanes &&& ~~~ dead) (fun i => accGet k (engOf t) (laneRow row i) (laneCol t i)) 12) dead)

/-- ACCWR (R366): the elements of the active lanes, once no operation owns their rows. -/
def execAccwr (f : Head) (t : Word) (s : State) : Out :=
  .next (laneTry s (.accwr f t) none (some f.b) fun s lanes _ b =>
    let row := (sget s f.a).toNat
    if active (me s) s.who.2 = 0 then .done s
    else if !inWindow s row 3 then .stop (trapC s .awin)
    else if (List.range 3).any fun j => beatOf lanes j != 0 && ownedRows s (engOf t) (row + j) 1 then .stop (block s .retry)
    else
      .done (updTeam s (me s).team fun k =>
        { k with
          acc := (lanesOf lanes).foldl (fun m i => cellSet m (accKey (engOf t) (laneRow row i) (laneCol t i)) (b i)) k.acc }))

/-- AWSET (R369). -/
def execAwset (f : Head) (t : Word) (s : State) : Out :=
  .next (plainTry s (.awset f t) fun s =>
    let g := me s
    let d := (sget s f.d).toNat
    let a := (sget s f.a).toNat
    let b := (sget s f.b).toNat
    if g.gix ≠ 0 then .stop (trapC s .priv)
    else if decide ((launchOf s g).kernel.team ≤ d) || decide (b < a) || decide ((teamOf s g).accn < b) then .stop (trapC s .awin)
    else .done (updTeam s g.team fun k => { k with windows := mapPut k.windows d (a, b) }))

/-! ### Tiles (R350, R378) -/

/-- A block of a plane image: exponent and integers. -/
abbrev Block := Nat × List Int

/-- A block of P planes at a word offset and an exponent byte of a team's scratchpad. -/
def blockAt (s : State) (tid planes p exp : Nat) : Block :=
  let ws := (bytesWords (spRead s tid planes (4 * p))).map (·.toNat)
  (leNat (spRead s tid exp 1), planeInts ws p)

/-- Offsets of a step: planes and exponents (R363). -/
def stepAt (base exp steps : Word) (j : Nat) : Nat × Nat :=
  (base.toNat + j * (steps.toNat % 65536), exp.toNat + j * (steps.toNat / 65536))

/-- The six operand registers of an operation. -/
def opReg (o : MatOp) (k : Nat) : Word := o.regs.getD k 0

/-- Where step j reads the X image, and the B image. -/
def aStep (o : MatOp) (j : Nat) : Nat × Nat := stepAt (opReg o 0) (opReg o 1) (opReg o 4) j
def bStep (o : MatOp) (j : Nat) : Nat × Nat := stepAt (opReg o 2) (opReg o 3) (opReg o 5) j

/-- Block m of the X image, block n of the B image. -/
def xBlock (s : State) (tid : Nat) (o : MatOp) (j m : Nat) : Block :=
  let (p, e) := aStep o j
  blockAt s tid (p + 4 * o.pa * m) o.pa (e + m)

def bBlock (s : State) (tid : Nat) (o : MatOp) (j n : Nat) : Block :=
  let (p, e) := bStep o j
  blockAt s tid (p + 4 * o.pb * n) o.pb (e + n)

/-- The parts of a delta region of K steps (R378): X_prev planes and exponents, D planes and exponents of block (j, m). -/
def regXp (o : MatOp) (j m : Nat) : Nat := o.region + 4096 * j + 64 * m
def regXe (o : MatOp) (j m : Nat) : Nat := o.region + 4096 * o.steps + 64 * j + m
def regDp (o : MatOp) (j m : Nat) : Nat := o.region + 4160 * o.steps + 2048 * j + 32 * m
def regDe (o : MatOp) (j m : Nat) : Nat := o.region + 6208 * o.steps + 64 * j + m

/-! ### The product (R168) -/

/-- Σ q × w. -/
def dot : List Int → List Int → Int
  | q :: qs, w :: ws => q * w + dot qs ws
  | _, _ => 0

/-- One K block added to one element (R168). -/
def stepElem (acc : Word) (a b : Block) : Word :=
  if a.1 = 255 ∨ b.1 = 255 then 0x7FC00000
  else
    let v := dot a.2 b.2
    if v = 0 then acc
    else BitVec.ofNat 32 (fp32.round ((fp32.val acc.toNat).add (.fin (decide (v < 0)) v.natAbs (a.1 + b.1 - 254 : Int))) 0 0)

/-- One step of a tile: rows of A blocks by columns of B blocks. -/
def stepTile (eng row : Nat) (as bs : List Block) (acc : Cells 32) : Cells 32 :=
  (List.range 64).flatMap fun m =>
    (List.range 64).filterMap fun n =>
      let v := stepElem (cellGet acc (accKey eng (row + m) n)) (as.getD m (0, [])) (bs.getD n (0, []))
      if v = 0 then none else some (accKey eng (row + m) n, v)

/-- The product over the steps with the A blocks that `a` gives. -/
def product (s : State) (tid : Nat) (o : MatOp) (a : Nat → Nat → Block) (acc : Cells 32) : Cells 32 :=
  (List.range o.steps).foldl
    (fun acc j => stepTile o.eng o.row ((List.range 64).map (a j)) ((List.range 64).map (bBlock s tid o j)) acc) acc

/-! ### Forming a difference (R380) -/

/-- q × 2^(pe − 127) as a value. -/
def planeVal (q : Int) (pe : Nat) : Val := .fin (decide (q < 0)) q.natAbs (pe - 127 : Int)

/-- Every RoundNE(r × 2^(−k)) lies in −32768 to 32767. -/
def fits16 (rs : List Int) (k : Nat) : Bool :=
  rs.all fun r => let v := roundInt (decide (r < 0)) r.natAbs (-(k : Int)) 0 0; decide (-32768 ≤ v) && decide (v ≤ 32767)

/-- The smallest shift from `k` for which the integers fit; `fuel` bounds it. -/
def shiftFrom (rs : List Int) : Nat → Nat → Nat
  | k, 0 => k
  | k, fuel + 1 => if fits16 rs k then k else shiftFrom rs (k + 1) fuel

/-- What one block forms: D, X_rec, and whether it drifted. -/
def formBlock (dprec : Nat) (x p : Block) (bad : Bool) : Block × Block × Bool :=
  let zeros := List.replicate 32 (0 : Int)
  if x.1 = 255 ∨ p.1 = 255 ∨ bad then ((255, zeros), (255, zeros), true)
  else
    let ds := (List.range 32).map fun k => (planeVal (x.2.getD k 0) x.1).add (planeVal (p.2.getD k 0) p.1).neg
    let allZero := ds.all fun v => match v with | .fin _ m _ => m == 0 | _ => false
    let pe := Nat.max (if allZero then p.1 else (fitBlock ds dprec).1) p.1
    let qd := ds.map fun v => clampInt (-(2 ^ (dprec - 1) : Nat)) ((2 ^ (dprec - 1) : Nat) - 1) (fitAt v pe)
    let rs := (List.range 32).map fun k => p.2.getD k 0 + qd.getD k 0 * (2 ^ (pe - p.1) : Nat)
    if rs.all fun r => decide (-32768 ≤ r) && decide (r ≤ 32767) then ((pe, qd), (p.1, rs), false)
    else
      let k := shiftFrom rs 1 300
      ((pe, qd), (p.1 + k, rs.map fun r => roundInt (decide (r < 0)) r.natAbs (-(k : Int)) 0 0), true)

/-- A block of the X image reads a poisoned sector, and so for X_prev. -/
def xBad (s : State) (tid : Nat) (o : MatOp) (j m : Nat) : Bool :=
  let (p, e) := aStep o j
  spBad s tid (p + 4 * o.pa * m) (4 * o.pa) || spBad s tid (e + m) 1

def prevBad (s : State) (tid : Nat) (o : MatOp) (j m : Nat) : Bool :=
  spBad s tid (regXp o j m) 64 || spBad s tid (regXe o j m) 1

/-- Writes a block into the region, poisoned where `bad`. -/
def putBlock (s : State) (tid planes exp p : Nat) (b : Block) (bad : Bool) : State :=
  let s := spPut s tid planes ((List.range p).flatMap fun i => leBytes (planeWord b.2 i) 4)
  let s := spPut s tid exp [BitVec.ofNat 8 b.1]
  if bad then
    (badParts (fun _ => true) 0 planes (4 * p)).foldl (fun s x => spPoisonSector s tid ((planes + x.1) / 32))
      (spPoisonSector s tid (exp / 32))
  else s

/-! ### Commit (R358, R360, R363, R379 to R383) -/

/-- The operation reads a poisoned operand sector. -/
def operandBad (s : State) (tid : Nat) (o : MatOp) : Bool :=
  (List.range o.steps).any fun j =>
    let (bp, be) := bStep o j
    let (ap, ae) := aStep o j
    spBad s tid bp (256 * o.pb) || spBad s tid be 64
      || match o.form with
        | .reuseDelta d => (List.range 64).any fun m => spBad s tid (regDp o j m) (4 * d) || spBad s tid (regDe o j m) 1
        | .formDelta => spBad s tid ap (256 * o.pa) || spBad s tid ae 64 || (List.range 64).any fun m => prevBad s tid o j m
        | _ => spBad s tid ap (256 * o.pa) || spBad s tid ae 64

/-- The A block as the scratchpad gives it. -/
def readA (s : State) (tid : Nat) (o : MatOp) (j m : Nat) : Block :=
  match o.form with
  | .reuseDelta d => blockAt s tid (regDp o j m) d (regDe o j m)
  | .formDelta => (formBlock o.dprec (xBlock s tid o j m) (blockAt s tid (regXp o j m) 16 (regXe o j m)) (xBad s tid o j m || prevBad s tid o j m)).1
  | _ => xBlock s tid o j m

/-- The A planes of an operation's product. -/
def productPlanes (o : MatOp) : Nat := match o.form with | .reuseDelta d => d | .formDelta => o.dprec | _ => o.pa

/-- Plane p of a block of P planes is a word of zeros. -/
def zeroPlane (p planes : Nat) (b : Block) : Bool := b.2.all fun q => (q % (2 ^ planes : Nat)).toNat / 2 ^ p % 2 == 0

/-- What step j reads of its A side if it begins now. The planes that are zero in all 64 blocks are skipped, but for REPRO (R351). -/
def readStep (s : State) (tid : Nat) (o : MatOp) (j : Nat) : StepRead :=
  let ms := List.range 64
  let skip := fun (a : List Block) => if o.repro then [] else (List.range (productPlanes o)).filter fun p => a.all (zeroPlane p (productPlanes o))
  let x := ms.map (xBlock s tid o j)
  match o.form with
  | .formDelta =>
    let bad := ms.map fun m => xBad s tid o j m || prevBad s tid o j m
    let fs := ms.map fun m => formBlock o.dprec (x.getD m (0, [])) (blockAt s tid (regXp o j m) 16 (regXe o j m)) (bad.getD m false)
    let a := fs.map (·.1)
    { skip := skip a, a := a, xrec := fs.map (·.2.1), bad := bad, drift := fs.any (·.2.2) }
  | .formFull _ => { skip := skip x, a := x, xrec := x, bad := ms.map (xBad s tid o j) }
  | _ => let a := ms.map (readA s tid o j); { skip := skip a, a := a }

/-- What step j has read, or reads now where it has not begun. -/
def stepRead (s : State) (tid : Nat) (o : MatOp) (j : Nat) : StepRead := (o.begun[j]?).getD (readStep s tid o j)

/-- The A block that the product reads: the one that its step read as it began (R351, R353). -/
def aBlock (s : State) (tid : Nat) (o : MatOp) (j m : Nat) : Block := ((stepRead s tid o j).a).getD m (0, [])

/-- What a forming operation writes into its region, and whether a block drifted. -/
def formRegion (src s : State) (tid : Nat) (o : MatOp) : State × Bool :=
  (List.range o.steps).foldl
    (fun acc j =>
      let r := stepRead src tid o j
      let s := (List.range 64).foldl
        (fun s m =>
          let bad := r.bad.getD m false
          let s := putBlock s tid (regXp o j m) (regXe o j m) 16 (r.xrec.getD m (0, [])) bad
          if o.form == .formDelta then putBlock s tid (regDp o j m) (regDe o j m) o.dprec (r.a.getD m (0, [])) bad else s) acc.1
      (s, acc.2 || r.drift))
    (s, false)

/-- The directory entry's update at the commit of a forming operation, unless it is DEAD or has been freed since (R383). -/
def formEntry (s : State) (o : MatOp) (drift : Bool) : State :=
  match o.bind with
  | none => s
  | some b =>
    updCtx s (ctxOf s (grp s o.group)) fun c =>
      let e := mapGetD c.ddir b.entry {}
      if e.dead || !e.used || e.gen != b.gen then c
      else
        let e := match o.form with
          | .formDelta => { e with cnt := Nat.min (e.cnt + 1) 255, drift := e.drift || drift, last := s.time }
          | _ =>
            { e with cnt := 0, wseen := b.wver, wid := b.wid, ks := b.steps, xaddr := b.xaddr, yaddr := b.yaddr, drift := false
                     refnext := false, last := s.time }
        { c with ddir := mapPut c.ddir b.entry e }

def isForming : Form → Bool
  | .formFull _ | .formDelta => true
  | _ => false

/-- Rows, region and entry of a matrix loop change together. -/
def commitLoop (s : State) (o : MatOp) : State :=
  let tid := (grp s o.group).team
  let starts := if o.ovw && o.form != .formDelta then [] else o.acc
  let bad := operandBad s tid o || (!(o.ovw && o.form != .formDelta) && !o.accBad.isEmpty)
  let rows := product s tid o (aBlock s tid o) starts
  let s' := updTeam s tid fun k =>
    { k with acc := putRows k.acc o.eng o.row 64 rows, accPoison := markRows k.accPoison o.eng o.row 64 bad }
  if isForming o.form then
    let (s', drift) := formRegion s s' tid o
    let s' := updGrp s' o.group fun g => { g with binding := g.binding.map fun b => { b with formed := true } }
    formEntry s' o drift
  else s'

/-! ### Drains (R367, R368) -/

/-- Bytes of a drained row. -/
def drainBytes (fmt : Nat) : Nat := match fmt with | 3 => 32 | 4 => 128 | 5 => 256 | _ => 64

/-- Codes of 4-bit elements, two to a byte. -/
def packHalves : List Nat → List Byte
  | a :: b :: rest => BitVec.ofNat 8 (a % 16 + 16 * (b % 16)) :: packHalves rest
  | _ => []

/-- The stochastic bits of an element of a drained row (R367). -/
def drainBits (s : State) (o : MatOp) (row col : Nat) : Nat :=
  let g := grp s o.group
  let h : Stoch := { seed := o.seed, lin := linOf s g, gix := g.gix, pc := o.pc, n := o.count }
  h.bits col (row % 65536)

/-- Block h of a row: element bytes, and the scale word of an MX format. -/
def drainBlock (s : State) (o : MatOp) (d : Drain) (row h : Nat) : List Byte × Nat :=
  let val := fun (k : Nat) => fp32.val (cellGet o.acc (accKey o.eng row (32 * h + k))).toNat
  let bits := fun (k : Nat) => if d.rnd = 3 then drainBits s o row (32 * h + k) else 0
  let ks := List.range 32
  if d.fmt < 4 then
    let (codes, se, xf) := mxQuantise (ks.map val) d.fmt d.rnd d.xopt d.sat bits
    (if d.fmt = 3 then packHalves codes else codes.map (BitVec.ofNat 8), scaleWord se xf)
  else
    let f := if d.fmt = 4 then bf16 else fp32
    (ks.flatMap fun k => leBytes (f.round (val k) d.rnd (bits k)) (drainBytes d.fmt / 64), 0)

/-- The operation as a copy of its group, for its writes. -/
def drainCopy (s : State) (o : MatOp) : CopyOp :=
  let g := grp s o.group
  { id := 0, min := 0, group := o.group, team := g.team, ctx := ctxOf s g }

/-- Writes the bytes of a drain; a poisoned row's sectors are written poisoned (R360). -/
def drainWrite (s : State) (c : Nat) (o : MatOp) (d : Drain) : State :=
  let op := drainCopy s o
  let place := fun (a : Addr) (off : Nat) => if d.sp then Place.sp (a.toNat + off) else Place.mem (a + BitVec.ofNat 64 off)
  (List.range o.rows).foldl
    (fun s j =>
      let b0 := drainBlock s o d (o.row + j) 0
      let b1 := drainBlock s o d (o.row + j) 1
      let bad := has o.accBad (o.row + j)
      let parts := fun (n : Nat) => if bad then [(0, n)] else []
      let s := writePlace s c op (place d.dst (j * drainBytes d.fmt)) (b0.1 ++ b1.1) (parts (drainBytes d.fmt))
      if d.fmt < 4 then writePlace s c op (place d.sdst (4 * j)) (leBytes b0.2 2 ++ leBytes b1.2 2) (parts 4) else s)
    s

/-! ### Issue of engine operations (R357, R363, R367, R379, R392) -/

def engQ (k : Core) (eng : Nat) : List MatOp := if eng = 0 then k.eng0 else k.eng1

def setEngQ (k : Core) (eng : Nat) (ops : List MatOp) : Core :=
  if eng = 0 then { k with eng0 := ops } else { k with eng1 := ops }

def updEng (s : State) (c eng : Nat) (f : List MatOp → List MatOp) : State :=
  updCore s c fun k => setEngQ k eng (f (engQ k eng))

/-- The engine's queue holds 8 operations that have not committed, or the class counter is full. -/
def matrixFull (s : State) (eng : Nat) : Bool :=
  decide (8 ≤ ((engQ (core s (coreOf s (me s))) eng).filter fun o => !o.committed).length) || classFull s 2

/-- An operation enters its engine's queue and counts in class 2. -/
def enterMatrix (s : State) (eng : Nat) (f : MatOp → MatOp) : State :=
  let (id, s) := freshId s
  let h := stochOf s
  let o := f { id := id, eng := eng, group := s.who.1, row := 0, rows := 64, form := .plain, repro := (me s).repro.getLsbD 0
               pc := h.pc, count := h.n, seed := h.seed, ready := s.clk.toNat + 4 }
  updMe (updEng s (coreOf s (me s)) eng fun ops => ops ++ [o]) fun g => classStart g 2 id

/-- The operand registers sA to sA+5. -/
def loopRegs (s : State) (a : Reg) : List Word := (List.range 6).map fun k => readS (me s) s.who.2 (a.toNat + k)

/-- The operation that a step tail and the head's fields describe. -/
def loopOp (s : State) (f : Head) (t : Word) (o : MatOp) : MatOp :=
  { o with
    row := (sget s f.d).toNat, ovw := f.ty == 1, steps := t.toNat % 256 + 1, pa := t.toNat / 256 % 16 + 1, pb := t.toNat / 4096 % 16 + 1
    regs := loopRegs s f.a }

/-- A step reads a byte beyond the allotment (R353). -/
def stepsOut (s : State) (o : MatOp) : Bool :=
  let size := (teamOf s (me s)).spsize
  (List.range o.steps).any fun j =>
    let (ap, ae) := aStep o j
    let (bp, be) := bStep o j
    decide (size < ap + 256 * o.pa) || decide (size < ae + 64) || decide (size < bp + 256 * o.pb) || decide (size < be + 64)

/-- MLOOP's checks (R363), then the operation as `g` completes it. -/
def loopInstr (s : State) (i : Instr) (f : Head) (t : Word) (pre : State → Option State) (post : State → MatOp → MatOp) (form : State → State) : State :=
  plainTry s i fun s =>
    let eng := engOf t
    if matrixFull s eng then .stop (block s .retry)
    else
      match pre s with
      | some s => .stop s
      | none =>
        let o := loopOp s f t { id := 0, eng := eng, group := s.who.1, row := 0, rows := 64, form := .plain }
        if !inWindow s o.row 64 then .stop (trapC s .awin)
        else if [opReg o 0, opReg o 2, opReg o 4, opReg o 5].any fun v => v.toNat % 4 != 0 then .stop (trapC s .align)
        else if stepsOut s o then .stop (trapC s .spbnd)
        else .done (form (enterMatrix s eng fun o => post s (loopOp s f t o)))

/-- MLOOP (R363). -/
def execMloop (f : Head) (t : Word) (s : State) : Out :=
  .next (loopInstr s (.mloop f t) f t (fun _ => none) (fun _ o => o) id)

/-- ST and FORMED of DSTAT (R376). -/
def stOf (g : Group) : Nat := g.dstat.toNat / 2 ^ 29
def formedOf (g : Group) : Bool := g.dstat.getLsbD 28

/-- The first byte of the binding's region. -/
def regionOfBinding (g : Group) : Nat := 4096 * (g.dstat.toNat / 2 ^ 20 % 256)

/-- R392's checks. -/
def bindChecks (s : State) (f : Head) (t : Word) : Option State :=
  let g := me s
  let k := t.toNat % 256 + 1
  let h := sget s f.b
  if (h ^^^ g.dstat) &&& 0xEFFFFFFF != 0 || stOf g == 7 then some (trapC s .delta)
  else if stOf g ≤ 3 then
    if (g.binding.map fun b => b.steps) != some k then some (trapC s .delta)
    else if (teamOf s g).spsize < regionOfBinding g + 6272 * k then some (trapC s .spbnd)
    else none
  else none

/-- The form of an MLOOPD (R379 to R382). -/
def formOf (g : Group) : Form :=
  if 4 ≤ stOf g then .plain
  else if !formedOf g then (if stOf g = 1 then .formDelta else .formFull (stOf g))
  else if stOf g = 1 then .reuseDelta ((g.binding.map fun b => b.dprec).getD 1)
  else .reuseFull

/-- MLOOPD (R392): the first one under a binding with ST 0 to 3 forms. -/
def execMloopd (f : Head) (t : Word) (s : State) : Out :=
  .next (loopInstr s (.mloopd f t) f t (fun s => bindChecks s f t)
    (fun s o =>
      let g := me s
      { o with form := formOf g, region := regionOfBinding g, dprec := g.dprec.toNat, bind := g.binding })
    fun s => updMe s fun g =>
      if isForming (formOf g) then
        { g with dstat := g.dstat ||| 0x10000000, binding := g.binding.map fun b => { b with dprec := g.dprec.toNat } }
      else g)

/-- ACCDRN's operands from its tail. -/
def drainOf (s : State) (f : Head) (t : Word) : Drain :=
  let sp := f.ty == 1
  let reg := fun (r : Reg) => if sp then (sget s r).setWidth 64 else pget s r
  { fmt := t.toNat % 8, rnd := t.toNat / 8 % 4, xopt := t.getLsbD 5, sat := t.getLsbD 6, zero := t.getLsbD 7, sp := sp
    dst := reg f.d, sdst := reg f.b }

/-- ACCDRN (R367, R368). -/
def execAccdrn (f : Head) (t : Word) (s : State) : Out :=
  .next (plainTry s (.accdrn f t) fun s =>
    let v := sget s f.a
    let row := v.toNat % 512
    let n := v.toNat / 65536 % 1024
    let d := drainOf s f t
    let mx := decide (d.fmt < 4)
    let size := n * drainBytes d.fmt
    if matrixFull s (engOf t) then .stop (block s .retry)
    else if v.extractLsb' 9 7 != 0 || v.extractLsb' 26 6 != 0 || n == 0 || decide (512 < n) || !inWindow s row n then
      .stop (trapC s .awin)
    else if d.dst.toNat % 4 != 0 || (mx && d.sdst.toNat % 4 != 0) then .stop (trapC s .align)
    else if d.sp && (outOfSp s ((d.dst.toNat : Int), size) || (mx && outOfSp s ((d.sdst.toNat : Int), 4 * n))) then .stop (trapC s .spbnd)
    else
      let cx := myCtx s
      let go := fun (s : State) =>
        Eff.done (countStoch (enterMatrix s (engOf t) fun o => { o with row := row, rows := n, form := .drain, drain := some d }) (d.rnd == 3))
      if d.sp then go s
      else
        match checkRange s cx d.dst size 1, (if mx then checkRange s cx d.sdst (4 * n) 1 else .ok) with
        | .trap t, _ => .stop (trap s t)
        | .zero p, _ => .stop (block s (.zero [p]))
        | .ok, .trap t => .stop (trap s t)
        | .ok, .zero p => .stop (block s (.zero [p]))
        | .ok, .ok => go s)

/-! ### The engines (R357, R358, R368, R382) -/

/-- The operation at the head of an engine: the first that has not committed. -/
def engHead (s : State) (c eng : Nat) : Option MatOp := (engQ (core s c) eng).find? fun o => !o.committed

/-- The operation of an engine that begins next, and the one that began last of those that have not committed. -/
def engNext (s : State) (c eng : Nat) : Option MatOp := (engQ (core s c) eng).find? fun o => !o.committed && !o.started
def engLast (s : State) (c eng : Nat) : Option MatOp := ((engQ (core s c) eng).filter fun o => !o.committed && o.started).getLast?

/-- A reuse operation of a delta binding waits for its forming operation's commit (R382). -/
def waitsForming (s : State) (c : Nat) (o : MatOp) : Bool :=
  match o.form with
  | .reuseDelta _ | .reuseFull =>
    ((core s c).eng0 ++ (core s c).eng1 ++ (grp s o.group).abandoned).any fun x =>
      isForming x.form && x.group == o.group && !x.committed && decide (x.id < o.id)
  | _ => false

/-- A step of the operation is still to begin. -/
def stepsLeft (o : MatOp) : Bool := o.started && o.drain.isNone && decide (o.begun.length < o.steps)

/-- Two operations of an engine share an accumulator row. -/
def sharesRow (s : State) (x o : MatOp) : Bool :=
  (grp s x.group).team == (grp s o.group).team && decide (x.row < o.row + o.rows) && decide (o.row < x.row + x.rows)

/-- The next operation of an engine can begin its first step: the steps of those before it that have not committed are over, and they
share no row with it (R357). -/
def canStart (s : State) (c eng : Nat) : Bool :=
  match engNext s c eng with
  | some o =>
    !waitsForming s c o && ((engQ (core s c) eng).filter fun x => !x.committed && x.started).all fun x =>
      !stepsLeft x && decide (x.due ≤ s.clk.toNat + 16) && !sharesRow s x o
  | none => false

/-- The A planes that step j skips if it begins now. -/
def skippedAt (s : State) (tid : Nat) (o : MatOp) (j : Nat) : List Nat := (readStep s tid o j).skip

/-- The cycles of step j, as its operands stand (R351, R380 to R382). -/
def stepCycles (s : State) (tid : Nat) (o : MatOp) (j : Nat) : Nat :=
  let more := match o.form with | .formFull _ => 16 | .formDelta => 24 | _ => 0
  Nat.max 1 (productPlanes o - (skippedAt s tid o j).length) * ((o.pb + 3) / 4) + more

/-- The cycles of the steps from `j` on, as the operands stand, and of a drain (R368). -/
def cyclesFrom (s : State) (tid : Nat) (o : MatOp) (j : Nat) : Nat :=
  match o.form with
  | .drain => 2 * o.rows
  | _ => ((List.range o.steps).drop j).foldl (fun n k => n + stepCycles s tid o k) 0

/-- The cycles of all steps of an operation. -/
def opCycles (s : State) (tid : Nat) (o : MatOp) : Nat := cyclesFrom s tid o 0

/-- The next step of an operation begins in the cycle `now`: it reads its A side (R351), and the commit is 16 cycles after the last step
as the operands stand. -/
def beginStep (s : State) (tid : Nat) (now : Nat) (o : MatOp) : MatOp :=
  let j := o.begun.length
  { o with
    begun := o.begun ++ [readStep s tid o j], next := now + stepCycles s tid o j
    due := now + cyclesFrom s tid o j + 16 }

/-- The next step of the operation that an engine carries out begins. -/
def nextStep (s : State) (c eng : Nat) : State :=
  match engLast s c eng with
  | some o =>
    if stepsLeft o then
      updEng s c eng fun ops => ops.map fun x => if x.id = o.id then beginStep s (grp s o.group).team o.next x else x
    else s
  | none => s

/-- The queued operations that follow the commit of `o`: every one that shares a row with it begins after its commit (R357), and so
does a reuse operation of its binding (R382). -/
def followCommit (s : State) (c eng : Nat) (o : MatOp) : State :=
  let now := s.clk.toNat + 1
  let s' := updEng s c eng fun ops => ops.map fun x => if sharesRow s x o then { x with ready := Nat.max x.ready now } else x
  let reuse := fun (x : MatOp) =>
    if isForming o.form && x.group == o.group && (match x.form with | .reuseDelta _ | .reuseFull => true | _ => false) then
      { x with ready := Nat.max x.ready now } else x
  updCore s' c fun k => { k with eng0 := k.eng0.map reuse, eng1 := k.eng1.map reuse }

/-- The operation begins with the committed rows of its team (R358). -/
def takeAcc (t : Team) (o : MatOp) : MatOp :=
  { o with
    started := true, acc := takeRows t.acc o.eng o.row o.rows
    accBad := ((List.range o.rows).map (· + o.row)).filter fun r => accBad t o.eng r }

/-- MATRIX_OP_START: the operation takes the committed rows (R358), and its first step begins. -/
def execMatrixOpStart (core eng : Nat) (s : State) : Out :=
  .next (match (if canStart s core eng then engNext s core eng else none) with
    | none => s
    | some o =>
      let tid := (grp s o.group).team
      updEng s core eng fun ops => ops.map fun x =>
        if x.id = o.id then takeAcc (team s tid) (beginStep s tid (Nat.max o.ready s.clk.toNat) { o with begun := [] }) else x)

/-- Counts the steps of an operation and the planes it skipped (R522). -/
def countMatrix (s : State) (c : Nat) (o : MatOp) : State :=
  countEvent (countEvent s c 6 o.steps) c 7 (o.begun.foldl (fun n r => n + r.skip.length) 0)

/-- An operation leaves its engine and counts complete. -/
def retireOp (s : State) (c eng : Nat) (o : MatOp) : State :=
  updGrp (updEng s c eng fun ops => ops.filter fun x => x.id != o.id) o.group fun g => classDone g 2 o.id

/-- A drain with ZERO clears its rows (R368). -/
def clearRows (s : State) (o : MatOp) : State :=
  updTeam s (grp s o.group).team fun k =>
    { k with acc := putRows k.acc o.eng o.row o.rows [], accPoison := markRows k.accPoison o.eng o.row o.rows (!o.accBad.isEmpty) }

/-- MATRIX_COMMIT: a loop writes its rows at once and is complete; a drain has read its rows, and with ZERO clears them
(R358, R368). -/
def execMatrixCommit (core eng : Nat) (s : State) : Out :=
  .next (match engHead s core eng with
    | none => s
    | some o =>
      if !o.started then s
      else
        match o.drain with
        | none => followCommit (retireOp (commitLoop (countMatrix s core o) o) core eng o) core eng o
        | some d =>
          let s := updEng s core eng fun ops => ops.map fun x => if x.id = o.id then { x with committed := true } else x
          let s := followCommit s core eng o
          if d.zero then clearRows s o else s)

/-- ACCDRN_COMPLETE: every byte of a committed drain is written (R368). -/
def execAccdrnComplete (core eng : Nat) (s : State) : Out :=
  .next (match (engQ (Machine.core s core) eng).find? fun o => o.committed with
    | none => s
    | some o =>
      match o.drain with
      | some d => retireOp (drainWrite s core o d) core eng o
      | none => retireOp s core eng o)

/-- The abandoned operations of a killed group whose team is on no core are carried out in issue order, at once: they complete, and
their effects stay visible (R44, R291, R362). DESIGN CHOICE: their engine is none while the team is saved, so that they take no time
(log 53). -/
def runAbandoned (s : State) (gid : Nat) : State :=
  (grp s gid).abandoned.foldl
    (fun s o =>
      let t := team s (grp s gid).team
      let o := takeAcc t { o with begun := [] }
      match o.drain with
      | none => commitLoop s o
      | some d =>
        let s := drainWrite s t.core o d
        if d.zero then clearRows s o else s) (updGrp s gid fun g => { g with abandoned := [] })

end Sys2Proof.Machine
end

