-- ==== Sys2Proof/Machine/Delta.lean ====
section
/-! DEFINITION. The delta directory: DBIND, DREF, DINV and DQRY of major 0x39 (R371 to R377, R390 to R395). -/

namespace Sys2Proof.Machine
open Sys2Proof

/-! ### Entries (R371 to R373) -/

def entryAt (s : State) (cx n : Nat) : DEntry := mapGetD (ctx s cx).ddir n {}

def updEntry (s : State) (cx n : Nat) (f : DEntry → DEntry) : State :=
  updCtx s cx fun c => { c with ddir := mapPut c.ddir n (f (mapGetD c.ddir n {})) }

/-- The entry of a key; a DEAD one is never found (R394). -/
def findKey (c : Ctx) (tag strm : Word) : Option Nat :=
  (c.ddir.find? fun e => e.2.used && !e.2.dead && e.2.tag == tag && e.2.strm == strm).map (·.1)

/-- The entry a new key takes: the lowest free index (log 14), else the tenant's own with the oldest LAST that is not busy. -/
def takeEntry (c : Ctx) : Option Nat :=
  match (List.range 8192).find? fun n => match mapGet c.ddir n with | some e => !e.used | none => true with
  | some n => some n
  | none =>
    ((c.ddir.filter fun e => !e.2.busy).foldl
      (fun (best : Option (Nat × DEntry)) e =>
        match best with
        | none => some e
        | some b => if e.2.last.toNat < b.2.last.toNat then some e else best) none).map (·.1)

/-- Makes an entry for a key; one that is evicted advances its generation (R373). -/
def makeEntry (cx : Nat) (tag strm : Word) (e : DEntry) : DEntry :=
  { tag := tag, strm := strm, ctx := cx, used := true, busy := true, gen := if e.used then (freeEntry e).gen else e.gen }

/-- DSTAT of a binding (R376). -/
def dstatWord (st g gen idx : Nat) : Word := BitVec.ofNat 32 (st * 2 ^ 29 + g * 2 ^ 20 + gen * 2 ^ 13 + idx)

/-- A scalar result that arrives later and belongs to no class. -/
def lateS (s : State) (d : Reg) (v : Word) : State := pendWrites s [scalarWrite s d.toNat v] false

/-! ### DBIND (R390, R391) -/

/-- The status of a found entry against a DBIND's operands (R390). -/
def bindStatus (e : DEntry) (dri : Word) (same : Bool) : Nat :=
  if e.busy then 4 else if !same then 2 else if decide (dri.toNat ≤ e.cnt) || e.refnext || e.drift then 3 else 1

/-- The binding of a group with a status, at an entry. -/
def bindTo (s : State) (d : Reg) (st gran idx : Nat) (b : Option Binding) : State :=
  let w := if 4 ≤ st then dstatWord st gran 0 0 else dstatWord st gran ((b.map fun b => b.gen).getD 0) idx
  lateS (updMe s fun g => { g with dstat := w, binding := b }) d w

/-- DBIND (R390). -/
def execDbind (f : Head) (s : State) : Out :=
  .next (plainTry s (.dbind f) fun s =>
    let r := fun (k : Nat) => readS (me s) s.who.2 (f.a.toNat + k)
    let tag := r 0
    let strm := r 1
    let wid := (r 2).toNat % 1024
    let gran := (r 2).toNat / 65536 % 256
    let k := (r 3).toNat % 512
    let x := readPair (me s) s.who.2 (f.a.toNat + 4)
    let y := readPair (me s) s.who.2 (f.a.toNat + 6)
    let cx := myCtx s
    let w := tidOf s cx wid
    if tag == 0 || (r 2).extractLsb' 10 6 != 0 || (r 2).extractLsb' 24 8 != 0 || (r 3).extractLsb' 9 23 != 0
        || k == 0 || decide (256 < k) || decide (191 < gran) then .stop (trapC s .delta)
    else if x.toNat % 64 ≠ 0 ∨ y.toNat % 64 ≠ 0 then .stop (trapC s .align)
    else if !w.valid || !w.delta then .stop (trapC s .tensor)
    else
      let s := dropClean (endBinding s s.who.1) (coreOf s (me s))
      let v := (tidOf s cx wid).wver
      let b := fun (n : Nat) (e : DEntry) => some ({ entry := n, gen := e.gen, wid := wid, steps := k, xaddr := x, yaddr := y, wver := v } : Binding)
      match findKey (ctx s cx) tag strm with
      | none =>
        match takeEntry (ctx s cx) with
        | none => .done (bindTo s f.d 5 gran 0 none)
        | some n =>
          let s := updEntry s cx n (makeEntry cx tag strm)
          .done (bindTo s f.d 0 gran n (b n (entryAt s cx n)))
      | some n =>
        let e := entryAt s cx n
        let same := e.wid == wid && e.ks == k && e.xaddr == x && e.yaddr == y && e.wseen == v
        let st := bindStatus e (me s).dri same
        if st = 4 then .done (bindTo s f.d 4 gran 0 none)
        else .done (bindTo (updEntry s cx n fun e => { e with busy := true }) f.d st gran n (b n e)))

/-! ### DREF, DINV, DQRY -/

/-- A directory instruction with a key pair. -/
def keyOp (s : State) (i : Instr) (f : Head) (eff : State → Word → Word → State × Word) : State :=
  plainOp s i fun s =>
    let (s, v) := eff s (sget s f.a) (readS (me s) s.who.2 (f.a.toNat + 1))
    lateS s f.d v

/-- DREF (R393). -/
def execDref (f : Head) (s : State) : Out :=
  .next (keyOp s (.dref f) f fun s tag strm =>
    match findKey (ctx s (myCtx s)) tag strm with
    | none => (s, 0)
    | some n => (updEntry s (myCtx s) n fun e => { e with refnext := true }, 1))

/-- DINV (R394). -/
def execDinv (f : Head) (s : State) : Out :=
  .next (keyOp s (.dinv f) f fun s tag strm =>
    let hit := fun (e : DEntry) =>
      e.used && match f.ty.toNat with
        | 0 => e.tag == tag && e.strm == strm
        | 1 => e.tag == tag
        | _ => true
    let n := ((ctx s (myCtx s)).ddir.filter fun e => hit e.2).length
    (updCtx s (myCtx s) fun c =>
      { c with ddir := c.ddir.map fun e =>
          if hit e.2 then (e.1, if e.2.busy then { e.2 with dead := true } else freeEntry e.2) else e }, BitVec.ofNat 32 n))

/-- DQRY (R395). -/
def execDqry (f : Head) (s : State) : Out :=
  .next (keyOp s (.dqry f) f fun s tag strm =>
    match findKey (ctx s (myCtx s)) tag strm with
    | none => (s, 0)
    | some n =>
      let e := entryAt s (myCtx s) n
      let wver := (tidOf s (myCtx s) e.wid).wver
      (s, match f.b.toNat with
        | 0 => BitVec.ofNat 32 (bindStatus e (me s).dri (e.wseen == wver))
        | 1 => BitVec.ofNat 32 e.cnt
        | 2 => e.wseen
        | 3 => BitVec.ofNat 32 (e.wid + 65536 * e.ks)
        | 4 => e.xaddr.extractLsb' 0 32
        | 5 => e.xaddr.extractLsb' 32 32
        | 6 => e.yaddr.extractLsb' 0 32
        | 7 => e.yaddr.extractLsb' 32 32
        | 8 => BitVec.ofNat 32 (entryFlags e)
        | _ => wver))

end Sys2Proof.Machine
end

