-- ==== Sys2Proof/Machine/Launches.lean ====
section
/-! DEFINITION. Launches: kernel headers, launch descriptors, the checks of a launch, its entry into the run list, its
accounting and its completion record (R460 to R467, R498, R499, R512 to R514). -/

namespace Sys2Proof.Machine
open Sys2Proof

/-! ### Reads and writes of the queue engine -/

/-- Bytes of a context's memory; none where translation fails or a byte is poisoned. -/
def readClean (s : State) (cx : Nat) (va : Addr) (n : Nat) : Option (List Byte) :=
  (pagesOf va n).foldl
    (fun acc p =>
      match acc, xlateWalk s cx p 0 with
      | some bs, .ok pa _ =>
        let len := Nat.min (n - (p - va).toNat) (65536 - p.toNat % 65536)
        if poisoned s pa len then none else some (bs ++ homeRead s pa len)
      | _, _ => none) (some [])

/-- The same for a queue without a context: physical addresses within the partition's HBM share or the host window (R469). -/
def readFor (s : State) (p : Nat) (cx : Option Nat) (a : Addr) (n : Nat) : Option (List Byte) :=
  match cx with
  | some cx => readClean s cx a n
  | none =>
    let ok := match regionOf s a.toNat with | .hbm | .host => owns s p a.toNat n | _ => false
    if ok && !poisoned s a.toNat n then some (homeRead s a.toNat n) else none

/-- A write by the queue engine or the walker; nothing where a page fails translation, and later where one waits to be zeroed
(R255). -/
def writeFor (s : State) (p : Nat) (cx : Option Nat) (a : Addr) (bs : List Byte) : State × Bool :=
  match cx with
  | none =>
    let ok := match regionOf s a.toNat with | .hbm | .host => owns s p a.toNat bs.length | _ => false
    if ok then (homeWrite s a.toNat bs { cls := 1 }, true) else (s, false)
  | some cx =>
    let ps := (pagesOf a bs.length).map fun q => (q, xlateWalk s cx q 1)
    if ps.all fun x => match x.2 with | .ok .. | .zero => true | _ => false then
      (ps.foldl
        (fun s x =>
          let part := (bs.drop (x.1 - a).toNat).take (65536 - x.1.toNat % 65536)
          match x.2 with
          | .ok pa _ => homeWrite s pa part { cls := 1 }
          | .zero => holdWrite s { ctx := cx, va := x.1, bytes := part, core := none }
          | _ => s) s, true)
    else (s, false)

/-- A release at system scope by every core (R278). -/
def releaseCores (s : State) : State := s.cores.foldl (fun s e => writeBackAll s e.1) s

/-! ### The kernel header (R460, R461) -/

/-- All bytes of a field are zero. -/
def zeroAt (bs : List Byte) (off n : Nat) : Bool := ((bs.drop off).take n).all (· == 0)

/-- The fields of a header lie in their ranges and its reserved bytes are zero (R464, cause 1). -/
def headerOk (bs : List Byte) : Bool :=
  let b := fun off => fieldAt bs off 1
  let flags := b 34
  fieldAt bs 0 4 == 0x4B4A485A && decide (1 ≤ fieldAt bs 4 2) && decide (fieldAt bs 4 2 ≤ 4096) && zeroAt bs 6 2
    && decide (8 ≤ b 24) && decide (b 24 ≤ 60) && b 24 % 4 == 0 && decide (b 25 ≤ 52)
    && decide (1 ≤ b 26) && decide (b 26 ≤ 32) && decide (1 ≤ b 27) && decide (b 27 ≤ 8)
    && decide (fieldAt bs 28 4 ≤ 786432) && decide (b 32 ≤ 64) && decide (b 33 ≤ 16) && decide (flags < 16) && decide (b 35 ≤ 7)
    && (flags / 8 == 0 || (decide (b 36 ≤ 60) && decide (1 ≤ b 37) && decide (b 37 ≤ 8)))
    && decide (1 ≤ b 38) && decide (b 38 ≤ 8) && decide (b 39 ≤ 64)
    && ((List.range (b 38)).foldl (fun n j => n + b (40 + j)) 0) == b 26
    && (let w := fieldAt bs 48 2; w == 0xFFFF || (w % 2 == 0 && decide (w ≤ 4092)))
    && decide (b 50 ≤ 4) && zeroAt bs 51 5 && zeroAt bs 72 56

/-- A heir line keeps R461. -/
def heirOk (bs : List Byte) : Bool :=
  let vs := fieldAt bs 8 1
  zeroAt bs 9 3 && zeroAt bs 28 4 && decide (vs < 60) && !(vs < 32 && fieldAt bs 0 4 / 2 ^ vs % 2 == 1)

def heirOf (bs : List Byte) : Heir :=
  let w := fun off => BitVec.ofNat 32 (fieldAt bs off 4)
  { map := w 0, tagw := w 4, vs := fieldAt bs 8 1, ca := w 12, cb := w 16, cc := w 20, cd := w 24 }

/-- A segment table entry keeps R28. -/
def segOk (bs : List Byte) : Bool :=
  let len := fieldAt bs 8 2
  decide (2 ≤ len) && decide (len ≤ 4096) && len % 2 == 0 && fieldAt bs 0 8 % 64 == 0 && decide (fieldAt bs 10 1 < 2) && zeroAt bs 11 5

def segmentOf (bs : List Byte) : Seg :=
  { base := BitVec.ofNat 64 (fieldAt bs 0 8), len := fieldAt bs 8 2, preload := fieldAt bs 10 1 == 1 }

/-- Records of `k` bytes. -/
def records (k n : Nat) (bs : List Byte) : List (List Byte) := (List.range n).map fun i => (bs.drop (k * i)).take k

/-- A code address lies inside the kernel's segments (R27). -/
def codeInside (segs : List Seg) (pc : Nat) : Bool :=
  decide (pc < 2 ^ 24) && pc % 2 == 0
    && match segs[pc / 4096]? with | some g => decide (pc % 4096 < g.len) | none => false

/-- A code address that no segment table could make good: odd, outside 24 bits, or beyond the table (R27). -/
def pcBad (segn pc : Nat) : Bool := decide (2 ^ 24 ≤ pc) || pc % 2 != 0 || decide (segn ≤ pc / 4096)

/-- The kernel that a header and its tables describe. -/
def kernelOf (bs : List Byte) (segs : List Seg) (tids : List Nat) (heirs : List Heir) : Kernel :=
  let b := fun off => fieldAt bs off 1
  let flags := b 34
  { segs := segs, entry := BitVec.ofNat 32 (fieldAt bs 16 4), aentry := BitVec.ofNat 32 (fieldAt bs 20 4), regs := b 24, pool := b 25
    team := b 26, span := b 27, scr := fieldAt bs 28 4, nbar := b 32, nsbar := b 33
    slices2 := flags % 2 == 1, repro := flags / 2 % 2 == 1, rerun := flags / 4 % 2 == 1, phased := flags / 8 % 2 == 1
    prio := b 35, carry := b 36, resid := b 37, roles := (List.range (b 38)).map fun j => b (40 + j)
    willk := if fieldAt bs 48 2 = 0xFFFF then none else some (fieldAt bs 48 2), tids := tids, heirs := heirs }

/-- Groups of a team that start resident on quad q (R65, R203). -/
def startGroups (k : Kernel) (q : Nat) : Nat :=
  ((List.range k.team).filter fun g => g % 4 == q && (!k.phased || decide (g < 4 * k.resid))).length

/-- The quad receives a group of the team. -/
def quadUsed (k : Kernel) (q : Nat) : Bool := decide (0 < startGroups k q)

/-- Group-registers that a team allots on a quad (R122). -/
def quadNeed (k : Kernel) (q : Nat) : Nat := if quadUsed k q then k.regs * startGroups k q + 4 * k.pool else 0

/-- The granules of a team's allotment in bytes (R218). -/
def scratchSize (k : Kernel) : Nat := roundUp k.scr 4096

/-- A team's resources exceed a core (R464, cause 5). -/
def tooLarge (k : Kernel) : Bool := (List.range 4).any fun q => decide (256 < quadNeed k q)

/-! ### The launch descriptor (R462, R464) -/

/-- What checking a launch gives: a refusal's cause, or the launch. -/
inductive LaunchCheck where
  | refuse (cause : Nat)
  | ok (l : Launch)

/-- The argument block as words; words beyond ARGL are none. -/
def argWords (bs : List Byte) : Cells 32 :=
  let ws := bytesWords bs
  (List.range ws.length).foldl (fun m i => cellSet m i (ws.getD i 0)) []

/-- The kernel at a header address, or the cause it is refused with: rows 1 to 3 of R464. -/
def checkKernel (s : State) (cx : Nat) (khdr : Addr) : Nat ⊕ Kernel :=
  match (if khdr.toNat % 64 = 0 then readClean s cx khdr 128 else none) with
  | none => .inl 1
  | some h =>
    if !headerOk h then .inl 1
    else
      let nh := fieldAt h 50 1
      match readClean s cx (BitVec.ofNat 64 (fieldAt h 64 8)) (32 * nh) with
      | none => .inl 1
      | some ht =>
        let lines := records 32 nh ht
        let two := fieldAt h 34 1 % 2 == 1
        let entry := fieldAt h 16 4
        let aentry := fieldAt h 20 4
        let segn := fieldAt h 4 2
        if !lines.all heirOk || two != (aentry != 0) || pcBad segn entry || (two && pcBad segn aentry) then .inl 1
        else
          match readClean s cx (BitVec.ofNat 64 (fieldAt h 8 8)) (16 * segn) with
          | none => .inl 2
          | some st =>
            let raw := records 16 segn st
            let segs := raw.map segmentOf
            let pre := fun (pc : Nat) => match segs[pc / 4096]? with | some g => g.preload | none => false
            if !codeInside segs entry || (two && !codeInside segs aentry) then .inl 1
            else if !raw.all segOk || decide (8 < (segs.filter fun g => g.preload).length) || !pre entry || (two && !pre aentry) then .inl 2
            else
              let nt := fieldAt h 39 1
              match readClean s cx (BitVec.ofNat 64 (fieldAt h 56 8)) (2 * nt) with
              | none => .inl 3
              | some tl =>
                let tids := (List.range nt).map fun i => fieldAt tl (2 * i) 2
                if tids.any fun t => decide (1024 ≤ t) || !(tidOf s cx t).valid then .inl 3
                else .inr (kernelOf h segs tids (lines.map heirOf))

/-- Checks a launch whose descriptor bytes have been read; `node` is a graph node's level, else `floor` bounds it (R464, R466).
DESIGN CHOICE: the argument block that SLDK reads is the one read here, not what stands in memory when a team is placed (R115,
log 26). -/
def checkLaunch (s : State) (p cx : Nat) (desc : List Byte) (node : Option Nat) (floor : Nat) : LaunchCheck :=
  match checkKernel s cx (BitVec.ofNat 64 (fieldAt desc 0 8)) with
  | .inl c => .refuse c
  | .inr k =>
    let argl := fieldAt desc 32 4
    let accn := fieldAt desc 44 2
    let prio := fieldAt desc 46 1
    let arga := fieldAt desc 24 8
    if decide (96 * k.team < fieldAt desc 20 4) || arga % 4 != 0 || argl % 4 != 0 || decide (16384 < argl) || accn % 64 != 0
        || decide (512 < accn) || (node.isNone && prio / 8 % 16 != 0) || !zeroAt desc 47 81 then .refuse 4
    else
      match readClean s cx (BitVec.ofNat 64 arga) argl with
      | none => .refuse 4
      | some ab =>
        if tooLarge k then .refuse 5
        else
          let level := match node with
            | some n => n
            | none => Nat.max (if prio / 128 = 1 then k.prio else prio % 8) floor
          .ok { part := p, ctx := cx, kernel := k, ntx := fieldAt desc 8 4, nty := fieldAt desc 12 4, ntz := fieldAt desc 16 4
                wi := fieldAt desc 20 4, args := argWords ab, argl := argl, seed := BitVec.ofNat 32 (fieldAt desc 36 4)
                heirns := BitVec.ofNat 32 (fieldAt desc 40 4), accn := accn, level := level }

/-- The reads of a kernel's header and tables meet a page that waits to be zeroed (R255). -/
def kernelZp (s : State) (cx : Nat) (khdr : Addr) : Bool :=
  zpIn s cx khdr 128 0
    || match readClean s cx khdr 128 with
      | none => false
      | some h =>
        zpIn s cx (BitVec.ofNat 64 (fieldAt h 64 8)) (32 * fieldAt h 50 1) 0 || zpIn s cx (BitVec.ofNat 64 (fieldAt h 8 8)) (16 * fieldAt h 4 2) 0
          || zpIn s cx (BitVec.ofNat 64 (fieldAt h 56 8)) (2 * fieldAt h 39 1) 0

/-- The same for a launch whose descriptor has been read. -/
def descZp (s : State) (cx : Nat) (desc : List Byte) : Bool :=
  kernelZp s cx (BitVec.ofNat 64 (fieldAt desc 0 8))
    || (decide (fieldAt desc 32 4 ≤ 16384) && zpIn s cx (BitVec.ofNat 64 (fieldAt desc 24 8)) (fieldAt desc 32 4) 0)

/-- The bytes of a launch descriptor, which is 64-byte aligned; none where it cannot be read (R462). -/
def descAt (s : State) (cx : Nat) (va : Addr) : Option (List Byte) := if va.toNat % 64 = 0 then readClean s cx va 128 else none

/-- The same for a launch descriptor's address. -/
def launchZp (s : State) (cx : Nat) (va : Addr) : Bool :=
  va.toNat % 64 == 0 && (zpIn s cx va 128 0 || match readClean s cx va 128 with | none => false | some d => descZp s cx d)

/-! ### Submission (R463 to R466) -/

/-- Teams, and spans (R556). -/
def teamCount (l : Launch) : Nat := if l.wi = 0 then 0 else l.ntx * l.nty * l.ntz
def spanCount (l : Launch) : Nat := (teamCount l + l.kernel.span - 1) / (if l.kernel.span = 0 then 1 else l.kernel.span)

/-- The level of an entry of a run list. -/
def entryLevel (s : State) : RunEntry → Nat
  | .launch id => (launch s id).level
  | .team id => (launch s (team s id).launch).level

/-- Enters the run list behind the entries of its level (R472, R474). -/
def enterRun (s : State) (p : Nat) (e : RunEntry) : State :=
  updPart s p fun q => { q with runlist := insertBy (fun a b => decide (entryLevel s a ≤ entryLevel s b)) e q.runlist }

def leaveRun (s : State) (p : Nat) (e : RunEntry) : State :=
  updPart s p fun q => { q with runlist := q.runlist.filter fun x => x != e }

/-- The next LAUNCH value of a partition (R463). -/
def assignLaunch (s : State) (p : Nat) : Nat × State :=
  (p * 2 ^ 60 + (part s p).launches, updPart s p fun q => { q with launches := q.launches + 1 })

/-- The launches of a context that have completed: what software submits now is submitted after their completion signals. -/
def doneLaunches (s : State) (cx : Nat) : List Nat := (s.launches.filter fun e => e.2.done && e.2.ctx == cx).map (·.1)

/-- Launches with all that they are ordered after themselves: the order of R190 and R278 is transitive. -/
def withAfter (s : State) (ids : List Nat) : List Nat := (ids ++ ids.flatMap fun b => (launch s b).after).eraseDups

/-- The account of a launch that no packet made: its process and thread are all ones (R515). -/
def noAcct : Acct := { proc := 0xFFFFFFFF, thread := 0xFFFFFFFF }

/-- A launch that has been checked enters the run list, if it has anything to place. -/
def enterLaunch (s : State) (id p cx : Nat) (c : LaunchCheck) (origin : Origin) (acct : Acct) (after : List Nat) : State :=
  let acct := { acct with qt := s.time, seen := s.time }
  match c with
  | .refuse n => updLaunch s id fun _ => { part := p, ctx := cx, origin := origin, acct := acct, after := after, refused := n, wi := 0, applied := true }
  | .ok l =>
    let l := { l with origin := origin, acct := acct, after := after, applied := teamCount l == 0 }
    let s := updLaunch s id fun _ => l
    if teamCount l = 0 then s else trace (enterRun s p (.launch id)) p 1 { launch := some id } []

/-- A launch that has been checked gets its identity and enters the run list. -/
def submit (s : State) (p cx : Nat) (c : LaunchCheck) (origin : Origin) (acct : Acct) (after : List Nat) : Nat × State :=
  let (id, s) := assignLaunch s p
  (id, enterLaunch s id p cx c origin acct after)

/-! ### Progress -/

/-- The teams of a launch that have been placed at some time and have not ended. -/
def liveTeams (s : State) (id : Nat) : List (Nat × Team) := s.teams.filter fun t => t.2.launch == id && !t.2.ended

/-- Every span has been placed, or none will be. -/
def placedAll (l : Launch) : Bool := (l.stopped || decide (spanCount l ≤ l.spans)) && l.again.isEmpty

/-- No group of the launch is left, in the present round (R270). -/
def roundEnded (s : State) (id : Nat) : Bool := placedAll (launch s id) && (liveTeams s id).isEmpty

/-- The casualties of the last round. -/
def lastCasualties (l : Launch) : List Casualty := l.casualties.filter fun c => c.round == l.round

/-- A re-run round is due, whether the groups exited or were killed, but for a launch that is cancelled (R458, R478, R501, R502). -/
def rerunDue (s : State) (id : Nat) : Bool :=
  let l := launch s id
  l.kernel.rerun && roundEnded s id && !l.cancelled && !(lastCasualties l).isEmpty && decide (l.round < 2)

/-- The launch has ended (R270). -/
def launchEnded (s : State) (id : Nat) : Bool := roundEnded s id && !rerunDue s id

/-- RERUN_ROUND: the spans that hold a casualty of the last round are placed again (R501). -/
def execRerunRound (launch : Nat) (s : State) : Out :=
  .next (
    if rerunDue s launch then
      let l := Machine.launch s launch
      let n := if l.kernel.span = 0 then 1 else l.kernel.span
      let spans := (lastCasualties l).foldl (fun ks c => addTo ks (c.team / n)) []
      let s := updLaunch s launch fun l => { l with round := l.round + 1, again := sortBy (fun a b => decide (a ≤ b)) spans }
      enterRun s l.part (.launch launch)
    else s)

/-! ### Ordered sums (R270) -/

/-- The order of contributions: target, then key. -/
def contribLe (a b : Contribution) : Bool :=
  let key := fun (c : Contribution) => [c.lin, c.gix, c.lane, c.k]
  let rec lex : List Nat → List Nat → Bool
    | x :: xs, y :: ys => if x = y then lex xs ys else decide (x < y)
    | _, _ => true
  lex (key a) (key b)

/-- The sum of one target word over its contributions in ascending key. -/
def sumWord (s : State) (pa : Nat) (bf : Bool) (cs : List Contribution) : List Byte :=
  let f := if bf then bf16 else fp32
  let n := if bf then 2 else 4
  leBytes (cs.foldl (fun v c => addF f v c.val.toNat) (leNat (homeRead s pa n))) n

/-- Contributions have left a partition's ordered-add area: no launch waits for it until an addition finds it full again (R269). -/
def roomInArea (s : State) (p : Nat) : State :=
  let s := updPart s p fun q => { q with addFull := false }
  { s with launches := s.launches.map fun e => (e.1, if e.2.part = p then { e.2 with areaWait := false } else e.2) }

/-- ORDERED_ADD_APPLY: each target word is written once with all its contributions (R270), over what the launch stored there: the home
slice holds the line exclusively, so what the L1s have dirty reaches it first. Contributions of a context that is being destroyed
are discarded (R458). -/
def execOrderedAddApply (launch : Nat) (s : State) : Out :=
  .next (
    let l := Machine.launch s launch
    if launchEnded s launch && !l.applied then
      let cs := if (ctx s l.ctx).dying then [] else sortBy contribLe l.contribs
      let s := if cs.isEmpty then s else releaseCores s
      let targets := cs.foldl (fun (ts : List (Nat × Bool)) c => if ts.any fun t => t == (c.pa, c.bf16) then ts else ts ++ [(c.pa, c.bf16)]) []
      let s := targets.foldl
        (fun s t => homeWrite s t.1 (sumWord s t.1 t.2 (cs.filter fun c => c.pa == t.1 && c.bf16 == t.2)) { cls := 2 }) s
      let s := if l.contribs.isEmpty then s else roomInArea s l.part
      updLaunch s launch fun l => { l with applied := true, contribs := [] }
    else s)

/-! ### Accounting (R513, R514) -/

/-- What an instruction waits for includes a return from host memory or a peer: a WAITE on class 0 for one of the loads and atomics
that have to complete, a pop for its entry, and any other for a register that it names. -/
def waitsFar (g : Group) (st : Stream) (i : Instr) : Bool :=
  match i with
  | .waite f =>
    f.ty == 0 && ((g.pend.filter fun p => p.op.isSome).take (classCount g 0 - f.b.toNat)).any fun p => !p.far.isEmpty
  | i =>
    interlocked { g with pend := g.pend.filter fun p => !p.far.isEmpty, fly := [], claims := [], splits := [] } st (namedOf i)
      || (usesOf i).pops.any fun k =>
        match (unpopped (opQ g k)).head? with | some e => e.pending && !e.far.isEmpty | none => false

/-- A stream waits as NET counts: in WAITE on class 3, in WPOP, or for a return from host memory or a peer (R514). -/
def netStream (s : State) (g : Group) (st : Stream) : Bool :=
  match waitOf g st with
  | some (.wpop ..) => true
  | some .retry | some .pop | some .late =>
    match fetchAt s g (pcOf g st) with
    | .ok (.waite f) _ => f.ty == 3 || waitsFar g st (.waite f)
    | .ok i _ => waitsFar g st i
    | _ => false
  | _ => false

/-- Every stream of a group waits so. -/
def netWait (s : State) (g : Group) : Bool :=
  (g.splits.all fun p => netStream s g (.split p.1)) && match g.aslice with | some a => a.exited || netStream s g .aslice | none => true

/-- The part of R514 in which time counts now: 0 QUEUE, 1 FAULT, 2 SAVED, 3 NET, 4 EXEC. -/
def acctPart (s : State) (id : Nat) : Nat :=
  let ts := s.teams.filter fun t => t.2.launch == id
  let gs := (ts.flatMap fun t => t.2.groups).map (grp s)
  let fault := fun (g : Group) => match g.state with | .stopped t _ => t.cause != .hintto | _ => false
  let live := ts.filter fun t => !t.2.ended
  let running := gs.filter fun g => g.resident && g.state == .running
  if gs.any fault then 1
  else if ts.isEmpty then 0
  else if !live.isEmpty && live.all fun t => !t.2.placed then 2
  else if !running.isEmpty && running.all (netWait s) then 3
  else 4

/-- Counts the nanoseconds since a launch was last seen. -/
def countTime (s : State) (id : Nat) : State :=
  let k := acctPart s id
  updLaunch s id fun l =>
    { l with acct := { l.acct with
        seen := s.time
        parts := setAt l.acct.parts k (l.acct.parts.getD k 0 + (s.time - l.acct.seen).toNat) } }

/-- Counts time for every launch that has not completed. -/
def countTimes (s : State) : State := (s.launches.filter fun e => !e.2.done).foldl (fun s e => countTime s e.1) s

/-- A casualty entry (R499). -/
def casualtyBytes (c : Casualty) : List Byte :=
  leBytes c.team 4 ++ leBytes c.gix 1 ++ leBytes c.lane 1 ++ leBytes c.cause 1 ++ leBytes c.round 1 ++ leBytes c.time.toNat 8

/-- The accounting record and the casualty list (R498, R513). -/
def acctBytes (s : State) (l : Launch) : List Byte :=
  let a := l.acct
  let t0 := if a.t0 = 0 then a.qt else a.t0
  let stor : Addr := if a.t0 = 0 then 0 else a.stor
  leBytes t0.toNat 8 ++ leBytes stor.toNat 8 ++ leBytes (a.qt - t0 - stor).toNat 8
    ++ (List.range 5).flatMap (fun k => leBytes (a.parts.getD k 0) 8) ++ leBytes s.time.toNat 8
    ++ leBytes a.proc.toNat 4 ++ leBytes a.thread.toNat 4 ++ leBytes l.casualties.length 4 ++ leBytes l.round 1
    ++ leBytes (Nat.min l.forced 255) 1 ++ List.replicate 42 0 ++ (l.casualties.take a.cap).flatMap casualtyBytes

/-! ### Completion records (R467) -/

/-- What a completion record says. -/
structure Report where
  status : Nat := 0
  cause  : Nat := 0
  tag    : Nat := 0
  launch : Option Nat := none
  wills  : Nat := 0
  disc   : Nat := 0
  deriving DecidableEq, Repr

/-- The status of a launch at its completion (R269, R458, R502). -/
def launchStatus (l : Launch) : Nat :=
  if l.refused ≠ 0 then 2
  else if l.cancelled then 3
  else if l.areaFull then 6
  else if l.killed ≠ 0 then 1
  else if l.kernel.rerun then (if (lastCasualties l).isEmpty then 0 else 1)
  else if l.casualties.isEmpty then 0 else 1

/-- The report of a launch. -/
def launchReport (l : Launch) (id tag : Nat) : Report :=
  { status := launchStatus l, cause := l.refused, tag := tag, launch := some id, wills := l.wills, disc := l.disc }

/-- The 64 bytes of a completion record. -/
def reportBytes (s : State) (seq : Nat) (r : Report) : List Byte :=
  let l : Launch := match r.launch with | some id => launch s id | none => {}
  leBytes seq 4 ++ leBytes r.status 1 ++ leBytes r.cause 1 ++ leBytes l.killed 2 ++ leBytes l.fkGix 1 ++ leBytes l.fkCause 1 ++ [0, 0]
    ++ leBytes l.fkPc.toNat 4 ++ leBytes l.fkTeam 4 ++ leBytes l.spans 4
    ++ leBytes (l.casualties.filter fun c => c.round == 0).length 4 ++ leBytes r.wills 2 ++ leBytes r.disc 2
    ++ leBytes l.repl 2 ++ leBytes l.lost 2 ++ leBytes r.tag 4 ++ leBytes (r.launch.getD 0) 8 ++ leBytes s.time.toNat 8
    ++ leBytes l.acct.addr.toNat 8

end Sys2Proof.Machine
end

