-- ==== Sys2Proof/Machine/Placement.lean ====
section
/-! DEFINITION. The scheduler core: where a team fits, the placement and start of spans, pre-emption, saves and restores
(R65 to R68, R122, R203, R219, R230, R354, R408 to R419, R472 to R474, R556). -/

namespace Sys2Proof.Machine
open Sys2Proof

/-! ### What cores have free -/

/-- The teams placed on a core. -/
def placedOn (s : State) (c : Nat) : List (Nat × Team) := s.teams.filter fun t => t.2.placed && !t.2.ended && t.2.core == c

/-- What a team needs of a core: group-registers and resident slots by quad, scratchpad, rows, barriers, Paddock entries. -/
structure Demand where
  regs  : List Nat
  slots : List Nat
  sp    : Nat
  acc   : Nat
  bars  : Nat
  pad   : Nat
  deriving DecidableEq, Repr

/-- The demand of a team that is placed for the first time. -/
def freshDemand (l : Launch) : Demand :=
  { regs := (List.range 4).map (quadNeed l.kernel), slots := (List.range 4).map (startGroups l.kernel), sp := scratchSize l.kernel
    acc := l.accn, bars := l.kernel.nbar, pad := if l.kernel.phased then l.kernel.team else 0 }

/-- The demand of a saved team: the groups that were resident when it was saved. -/
def savedDemand (s : State) (t : Team) : Demand :=
  let k := (launch s t.launch).kernel
  let gs := (t.groups.map (grp s)).filter fun g => g.state != .gone
  let on := fun (q : Nat) => gs.filter fun g => g.quad == q && g.state != .phase
  { regs := (List.range 4).map fun q =>
      if (gs.filter fun g => g.quad == q).isEmpty then 0 else k.regs * (on q).length + 4 * (poolOf t q).size
    slots := (List.range 4).map fun q => (on q).length
    sp := t.spsize, acc := t.accn, bars := k.nbar, pad := if k.phased then gs.length else 0 }

/-- Resident groups on a quad of a core. -/
def slotsUsed (s : State) (c q : Nat) : Nat :=
  (s.groups.filter fun e => e.2.resident && e.2.quad == q && coreOf s e.2 == c).length

/-- The first free run of a core's scratchpad, and of its accumulator rows. -/
def spPlace (s : State) (c size : Nat) : Option Nat :=
  placeIn (((placedOn s c).filter fun t => t.2.spsize != 0).map fun t => (t.2.spbase, t.2.spsize)) size 786432

/-- Teams that have ended and still have uncommitted operations on their rows (R354). -/
def lingering (s : State) (c : Nat) : List (Nat × Team) :=
  let ops := ((core s c).eng0 ++ (core s c).eng1).filter fun o => !o.committed
  s.teams.filter fun t => t.2.ended && ops.any fun o => (grp s o.group).team == t.1

def accPlace (s : State) (c rows : Nat) : Option Nat :=
  (placeIn (((placedOn s c ++ lingering s c).filter fun t => t.2.accn != 0).map fun t => (64 * t.2.accBase, 64 * t.2.accn))
    (64 * rows) (64 * 512)).map (· / 64)

/-- Paddock entries that placed phased teams may take (R203). -/
def padUsed (s : State) (c : Nat) : Nat :=
  (placedOn s c).foldl (fun n t =>
    if (launch s t.2.launch).kernel.phased then n + (t.2.groups.filter fun g => (grp s g).state != .gone).length else n) 0

/-- The scheduler may place a team on a core: it has been released, and is neither offline nor being scanned. -/
def coreOpen (s : State) (c : Nat) : Bool :=
  match mapGet s.cores c with
  | some k => k.released && !k.offline && !k.scanning
  | none => false

/-- A team fits on a core: its scratchpad base and its first row. -/
def fits (s : State) (c : Nat) (d : Demand) : Option (Nat × Nat) :=
  let bars := (placedOn s c).foldl (fun n t => n + (launch s t.2.launch).kernel.nbar) 0
  if coreOpen s c && (List.range 4).all (fun q => decide (quadRegs s c q + d.regs.getD q 0 ≤ 256) && decide (slotsUsed s c q + d.slots.getD q 0 ≤ 8))
      && decide (bars + d.bars ≤ 64) && decide (padUsed s c + d.pad ≤ 256) then
    match spPlace s c d.sp, accPlace s c d.acc with
    | some a, some r => some (a, r)
    | _, _ => none
  else none

/-- A team of a span is placed in a cluster. -/
def spanOn (s : State) (sp : Span) (cl : Nat) : Bool :=
  sp.teams.any fun t => (team s t).placed && !(team s t).ended && (team s t).core / 8 == cl

/-- Span barriers that spans of a cluster hold. -/
def spanBars (s : State) (cl : Nat) : Nat :=
  s.spans.foldl (fun n e => if spanOn s e.2 cl then n + (launch s e.2.launch).kernel.nsbar else n) 0

/-! ### Where a span goes (R198, R472) -/

/-- The identities that a team of a launch with `.heir` will claim, held open in a core's Hayloft (R198). DESIGN CHOICE: an identity
that several lanes or `.heir` lines name counts once for each of them (log 21). -/
def affinity (s : State) (id lin c : Nat) : Nat :=
  let l := launch s id
  let items := List.range l.wi
  let held := fun (ident : Word) =>
    match findOpen s l.ctx id l.heirns ident with | some e => e.core == some c | none => false
  l.kernel.heirs.foldl
    (fun n h => n + (items.filter fun w =>
      held (h.ca * BitVec.ofNat 32 lin + h.cb * BitVec.ofNat 32 (w / 96) + h.cc * BitVec.ofNat 32 (w % 96) + h.cd)).length) 0

/-- The core for one team among those of a cluster: the lowest that fits, or the one that holds most of its estates. -/
def bestCore (s : State) (id lin : Nat) (cs : List Nat) (d : Demand) : Option Nat :=
  let l := launch s id
  let can := cs.filter fun c => (fits s c d).isSome
  if l.kernel.heirs.isEmpty || l.heirns == 0 then can.head?
  else
    (can.foldl
      (fun (best : Option (Nat × Nat)) c =>
        let n := affinity s id lin c
        match best with
        | none => some (c, n)
        | some b => if b.2 < n then some (c, n) else best) none).map (·.1)

/-- Distinct cores of a cluster for the teams of a span, ascending SPIX. -/
def assignCores (s : State) (id : Nat) (cs : List Nat) : List Nat → Option (List (Nat × Nat))
  | [] => some []
  | lin :: lins =>
    match bestCore s id lin cs (freshDemand (launch s id)) with
    | none => none
    | some c => (assignCores s id (cs.filter (· != c)) lins).map fun rest => (lin, c) :: rest

/-- The cores of a cluster. -/
def clusterCores (cl : Nat) : List Nat := (List.range 8).map (· + 8 * cl)

/-- The teams of a span (R556). -/
def spanLins (l : Launch) (k : Nat) : List Nat :=
  let n := l.kernel.span
  (List.range (Nat.min n (teamCount l - n * k))).map (· + n * k)

/-- The lowest cluster of the partition in which a span fits, with its cores. -/
def placeFor (s : State) (id k : Nat) : Option (List (Nat × Nat)) :=
  let l := launch s id
  (sortBy (fun a b => decide (a ≤ b)) (part s l.part).clusters).findSome? fun cl =>
    if 16 < spanBars s cl + l.kernel.nsbar then none else assignCores s id (clusterCores cl) (spanLins l k)

/-- The next span of a launch: of the first round, or one to be run again. -/
def nextSpan (l : Launch) : Option Nat :=
  if !l.stopped && decide (l.spans < spanCount l) then some l.spans else l.again.head?

/-! ### Segments that must be resident first (R32, R414) -/

/-- A segment is resident on a core, or its preload has failed there. -/
def segReady (s : State) (id c : Nat) (k : Nat) : Bool :=
  let l := launch s id
  match l.kernel.segs[k]? with
  | none => true
  | some seg =>
    (match slotFor s c l.ctx seg.base with | some (_, sl) => sl.st == .resident | none => false)
      || l.badSegs.any fun b => b.1 == c && b.2.1 == k

def preloads (k : Kernel) : List Nat := (List.range k.segs.length).filter fun i => match k.segs[i]? with | some g => g.preload | none => false

/-- A placement or a restore uses the slots of the segments that were resident when it came to them (R31). -/
def useSegs (s : State) (id : Nat) (need : List (Nat × Nat)) : State :=
  (need.filter fun x => !has (launch s id).asked (4096 * x.1 + x.2)).foldl
    (fun s x =>
      match (launch s id).kernel.segs[x.2]? with
      | none => s
      | some seg =>
        match slotFor s x.1 (launch s id).ctx seg.base with
        | some (n, sl) => if sl.st == .resident then useSlot s x.1 n else s
        | none => s)
    s

/-- What a placement or a restore does for a segment it needs: one that is resident is used at once, one that is loading is waited
for, and another begins to load, where a slot can be had (R31). None where there is nothing to do yet. -/
def askSeg (s : State) (id : Nat) (x : Nat × Nat) : Option State :=
  let l := launch s id
  let asked := fun (s : State) => updLaunch s id fun l => { l with asked := addTo l.asked (4096 * x.1 + x.2) }
  match l.kernel.segs[x.2]? with
  | none => none
  | some seg =>
    match slotFor s x.1 l.ctx seg.base with
    | some (n, sl) =>
      if has l.asked (4096 * x.1 + x.2) then none else some (asked (if sl.st == .resident then useSlot s x.1 n else s))
    | none =>
      if segReady s id x.1 x.2 then none else (chooseSlot s x.1).map fun n => asked (startLoad s x.1 n l.ctx seg)

/-- Asks for the segments, as far as there are slots. -/
def startLoads (s : State) (id : Nat) (need : List (Nat × Nat)) : State := need.foldl (fun s x => (askSeg s id x).getD s) s

/-- One of these segments can be asked for now. -/
def canLoad (s : State) (id : Nat) (need : List (Nat × Nat)) : Bool := need.any fun x => (askSeg s id x).isSome

/-! ### The start of a group (R66 to R69, R101, R123, R197, R203) -/

/-- The role of a group (R68). -/
def roleOf (roles : List Nat) (gix : Nat) : Nat :=
  match roles with
  | [] => 0
  | n :: rest => if gix < n then 0 else 1 + roleOf rest (gix - n)

/-- The lanes of a group that serve a work item, or in a re-run round those that were casualties of the last one. -/
def startLanes (l : Launch) (lin gix : Nat) : Lanes :=
  if l.round = 0 then unionOf (((List.range 96).filter fun i => decide (96 * gix + i < l.wi)).map laneBit)
  else
    unionOf ((l.casualties.filter fun c => c.round + 1 == l.round && c.team == lin && c.gix == gix).map fun c => laneBit c.lane)

/-- A group at its start. -/
def newGroup (l : Launch) (tid lin gix : Nat) : Group :=
  let k := l.kernel
  let lanes := startLanes l lin gix
  let resident := !k.phased || decide (gix < 4 * k.resid)
  { state := if resident then .running else .phase, team := tid, gix := gix, role := roleOf k.roles gix, quad := gix % 4
    resident := resident, rbase := k.regs, items := lanes
    splits := if lanes = 0 then [] else [(0, { pc := k.entry, members := lanes, am := lanes, restart := k.entry })]
    aslice := if k.slices2 then some { pc := k.aentry } else none
    repro := if k.repro then 1 else 0, seed := l.seed, claimed := k.heirs.isEmpty }

/-- The FETCH trap of a load that failed (R32). -/
def failInfo (b : Nat × Nat × Addr × Nat) : TrapInfo :=
  { cause := .fetch, addr := some b.2.2.1, kind := 3, reason := b.2.2.2, target := some b.2.1 }

/-- A failed preload stops each group with a FETCH trap at its entry (R32). -/
def trapFailed (s : State) (id c gid : Nat) : State :=
  match (launch s id).badSegs.find? fun b => b.1 == c with
  | none => s
  | some b =>
    if (grp s gid).resident then takeTrap s gid (.split 0) (failInfo b)
    else updGrp s gid fun g => { g with failDue := some (failInfo b) }

/-- The placement or restore is made: its loads and their failures are done with. -/
def forgetLoads (s : State) (id : Nat) : State := updLaunch s id fun l => { l with asked := [], badSegs := [] }

/-- Starts one group of a placed team. -/
def startGroup (s : State) (id tid c lin gix : Nat) : State :=
  let (gid, s) := freshId s
  let g := newGroup (launch s id) tid lin gix
  let g := { g with slot := if g.resident then (freeSlot s c g.quad).getD 0 else 0, readyAt := if g.resident then 0 else gid }
  let s := setGrp s gid g
  let s := updTeam s tid fun t => { t with groups := t.groups ++ [gid] }
  let s := if g.resident then s
    else updCore s c fun k => { k with paddock := addTo k.paddock gid, ready := addTo k.ready gid }
  s

/-- After every group of a span exists: groups without lanes exit, and the others make their automatic claims. -/
def settleGroup (s : State) (id c gid : Nat) : State :=
  let g := grp s gid
  if g.items = 0 then groupExit s gid
  else
    let s := trapFailed s id c gid
    if (grp s gid).resident then heirClaims s gid else s

/-- Places one team of a span. -/
def placeTeam (s : State) (id sid : Nat) (lin c : Nat) : State :=
  let l := launch s id
  let k := l.kernel
  match fits s c (freshDemand l) with
  | none => s
  | some (a, r) =>
    let (tid, s) := freshId s
    let s := dropClean s c
    let t : Team :=
      { launch := id, span := sid, lin := lin, core := c, placed := true, spbase := a, spsize := scratchSize k
        bars := (List.range k.nbar).map fun n => (n, { exp := k.team })
        pools := ((List.range 4).filter (quadUsed k)).map fun q => (q, { size := k.pool, free := k.pool })
        accn := l.accn, accBase := r, since := s.time }
    let s := setTeam s tid t
    let s := updSpan s sid fun p => { p with teams := p.teams ++ [tid] }
    (List.range k.team).foldl (fun s gix => startGroup s id tid c lin gix) s

/-- Places a span of a launch on the cores found for it. -/
def placeSpan (s : State) (id k : Nat) (cores : List (Nat × Nat)) : State :=
  let l := launch s id
  let (sid, s) := freshId s
  let s := updSpan s sid fun _ =>
    { launch := id, bars := (List.range l.kernel.nsbar).map fun n => (n, { exp := l.kernel.team * cores.length }) }
  let s := cores.foldl (fun s x => placeTeam s id sid x.1 x.2) s
  let s := (span s sid).teams.foldl
    (fun s tid => (team s tid).groups.foldl (fun s gid => settleGroup s id (team s tid).core gid) s) s
  let s := forgetLoads s id
  let s := updLaunch s id fun l =>
    if !l.stopped && decide (l.spans < spanCount l) then { l with spans := l.spans + 1 } else { l with again := without l.again k }
  if (nextSpan (launch s id)).isNone then leaveRun s l.part (.launch id) else s

/-! ### Saves (R408 to R413, R417, R419) -/

/-- Posts a pre-emption request to every resident group of a team (R408); a stopped group meets it when it goes on. -/
def requestSave (s : State) (tid : Nat) : State :=
  let s := updTeam s tid fun t => { t with preempt := true, asked := s.time }
  (team s tid).groups.foldl (fun s gid =>
    updGrp s gid fun g => if g.resident then { g with preempt := true } else g) s

/-- A group of a team does not keep it on its core: saved, gone, or a phase whose record has been written out. -/
def isSaved (s : State) (gid : Nat) : Bool :=
  let g := grp s gid
  match g.state with
  | .gone | .phase => true
  | .parked | .stopped .. => g.image.isSome
  | .running => false

/-- The team can leave its core (R411). -/
def canLeave (s : State) (tid : Nat) : Bool :=
  let t := team s tid
  t.placed && t.preempt && !t.ended && t.groups.all (isSaved s)

/-- A save covers the whole allotment: some group was saved in full (R413). -/
def fullSave (s : State) (t : Team) : Bool :=
  t.groups.any fun gid =>
    let g := grp s gid
    match g.state with
    | .parked => g.hintRegs.isNone
    | .stopped .. => true
    | _ => false

/-- The scratchpad ranges that the hints of a team's groups name. -/
def namedRanges (s : State) (t : Team) : List (Nat × Nat) :=
  t.groups.flatMap fun gid => let g := grp s gid; if g.state == .parked then g.hintRanges else []

/-- Every scratchpad byte outside the named ranges becomes unpredictable (R413). -/
def forgetScratch (s : State) (tid : Nat) (keep : List (Nat × Nat)) : State :=
  let t := team s tid
  let kept := fun (a : Nat) => keep.any fun r => decide (r.1 ≤ a) && decide (a < r.1 + r.2)
  let lost := (List.range t.spsize).filter fun a => !kept a
  let s' := updTeam s tid fun t =>
    { t with sp := (List.range lost.length).foldl (fun m i => cellSet m (lost.getD i 0) (Config.freeByte (s.fresh + i))) t.sp }
  { s' with fresh := s.fresh + lost.length }

/-- Writes out the records of a team's queued phases (R202); the group whose record finds no room, if any. -/
def writeOutPhases (s : State) (c : Nat) : List Nat → State × Option Nat
  | [] => (s, none)
  | gid :: rest =>
    if (grp s gid).state == .phase && !has (core s c).phaseOut gid then
      match writeOutPhase s c gid with
      | some s => writeOutPhases s c rest
      | none => (s, some gid)
    else writeOutPhases s c rest

/-- A group of a team that leaves its core waits in no queue, and its uncommitted matrix operations are abandoned, those of a
halted or ended group with them (R126, R362, R419, R448). -/
def leaveGroup (s : State) (gid : Nat) : State :=
  let (s, ops) := takeOps s gid
  updGrp (leaveQueues s gid) gid fun g => { g with abandoned := g.abandoned ++ ops }

/-- TEAM_SAVE_DONE: every group of the team is saved, and the team leaves its core (R411). What its groups have stored is
written back first: on another core they still read it (R276, R279). -/
def execTeamSaveDone (team : Nat) (s : State) : Out :=
  .next (
    if !canLeave s team then s
    else
      let t := Machine.team s team
      match writeOutPhases s t.core t.groups with
      | (s, some gid) => waitForArea s gid
      | (s, none) =>
        let s := writeBackAll (t.groups.foldl leaveGroup s) t.core
        let s := if fullSave s t then s else forgetScratch s team (namedRanges s t)
        let phases := t.groups.filter fun gid => (grp s gid).state == .phase
        let s := updCore s t.core fun k =>
          { k with
            paddock := k.paddock.filter fun g => !has phases g, ready := k.ready.filter fun g => !has phases g
            phaseOut := k.phaseOut.filter fun g => !has phases g, fetched := k.fetched.filter fun g => !has phases g }
        let s := t.groups.foldl (fun s gid => updGrp s gid fun g => { g with resident := false, preempt := false }) s
        let s := updTeam s team fun t => { t with placed := false, preempt := false }
        enterRun s (launch s t.launch).part (.team team))

/-- QUANTUM_EXPIRE: the team is pre-empted (R474). -/
def execQuantumExpire (team : Nat) (s : State) : Out :=
  .next (let t := Machine.team s team; if t.placed && !t.ended && !t.preempt then requestSave s team else s)

/-- A group that reached no save point is stopped and saved in full, with a HINTTO record (R409). -/
def forceSave (s : State) (gid : Nat) : State :=
  let st := firstStream (grp s gid)
  let s := updGrp (saveGroup s gid none) gid fun g => { g with forced := true }
  let s := updLaunch s (teamOf s (grp s gid)).launch fun l => { l with forced := l.forced + 1 }
  let s := countEvent s (coreOf s (grp s gid)) 10 1
  if (grp s gid).image.isSome then trapRecord s gid st { cause := .hintto } false true else s

/-- HINT_TIMEOUT (R409). -/
def execHintTimeout (team : Nat) (s : State) : Out :=
  .next ((Machine.team s team).groups.foldl
    (fun s gid => let g := grp s gid; if g.preempt && g.resident && g.state == .running then forceSave s gid else s) s)

/-! ### Restores (R239, R336, R362, R414) -/

/-- A saved team may be restored in a cluster: where other teams of its span are placed, only beside them (R64, R230). -/
def spanAllows (s : State) (t : Team) (cl : Nat) : Bool :=
  let sp := span s t.span
  if spanOn s sp cl then true
  else decide (spanBars s cl + (launch s t.launch).kernel.nsbar ≤ 16) && !sp.teams.any fun x => (team s x).placed && !(team s x).ended

/-- The core to which a saved team is restored: the lowest of the partition's on which it fits, and on which no other team of
its span is placed. -/
def restoreCore (s : State) (tid : Nat) : Option Nat :=
  let t := team s tid
  let l := launch s t.launch
  let d := savedDemand s t
  (sortBy (fun a b => decide (a ≤ b)) (part s l.part).clusters).findSome? fun cl =>
    if spanAllows s t cl then
      (clusterCores cl).find? fun c =>
        (fits s c d).isSome && !(span s t.span).teams.any fun x => (team s x).placed && !(team s x).ended && (team s x).core == c
    else none

/-- The segments that must be resident: the preload segments and those of the groups' program counters. -/
def restoreSegs (s : State) (tid : Nat) : List Nat :=
  let t := team s tid
  t.groups.foldl
    (fun ks gid => let g := grp s gid
      if g.state == .gone then ks else (livePcs g).foldl (fun ks pc => addTo ks (pc.toNat / 4096 % 4096)) ks)
    (preloads (launch s t.launch).kernel)

/-- An armed monitor is armed again with its latch set; a split that waited in MWAIT returns with status 2 (R239). -/
def rearm (g : Group) : Group :=
  match g.monitor with
  | some m =>
    let w := wakeMwait g 2
    if w.monitor.isNone then w else { w with monitor := some { m with latch := true } }
  | none => g

/-- Restores one group on its team's new core. -/
def restoreGroup (s : State) (c gid : Nat) : State :=
  let g := grp s gid
  let place := fun (s : State) => updGrp s gid fun g => { g with resident := true, slot := (freeSlot s c g.quad).getD 0, preempt := false }
  match g.state with
  | .parked =>
    traceGroup (endStop (place s) gid isDesc rearm) gid 5 none none []
  | .stopped .. =>
    let (s, ok) := readImage (place s) gid
    if ok then traceGroup (updGrp (reloadQueues s gid) gid rearm) gid 5 none none [] else killStopped s gid .estate
  | .phase => updCore s c fun k =>
      { k with paddock := addTo k.paddock gid, phaseOut := addTo k.phaseOut gid
               ready := if g.phaseWait.isNone then addTo k.ready gid else k.ready }
  | .gone => requeueOps s gid
  | .running => s

/-- A stream of a restored group whose segment could not be loaded traps FETCH (R32, R414). -/
def trapRestored (s : State) (id c gid : Nat) : State :=
  let g := grp s gid
  let bad := fun (pc : Word) => (launch s id).badSegs.find? fun b => b.1 == c && b.2.1 == pc.toNat / 4096 % 4096
  let sts := (g.splits.map fun e => Stream.split e.1) ++ (match g.aslice with | some a => if a.exited then [] else [Stream.aslice] | none => [])
  match g.state, sts.findSome? fun st => (bad (pcOf g st)).map fun b => (st, b) with
  | .running, some (st, b) => takeTrap s gid st (failInfo b)
  | _, _ => s

/-- Restores a saved team on a core. -/
def restoreTeam (s : State) (tid c : Nat) : State :=
  let t := team s tid
  match fits s c (savedDemand s t) with
  | none => s
  | some (a, r) =>
    let s := updTeam (dropClean s c) tid fun t => { t with core := c, placed := true, spbase := a, accBase := r, since := s.time }
    let s := leaveRun s (launch s t.launch).part (.team tid)
    let s := t.groups.foldl (fun s gid => restoreGroup s c gid) s
    forgetLoads (t.groups.foldl (fun s gid => trapRestored s t.launch c gid) s) t.launch

/-! ### The next step of the scheduler (R472, R473) -/

/-- What an entry of the run list comes to: it does not fit, it waits for segments, or it changes the state. -/
inductive Placing where
  | noRoom
  | waits
  | act (s : State)

/-- Makes room in the Haylofts of some cores, `n` lines in each (R187). -/
def recordRoom (s : State) (n : Nat) : List Nat → Room
  | [] => .free s
  | c :: cs => match makeRoom s c n 4200 with | .free s => recordRoom s n cs | r => r

/-- Lines that the queued phases of a team that starts take (R184, R203). -/
def startLines (k : Kernel) : Nat := if k.phased then 5 * (k.team - 4 * k.resid) else 0

/-- Places a span once the Haylofts have room for its phase records; with none the placement waits (R187, R417). -/
def placeWithRoom (s : State) (id k : Nat) (cores : List (Nat × Nat)) : Placing :=
  match recordRoom s (startLines (launch s id).kernel) (cores.map (·.2)) with
  | .free s => .act (placeSpan s id k cores)
  | .full t | .busy t => if t = s then .waits else .act t
  | .wait t gid => if (grp t gid).recordDue then (if t = s then .waits else .act t) else .act (waitForArea t gid)

/-- Tries one entry of the run list. -/
def tryEntry (s : State) : RunEntry → Placing
  | .launch id =>
    let l := launch s id
    match nextSpan l with
    | none => .act (leaveRun s l.part (.launch id))
    | some k =>
      match placeFor s id k with
      | none => .noRoom
      | some cores =>
        let need := cores.flatMap fun x => (preloads l.kernel).map fun i => (x.2, i)
        if need.all fun x => segReady s id x.1 x.2 then placeWithRoom (useSegs s id need) id k cores
        else if canLoad s id need then .act (startLoads s id need)
        else .waits
  | .team tid =>
    if (team s tid).ended then .act (leaveRun s (launch s (team s tid).launch).part (.team tid))
    else
      match restoreCore s tid with
      | none => .noRoom
      | some c =>
        let id := (team s tid).launch
        let need := (restoreSegs s tid).map fun i => (c, i)
        if need.all fun x => segReady s id x.1 x.2 then .act (restoreTeam (useSegs s id need) tid c)
        else if canLoad s id need then .act (startLoads s id need)
        else .waits

/-- The node of a walk that a launch is: the cycle in which it became ready. -/
def nodeEntered (s : State) (id : Nat) : Option Nat :=
  match (launch s id).origin with
  | .node k n => ((mapGetD (part s (launch s id).part).graphs k {}).nodes[n]?).map (·.entered)
  | _ => none

/-- The walker has not started every node that became ready in the cycle in which a launch node did (R492). -/
def walkerBehind (s : State) (p id : Nat) : Bool :=
  match nodeEntered s id with
  | none => false
  | some c => (part s p).graphs.any fun g => g.2.walking && !g.2.faulted && g.2.nodes.any fun d => d.st == 1 && d.type != 3 && d.entered == c

/-- The same for an entry of the run list. -/
def entryBehind (s : State) (p : Nat) (e : RunEntry) : Bool := match e with | .launch id => walkerBehind s p id | .team _ => false

/-- The first entry that fits decides. -/
def tryEntries (s : State) : List RunEntry → Placing
  | [] => .noRoom
  | e :: es =>
    match tryEntry s e with
    | .noRoom => tryEntries s es
    | x => x

/-- An entry has a place, its segments and records left aside. -/
def hasRoom (s : State) : RunEntry → Bool
  | .launch id => match nextSpan (launch s id) with | some k => (placeFor s id k).isSome | none => true
  | .team tid => (team s tid).ended || (restoreCore s tid).isSome

/-- The state as if a team had left its core. -/
def unplace (s : State) (tid : Nat) : State :=
  let s := (team s tid).groups.foldl (fun s gid => updGrp s gid fun g => { g with resident := false }) s
  updTeam s tid fun t => { t with placed := false }

/-- The placed teams of a partition whose level is above a launch's: the highest-numbered level first, and of one level the most
recently placed first (R473); of teams placed in one cycle, the one with the later number. -/
def lowerTeams (s : State) (p level : Nat) : List Nat :=
  let lev := fun (t : Nat × Team) => (launch s t.2.launch).level
  (sortBy (fun a b => decide (lev b < lev a) || (lev a == lev b &&
    (decide (b.2.since.toNat < a.2.since.toNat) || (b.2.since == a.2.since && decide (b.1 ≤ a.1)))))
    (s.teams.filter fun t =>
      t.2.placed && !t.2.ended && (launch s t.2.launch).part == p && decide (level < lev t))).map (·.1)

/-- The first of these teams that have to leave, one after another, until the entry has room; none where it has none even then. -/
def leaveUntil (s : State) (e : RunEntry) : List Nat → Option (List Nat)
  | [] => if hasRoom s e then some [] else none
  | t :: ts => if hasRoom s e then some [] else (leaveUntil (unplace s t) e ts).map (t :: ·)

/-- The teams to pre-empt for the first launch, beside those that are leaving already; none where it would not fit even so. -/
def victimsFor (s : State) (p : Nat) (e : RunEntry) : Option (List Nat) :=
  let vs := lowerTeams s p (entryLevel s e)
  let (going, staying) := vs.partition fun t => (team s t).preempt
  leaveUntil (going.foldl unplace s) e staying

/-- The scheduler's next step, if it has one. DESIGN CHOICE: while teams leave for the first entry no later one is placed, which could
take what they give up (R472, R473, log 58). -/
def schedule (s : State) (p : Nat) : Option State :=
  let run := (part s p).runlist
  match run with
  | [] => none
  | first :: rest =>
    if entryBehind s p first then none
    else
      match tryEntry s first with
      | .act s => some s
      | .waits => none
      | .noRoom =>
        match victimsFor s p first with
        | some (t :: ts) => some ((t :: ts).foldl requestSave s)
        | some [] => none
        | none =>
          match tryEntries s (rest.takeWhile fun e => !entryBehind s p e) with
          | .act s => some s
          | _ => none

/-- PLACE_SPAN: the scheduler places the next span that fits, restores a team, loads what it needs, or pre-empts (R472). -/
def execPlaceSpan (part : Nat) (s : State) : Out := .next ((schedule s part).getD s)

end Sys2Proof.Machine
end

