-- ==== Sys2Proof/Machine/Experts.lean ====
section
/-! DEFINITION. Experts, migrations, per-expert counters, the Corrals and the work feeds: major 0x3A but GSIG (R427 to R454,
R555). -/

namespace Sys2Proof.Machine
open Sys2Proof

/-! ### Counters (R436 to R438) -/

/-- A counter as it stands in this cycle. -/
def counterNow (s : State) (p x : Nat) : Counter :=
  let c := mapGetD (part s p).counters x {}
  if c.at_ = s.clk.toNat + 1 then c else { c with at_ := s.clk.toNat + 1, incs := 0, was := c.ovf, readers := [] }

def setCounter (s : State) (p x : Nat) (c : Counter) : State := updPart s p fun q => { q with counters := mapPut q.counters x c }

/-- The overflow flag in a result of CNTRD that is still in flight. -/
def flagRead (s : State) (r : Nat × Nat) : State :=
  updGrp s r.1 fun g =>
    { g with pend := g.pend.map fun p =>
        if p.id = r.2 then
          { p with writes := p.writes.zipIdx.map fun w =>
              if w.2 = 1 then { w.1 with vals := cellSet w.1.vals 0 (cellGet w.1.vals 0 ||| 0x80000000) } else w.1 }
        else p }

/-- Count(x), `n` times. An overflow shows in what a read of the same cycle returns (R436). -/
def countExpert (s : State) (p x n : Nat) : State :=
  let c := counterNow s p x
  let wraps := decide (2 ^ 48 ≤ c.count + n)
  let s := setCounter s p x { c with count := (c.count + n) % 2 ^ 48, ovf := c.ovf || wraps, incs := c.incs + n }
  if wraps then c.readers.foldl flagRead s else s

/-- Scalar results that arrive later and belong to no class. -/
def lateRegs (s : State) (d : Nat) (vs : List Word) : State :=
  pendWrites s ((List.range vs.length).map fun j => scalarWrite s (d + j) (vs.getD j 0)) false

/-- CNTRD (R454): the value before any increment of this cycle, which a clear goes ahead of (R436). -/
def execCntrd (f : Head) (s : State) : Out :=
  .next (plainOp s (.cntrd f) fun s =>
    let p := partOf s (me s)
    let x := (sget s f.a).toNat % 65536
    let c := counterNow s p x
    let v := (c.count + (2 ^ 48 - c.incs % 2 ^ 48)) % 2 ^ 48
    let flag := if f.ty == 1 then c.was else c.ovf
    let (id, _) := freshId s
    let s := setCounter s p x
      (if f.ty == 1 then { c with count := c.incs % 2 ^ 48, ovf := false, was := false, readers := [] }
       else { c with readers := c.readers ++ [(s.who.1, id)] })
    lateRegs s f.d.toNat [BitVec.ofNat 32 v, BitVec.ofNat 32 (v / 2 ^ 32 + (if flag then 2 ^ 31 else 0))])

/-! ### XBIND and migrations (R427 to R435) -/

/-- XBIND (R430): TY 1 never starts a migration. -/
def execXbind (f : Head) (s : State) : Out :=
  .next (plainTry s (.xbind f) fun s =>
    let t := sget s f.a
    let cx := myCtx s
    let p := partOf s (me s)
    let q := part s p
    let e := tidOf s cx t.toNat
    if decide (1024 ≤ t.toNat) || !e.valid then .stop (trapC s .tensor)
    else if !e.expert || (e.res != 0 && e.back == 0) then .stop (trapC s .expert)
    else
      let starts := (e.res == 2 || e.res == 3) && f.ty == 0 && q.xpol.getLsbD 0 && decide (q.migrations.length < q.xpol.toNat / 2 % 128)
      if starts && classFull s 3 then .stop (block s .retry)
      else
        let s := dropClean s (coreOf s (me s))
        let (id, s) := freshId s
        let s := if starts then
            let s := updTid s cx t.toNat fun e => { e with res := 1 }
            let s := updPart s p fun q => { q with migrations := q.migrations ++
              [{ id := id, ctx := cx, tid := t.toNat, back := e.res, group := s.who.1, cls := id, entry := some e }] }
            updMe s fun g => classStart g 3 id
          else s
        let addr := if e.res = 0 then e.base else e.back
        let status := e.xnum * 65536 + (if starts then 8 else 0) + (if e.res = 0 then 0 else 4) + e.res
        .done (lateRegs (countExpert s p e.xnum 1) f.d.toNat
          [addr.extractLsb' 0 32, addr.extractLsb' 32 32, BitVec.ofNat 32 status]))

/-- A write of the memory controllers: it changes no weight version (R434). -/
def controllerWrite (s : State) (pa : Nat) (bs : List Byte) : State :=
  let s' := homeWrite s pa bs { cls := 3 }
  { s' with ctxs := s.ctxs }

/-- Copies `n` bytes of the home range from the backing copy; none where a read or a write fails. -/
def migrateBytes (cx : Nat) (shift : Addr) (s : Option State) (va : Addr) (n : Nat) : Option State :=
  s.bind fun s =>
    (List.range n).foldl
      (fun s i =>
        s.bind fun s =>
          match xlateWalk s cx (va + shift + BitVec.ofNat 64 i) 0, xlateWalk s cx (va + BitVec.ofNat 64 i) 1 with
          | .ok src _, .ok dst _ => if poisoned s src 1 then none else some (controllerWrite s dst (homeRead s src 1))
          | _, _ => none) (some s)

/-- Copies every byte of an expert's home range (R427, R434). -/
def migrateAll (s : State) (cx : Nat) (e : Tid) : Option State :=
  let shift := e.back - e.base
  (elemIndices e).foldl
    (fun s x =>
      let s := migrateBytes cx shift s (elemAddr e.base e.fmt x) ((elemBits e.fmt + 7) / 8)
      if e.mx then migrateBytes cx shift s (scaleAddr e.sbase x) 2 else s) (some s)

/-- A migration ends with a residency, and its class-3 operation is complete (R435). -/
def endMigration (s : State) (p : Nat) (m : Migration) (res : Nat) : State :=
  let s := updTid s m.ctx m.tid fun e => { e with res := res }
  let s := updPart s p fun q => { q with migrations := q.migrations.filter fun x => x.id != m.id }
  updGrp s m.group fun g => classDone g 3 m.cls

def findMigration (s : State) (p id : Nat) : Option Migration := (part s p).migrations.find? fun m => m.id == id

/-- The entry whose bytes a migration copies: the one that its XBIND read (R347). -/
def entryOf (s : State) (m : Migration) : Tid := m.entry.getD (tidOf s m.ctx m.tid)

/-- The residency that a failed migration leaves (R435). -/
def failedRes (m : Migration) : Nat := if m.claimed then 0 else m.back

/-- A migration meets a page that waits to be zeroed, and waits for it (R255). -/
def migrationZp (s : State) (m : Migration) : Bool :=
  let e := entryOf s m
  let shift := e.back - e.base
  (elemIndices e).any fun x =>
    let n := (elemBits e.fmt + 7) / 8
    let a := elemAddr e.base e.fmt x
    let b := scaleAddr e.sbase x
    zpIn s m.ctx a n 1 || zpIn s m.ctx (a + shift) n 0 || (e.mx && (zpIn s m.ctx b 2 1 || zpIn s m.ctx (b + shift) 2 0))

/-- MIGRATION_COMPLETE (R435): a byte that cannot be read or written makes it a failure. -/
def execMigrationComplete (part migration : Nat) (s : State) : Out :=
  .next (match findMigration s part migration with
    | none => s
    | some m =>
      if migrationZp s m then s else
      match migrateAll s m.ctx (entryOf s m) with
      | some s => endMigration s part m 0
      | none => endMigration s part m (failedRes m))

/-- MIGRATION_FAIL (R435). -/
def execMigrationFail (part migration : Nat) (s : State) : Out :=
  .next (match findMigration s part migration with
    | none => s
    | some m => endMigration s part m (failedRes m))

/-! ### Work feeds (R445 to R449) -/

def feedOf (s : State) (p f : Nat) : Feed := mapGetD (part s p).feeds f {}

def updFeed (s : State) (p f : Nat) (g : Feed → Feed) : State :=
  updPart s p fun q => { q with feeds := mapPut q.feeds f (g (mapGetD q.feeds f {})) }

/-- A record or a status goes to a stream that sleeps in WPOP, and its stream goes on; a record is an acquire. -/
def wakeSleeper (s : State) (gid : Nat) (st : Stream) (d : Reg) (ws : List Word) : State :=
  dropClean (updGrp s gid fun g => wake g st ((List.range ws.length).map fun j => (d.toNat + j, ws.getD j 0)))
    (coreOf s (grp s gid))

/-- A sleeper that can still be served: its stream waits in WPOP on this feed and its group has not been saved. -/
def asleep (s : State) (f : Nat) (x : Nat × Stream × Reg) : Bool :=
  let g := grp s x.1
  g.state != .parked && match waitOf g x.2.1 with | some (.wpop n _) => n == f | _ => false

/-- Appends a record, or hands it to the oldest sleeper (R448). -/
def pushFeed (s : State) (p f : Nat) (ws : List Word) : State :=
  match (feedOf s p f).sleepers.filter (asleep s f) with
  | (gid, st, d) :: rest => wakeSleeper (updFeed s p f fun x => { x with sleepers := rest }) gid st d ws
  | [] => updFeed s p f fun x => { x with recs := x.recs ++ [ws], sleepers := [] }

/-- The feed is created and assigned to a context (R446). -/
def feedUsable (x : Feed) (cx : Nat) : Bool := x.created && x.ctx == cx

/-- Feed number F of WPOP and WROOM, and of WPUSH. -/
def feedAb (f : Head) : Nat := 64 * f.a.toNat + f.b.toNat
def feedDb (f : Head) : Nat := 64 * f.d.toNat + f.b.toNat

/-- WPOP (R448, R449). -/
def execWpop (f : Head) (s : State) : Out :=
  .next (plainTry s (.wpop f) fun s =>
    let p := partOf s (me s)
    let n := feedAb f
    let x := feedOf s p n
    if !feedUsable x (myCtx s) then .stop (trapC s .feed)
    else
      match x.recs with
      | ws :: rest =>
        let s := dropClean (updFeed s p n fun x => { x with recs := rest }) (coreOf s (me s))
        .done (lateRegs s f.d.toNat ws)
      | [] =>
        if x.closed then .done (lateRegs s f.d.toNat [0xC0000000])
        else if f.ty == 1 then .done (lateRegs s f.d.toNat [0x80000000])
        else
          let s := updFeed s p n fun x =>
            { x with sleepers := (x.sleepers.filter fun y => y.1 != s.who.1 || y.2.1 != s.who.2) ++ [(s.who.1, s.who.2, f.d)] }
          .stop (block s (.wpop n f.d)))

/-- WPUSH (R449). -/
def execWpush (f : Head) (s : State) : Out :=
  .next (plainTry s (.wpush f) fun s =>
    let p := partOf s (me s)
    let n := feedDb f
    let x := feedOf s p n
    let ws := (List.range 16).map fun j => readS (me s) s.who.2 (f.a.toNat + j)
    if !feedUsable x (myCtx s) || (ws.headD 0).getLsbD 31 || x.closed then .stop (trapC s .feed)
    else if x.cap ≤ x.recs.length then .stop (block s .retry)
    else .done (pushFeed (writeBackAll s (coreOf s (me s))) p n ws))

/-- WROOM (R449). -/
def execWroom (f : Head) (s : State) : Out :=
  .next (plainTry s (.wroom f) fun s =>
    let x := feedOf s (partOf s (me s)) (feedAb f)
    if !feedUsable x (myCtx s) then .stop (trapC s .feed)
    else .done (lateRegs s f.d.toNat [if x.closed then 0 else BitVec.ofNat 32 (x.cap - x.recs.length)]))

/-! ### Emissions (R441 to R445, R555) -/

def sessionOf (s : State) (p n : Nat) : Session := mapGetD (part s p).sessions n {}

/-- SLOTB. -/
def slotBytes (x : Session) : Nat := 64 + 64 * ((x.batch + 7) / 8)

/-- The header and the entries of a slot (R441). -/
def slotHeader (x : Session) (em : Emission) : List Byte :=
  leBytes em.recs.length 4 ++ leBytes (x.xbase + em.e) 4 ++ leBytes em.session 4 ++ leBytes em.die 4 ++ List.replicate 48 0

def recLe (a b : Rec) : Bool := decide (a.token.toNat < b.token.toNat) || (a.token == b.token && decide (a.k ≤ b.k))

def slotEntries (em : Emission) : List Byte :=
  (sortBy recLe em.recs).flatMap fun r => leBytes r.token.toNat 4 ++ leBytes r.gate.toNat 2 ++ leBytes r.k 1 ++ [0]

/-- The work record of an emission (R445). -/
def workRecord (x : Session) (em : Emission) : List Word :=
  [BitVec.ofNat 32 (em.recs.length * 65536 + em.e), BitVec.ofNat 32 (x.xbase + em.e), em.addr.extractLsb' 0 32, em.addr.extractLsb' 32 32,
    BitVec.ofNat 32 em.session, BitVec.ofNat 32 em.die, em.head] ++ List.replicate 9 0

/-- Streams that wait in CORF for an emission count it, and go on after their last (R452). -/
def corfDone (s : State) (id : Nat) : State :=
  (s.groups.map (·.1)).foldl
    (fun s gid =>
      ((grp s gid).splits.map (·.1)).foldl
        (fun s n =>
          match waitOf (grp s gid) (.split n) with
          | some (.corf made pending d) =>
            if !has pending id then s
            else if (without pending id).isEmpty then
              updGrp s gid fun g => wake g (.split n) [(d.toNat, BitVec.ofNat 32 made)]
            else updGrp s gid fun g => setWait g (.split n) (some (.corf made (without pending id) d))
          | _ => s) s) s

/-- An emission has ended. -/
def dropEmission (s : State) (p id : Nat) : State :=
  corfDone (updPart s p fun q => { q with emissions := q.emissions.filter fun e => e.id != id }) id

def updEmission (s : State) (p id : Nat) (f : Emission → Emission) : State :=
  updPart s p fun q => { q with emissions := q.emissions.map fun e => if e.id = id then f e else e }

/-- The first page of `n` bytes of a slot that an access of a kind cannot reach: 0 a read, 1 a write. -/
def slotFault (s : State) (cx : Nat) (em : Emission) (n kind : Nat) : Option (Addr × Xlate) :=
  (pagesOf em.addr n).findSome? fun p => match xlateWalk s cx p kind with | .ok .. => none | x => some (p, x)

/-- The child of a launch-mode emission (R444): ordered after nothing but the slot write. -/
def emitChild (s : State) (p : Nat) (x : Session) (em : Emission) : State :=
  let c := match descAt s x.ctx x.tmpl with
    | none => LaunchCheck.refuse 4
    | some desc => checkLaunch s p x.ctx desc none 0
  let c := match c with
    | .ok l =>
      let ws := [em.addr.extractLsb' 0 32, em.addr.extractLsb' 32 32, BitVec.ofNat 32 em.recs.length, BitVec.ofNat 32 (x.xbase + em.e)]
      LaunchCheck.ok { l with args := (List.range 4).foldl (fun m i => cellSet m i (ws.getD i 0)) l.args, argl := Nat.max l.argl 16 }
    | r => r
  (submit s p x.ctx c (.corral em.session em.addr) noAcct []).2

/-- Steps 2 and 3 of an emission: word 0 of its slot is read, and once it is 0 the slot is written; each access may fail, or wait for
its page (R443, R555). -/
def stepSlot (s : State) (p : Nat) (x : Session) (em : Emission) : Option State :=
  let reach := fun (fault : Option (Addr × Xlate)) (go : Unit → Option State) =>
    match fault with
    | none => go ()
    | some (va, .fail r) =>
      if r = 1 && !(em.failed.any (· == va)) then some (updEmission s p em.id fun e => { e with service := some va })
      else some (dropEmission (setCtxErr s x.ctx (codeOf .expert)) p em.id)
    | some _ => none
  reach (slotFault s x.ctx em 4 0) fun _ =>
    match wordVa s x.ctx em.addr with
    | some 0 =>
      reach (slotFault s x.ctx em (64 + 8 * em.recs.length) 1) fun _ =>
        let s := (writeFor s p (some x.ctx) (em.addr + 64) (slotEntries em)).1
        let s := (writeFor s p (some x.ctx) em.addr (slotHeader x em)).1
        some (updEmission s p em.id fun e => { e with step := 4 })
    | _ => none

/-- The next step of an emission; none while it waits (R443, R555). -/
def stepEmission (s : State) (p : Nat) (em : Emission) : Option State :=
  let x := sessionOf s p em.session
  if em.service.isSome then none
  else if em.step = 2 then stepSlot s p x em
  else if x.mode = 2 then if launchZp s x.ctx x.tmpl then none else some (dropEmission (emitChild s p x em) p em.id)
  else
    let f := feedOf s p x.feed
    if !feedUsable f x.ctx || f.closed then some (dropEmission (setCtxErr s x.ctx (codeOf .feed)) p em.id)
    else if f.cap ≤ f.recs.length then none
    else some (dropEmission (pushFeed s p x.feed (workRecord x em)) p em.id)

/-- Carries an emission on until it waits or ends. -/
def runEmission (s : State) (p id : Nat) : Nat → State
  | 0 => s
  | fuel + 1 =>
    match (part s p).emissions.find? fun e => e.id == id with
    | none => s
    | some em =>
      match stepEmission s p em with
      | some s => runEmission s p id fuel
      | none => s

/-- CORRAL_EMIT_RESUME (R443). -/
def execCorralEmitResume (part emission : Nat) (s : State) : Out := .next (runEmission s part emission 4)

/-- The die of a core (R12). -/
def dieOf (c : Nat) : Nat := c / 8 / 12

def bucketOf (s : State) (p die n e : Nat) : Option Bucket :=
  (part s p).buckets.find? fun b => b.die == die && b.session == n && b.e == e

/-- Emits a bucket: it takes the slot HEAD mod NSLOT (R443). The emission's number, and the state. -/
def emitBucket (s : State) (p : Nat) (b : Bucket) : Nat × State :=
  let x := sessionOf s p b.session
  let (id, s) := freshId s
  let addr := x.area + BitVec.ofNat 64 (x.head.toNat % (if x.nslot = 0 then 1 else x.nslot) * slotBytes x)
  let em : Emission := { id := id, die := b.die, session := b.session, e := b.e, recs := b.recs, head := x.head, addr := addr, step := 2 }
  let s := updPart s p fun q =>
    { q with
      buckets := q.buckets.filter fun y => y != b, emissions := q.emissions ++ [em]
      sessions := mapPut q.sessions b.session { x with head := x.head + 1 } }
  (id, runEmission s p id 4)

/-- The buckets of a die's one store, which all partitions share, each with its partition (R7, R20). -/
def storeBuckets (s : State) (die : Nat) : List (Nat × Bucket) :=
  s.parts.flatMap fun e => (e.2.buckets.filter fun b => b.die == die).map fun b => (e.1, b)

/-- Records of a die's buckets. -/
def storeHeld (s : State) (die : Nat) : Nat := (storeBuckets s die).foldl (fun n b => n + b.2.recs.length) 0

/-- Records that a die's store holds, of every partition: buckets, and emissions that have not written their slot (R442). -/
def storeUsed (s : State) (die : Nat) : Nat :=
  storeHeld s die + s.parts.foldl
    (fun n e => (e.2.emissions.filter fun e => e.die == die && e.step == 2).foldl (fun n e => n + e.recs.length) n) 0

/-- The largest bucket of a die, with its partition; ties to the lower session, then the lower expert (R443), then, the model's
choice (log 55), the partition that comes first. -/
def largestBucket (s : State) (die : Nat) : Option (Nat × Bucket) :=
  (storeBuckets s die).foldl
    (fun best b =>
      match best with
      | none => some b
      | some a =>
        if a.2.recs.length < b.2.recs.length || (a.2.recs.length == b.2.recs.length && (decide (b.2.session < a.2.session)
            || (b.2.session == a.2.session && decide (b.2.e < a.2.e)))) then some b else best) none

/-- Makes room for `n` records by early emission; `fuel` bounds the buckets. -/
def makeStoreRoom (s : State) (die n : Nat) : Nat → State
  | 0 => s
  | fuel + 1 =>
    if storeUsed s die + n ≤ 262144 || storeHeld s die + n ≤ 262144 then s
    else
      match largestBucket s die with
      | none => s
      | some b => makeStoreRoom (emitBucket s b.1 b.2).2 die n fuel

/-- The Corral accepts a record; a bucket that holds BATCH records is emitted (R443). -/
def acceptRec (s : State) (p die n e : Nat) (r : Rec) : State :=
  let x := sessionOf s p n
  let s := countExpert s p (x.xbase + e) 1
  let b := ((bucketOf s p die n e).map fun b => { b with recs := b.recs ++ [r] }).getD { die := die, session := n, e := e, recs := [r] }
  let s := updPart s p fun q =>
    { q with buckets := (q.buckets.filter fun y => !(y.die == die && y.session == n && y.e == e)) ++ [b] }
  if x.batch ≤ b.recs.length then (emitBucket s p b).2 else s

/-- A SESSION command that has not ended names the session (R440). -/
def sessionBusy (s : State) (p n : Nat) : Bool := (part s p).commands.any fun c => c.cmd == 0x0B && c.args.head? == some n

/-- The MODE and CTX checks of CORP and CORF (R451). -/
def sessionOk (x : Session) (cx : Nat) : Bool := (x.mode == 1 || x.mode == 2) && x.ctx == cx

/-- CORP (R450, R451). -/
def execCorp (f : Head) (s : State) : Out :=
  .next (laneTry s (.corp f) (some f.a) (some f.b) fun s lanes a b =>
    if lanes = 0 then .done s
    else
      let g := me s
      let p := partOf s g
      let n := g.csess.toNat % 256
      let x := sessionOf s p n
      let die := dieOf (coreOf s g)
      let e := fun (i : Nat) => (a i).toNat % 65536
      if sessionBusy s p n then .stop (block s .retry)
      else if !sessionOk x (ctxOf s g) then .stop (trapC s .expert)
      else
        match (lanesOf lanes).find? fun i => e i != 0xFFFF && decide (x.xcnt ≤ e i) with
        | some i => .stop (trap s { cause := .expert, lane := some i })
        | none =>
          let sent := (lanesOf lanes).filter fun i => e i != 0xFFFF
          let s := makeStoreRoom s die sent.length 262145
          if 262144 < storeUsed s die + sent.length then .stop (block s .retry)
          else
            .done (sent.foldl (fun s i => acceptRec s p die n (e i)
              { token := readV g f.d.toNat i, k := (a i).toNat / 65536 % 256
                gate := BitVec.ofNat 16 (bf16.round (fp32.val (b i).toNat) 0 0) }) s))

/-- The nonempty buckets of a session, of one die or of all, in ascending die and local expert (R452). -/
def sessionBuckets (q : Part) (n : Nat) (die : Option Nat) : List Bucket :=
  sortBy (fun a b => decide (a.die < b.die) || (a.die == b.die && decide (a.e ≤ b.e)))
    (q.buckets.filter fun b => b.session == n && (match die with | some d => b.die == d | none => true))

/-- Emits buckets in order: the emissions' numbers, and the state. -/
def emitAll (s : State) (p : Nat) (bs : List Bucket) : List Nat × State :=
  bs.foldl (fun acc b => let (id, s) := emitBucket acc.2 p b; (acc.1 ++ [id], s)) ([], s)

/-- CORF (R452): TY 1 all dies. -/
def execCorf (f : Head) (s : State) : Out :=
  .next (plainTry s (.corf f) fun s =>
    let g := me s
    let p := partOf s g
    let n := g.csess.toNat % 256
    if sessionBusy s p n then .stop (block s .retry)
    else if !sessionOk (sessionOf s p n) (ctxOf s g) then .stop (trapC s .expert)
    else
      let (ids, s) := emitAll s p (sessionBuckets (part s p) n (if f.ty == 1 then none else some (dieOf (coreOf s g))))
      let waiting := ids.filter fun id => (part s p).emissions.any fun e => e.id == id
      if waiting.isEmpty then .done (lateRegs s f.d.toNat [BitVec.ofNat 32 ids.length])
      else .stop (block s (.corf ids.length waiting f.d)))

end Sys2Proof.Machine
end

