-- ==== Sys2Proof/Machine/Graphs.lean ====
section
/-! DEFINITION. Graphs: upload, triggers, walks, nodes and GSIG (R480 to R490, R492). -/

namespace Sys2Proof.Machine
open Sys2Proof

/-! ### Slots, nodes and edges -/

def graphOf (s : State) (p k : Nat) : Graph := mapGetD (part s p).graphs k {}

/-- The slot holds a graph. -/
def graphUsed (s : State) (p k : Nat) : Bool := (mapGet (part s p).graphs k).isSome

def updGraph (s : State) (p k : Nat) (f : Graph → Graph) : State :=
  updPart s p fun q => { q with graphs := mapPut q.graphs k (f (mapGetD q.graphs k {})) }

def blankNode : Node := { type := 4, prio := 0, init := 0, succ := 0, nsucc := 0, nelse := 0, payload := [] }

def nodeOf (g : Graph) (n : Nat) : Node := g.nodes.getD n blankNode

def updNode (g : Graph) (n : Nat) (f : Node → Node) : Graph := { g with nodes := setAt g.nodes n (f (nodeOf g n)) }

/-- The successor edges of a node: target, SIG, and for a conditional whether it is a then-edge. -/
def succEdges (g : Graph) (n : Nat) : List (Nat × Bool × Bool) :=
  let d := nodeOf g n
  (List.range (d.nsucc + d.nelse)).map fun j =>
    let e := g.edges.getD (d.succ + j) (0, false)
    (e.1, e.2, decide (j < d.nsucc))

/-- A 64-bit field of a node's payload; byte offsets count from the start of the node record. -/
def payAddr (d : Node) (off : Nat) : Addr := BitVec.ofNat 64 (fieldAt d.payload (off - 64) 8)

/-! ### Records of the graph's ring (R467, R489) -/

/-- Writes a record to the graph's ring, as a release at system scope. -/
def graphRecord (s : State) (p k : Nat) (r : Report) : State :=
  let g := graphOf s p k
  let s := releaseCores s
  let at_ := g.ring + BitVec.ofNat 64 (64 * (g.seq.toNat % 2 ^ g.log))
  let s := (writeFor s p (some g.ctx) at_ (reportBytes s g.seq.toNat r)).1
  updGraph s p k fun g => { g with seq := g.seq + 1 }

/-- A record of the slot itself: TAG counts its walks. -/
def walkRecord (s : State) (p k status : Nat) : State := graphRecord s p k { status := status, tag := (graphOf s p k).walks }

/-! ### Counts (R485, R487, R488) -/

/-- What reaches a node: a decrement, or the skipping of one of its incoming edges. -/
inductive Reach where
  | dec (n : Nat)
  | skip (n : Nat)
  deriving DecidableEq, Repr

/-- The completion of a node, as what it sends over its edges. A SIG edge is decremented only by GSIG. -/
def sends (g : Graph) (n : Nat) (branch : Option Bool) : List Reach :=
  (succEdges g n).filterMap fun e =>
    match branch with
    | some b => if e.2.2 != b then some (.skip e.1) else if e.2.1 then none else some (.dec e.1)
    | none => if e.2.1 then none else some (.dec e.1)

/-- PRED: nonzero, zero, or none for a fault (R487). A poisoned word is any value (log 4). -/
def readPred (s : State) (cx : Nat) (va : Addr) : Option Bool × State :=
  if va.toNat % 4 ≠ 0 then (none, s)
  else
    match xlateWalk s cx va 0 with
    | .ok pa _ =>
      if poisoned s pa 4 then (some (Config.freeWord s.fresh != 0), { s with fresh := s.fresh + 1 })
      else (some (leNat (homeRead s pa 4) != 0), s)
    | _ => (none, s)

/-- PRED lies in a page that waits to be zeroed: a read of an aligned word waits for it (R255, R487). -/
def predZp (s : State) (g : Graph) (d : Node) : Bool := (payAddr d 64).toNat % 4 == 0 && zpIn s g.ctx (payAddr d 64) 4 0

/-- A node becomes ready: a conditional is evaluated and completes at once, unless its read waits; any other enters the ready
queue. -/
def readyNode (s : State) (p k n : Nat) : State × List Reach :=
  let g := graphOf s p k
  if (nodeOf g n).st ≠ 0 then (s, [])
  else if (nodeOf g n).type = 3 then
    if g.faulted then (s, [])
    else if predZp s g (nodeOf g n) then (updGraph s p k fun g => updNode g n fun d => { d with st := 1 }, [])
    else
      match readPred s g.ctx (payAddr (nodeOf g n) 64) with
      | (none, s) => (updGraph s p k fun g => { g with faulted := true }, [])
      | (some b, s) => (updGraph s p k fun g => updNode g n fun d => { d with st := 3 }, sends g n (some b))
  else (updGraph s p k fun g => updNode g n fun d => { d with st := 1, entered := s.clk.toNat }, [])

/-- A node is skipped once it has a skipped incoming edge and no other that can still come (R487); it skips its own
successor edges. -/
def skipNode (s : State) (p k n : Nat) : State × List Reach :=
  let g := graphOf s p k
  let d := nodeOf g n
  if d.st = 0 ∧ 0 < d.skips ∧ d.count ≤ d.skips then
    (updGraph s p k fun g => updNode g n fun d => { d with st := 4 }, (succEdges g n).map fun e => .skip e.1)
  else (s, [])

/-- One decrement or skip. A count below 0 faults the graph. -/
def reachNode (s : State) (p k : Nat) (r : Reach) : State × List Reach :=
  let g := graphOf s p k
  match r with
  | .dec n =>
    if (nodeOf g n).count = 0 then (updGraph s p k fun g => { g with faulted := true }, [])
    else
      let s := updGraph s p k fun g => updNode g n fun d => { d with count := d.count - 1 }
      if (nodeOf g n).count = 1 then readyNode s p k n else skipNode s p k n
  | .skip n => skipNode (updGraph s p k fun g => updNode g n fun d => { d with skips := d.skips + 1 }) p k n

/-- Carries decrements and skips on; each edge is reached at most once in a walk, which `fuel` bounds. -/
def spread (p k : Nat) : Nat → List Reach → State → State
  | 0, _, s => s
  | _ + 1, [], s => s
  | fuel + 1, r :: rs, s =>
    let (s, more) := reachNode s p k r
    spread p k fuel (rs ++ more) s

def edgeFuel (s : State) (p k : Nat) : Nat := (graphOf s p k).edges.length + (graphOf s p k).nodes.length + 2

/-! ### Walks (R483, R484, R488, R489) -/

/-- The entries of a patch list, or none where one fails its check (R484). A list that cannot be read, or whose address is
not 64-byte aligned, fails (log 24). -/
def patchOf (s : State) (g : Graph) (va : Addr) : Option (List (Nat × Nat × List Byte)) :=
  if va.toNat % 64 ≠ 0 then none
  else
    match readClean s g.ctx va 16 with
    | none => none
    | some h =>
      let n := fieldAt h 0 4
      if 1024 < n ∨ !zeroAt h 4 12 then none
      else
        match readClean s g.ctx (va + 16) (16 * n) with
        | none => none
        | some bs =>
          let es := records 16 n bs
          let ok := fun (e : List Byte) =>
            decide (fieldAt e 0 4 < g.nodes.length) && fieldAt e 4 2 % 4 == 0 && decide (64 ≤ fieldAt e 4 2)
              && decide (fieldAt e 4 2 ≤ 188) && zeroAt e 6 2 && zeroAt e 12 4
          if es.all ok then some (es.map fun e => (fieldAt e 0 4, fieldAt e 4 2, (e.drop 8).take 4)) else none

/-- The reads of a patch list meet a page that waits to be zeroed (R255). -/
def patchZp (s : State) (g : Graph) (va : Addr) : Bool :=
  zpIn s g.ctx va 16 0 || match readClean s g.ctx va 16 with | none => false | some h => zpIn s g.ctx (va + 16) (16 * Nat.min (fieldAt h 0 4) 1024) 0

/-- Starts a walk: every COUNT is INIT, and the roots are ready. -/
def startWalk (s : State) (p k : Nat) : State :=
  let s := updGraph s p k fun g =>
    { g with
      walking := true, faulted := false, walks := (g.walks + 1) % 2 ^ 32
      nodes := g.nodes.map fun d =>
        { d with count := d.init, st := 0, skips := 0, launch := none, ended := false, service := none, failed := [] } }
  let roots := (List.range (graphOf s p k).nodes.length).filter fun n => (nodeOf (graphOf s p k) n).init = 0
  roots.foldl
    (fun s n =>
      let (s, rs) := readyNode s p k n
      spread p k (edgeFuel s p k) rs s) s

/-- Takes requests in order until one starts a walk (R483, R484); `fuel` bounds them. The walk's launches are ordered after those
that had completed when it was requested, and after those of the slot's earlier walks, which have ended (R190, log 54). -/
def takeRequest (p k : Nat) : Nat → State → State
  | 0, s => s
  | fuel + 1, s =>
    let g := graphOf s p k
    match g.requests with
    | [] => s
    | va :: rest =>
      if g.walking || g.freeing || (va != 0 && patchZp s g va) then s
      else
        let s := updGraph s p k fun g =>
          { g with
            requests := rest, asked := g.asked.drop 1
            base := (g.base ++ g.nodes.filterMap (·.launch) ++ g.asked.headD []).eraseDups }
        match (if va = 0 then some [] else patchOf s g va) with
        | none => takeRequest p k fuel (walkRecord s p k 8)
        | some es =>
          startWalk (updGraph s p k fun g => es.foldl
            (fun g e => updNode g e.1 fun d => { d with payload := overlay d.payload (e.2.1 - 64) e.2.2 }) g) p k

/-- No started node of the walk has still to complete, and no further one will start. -/
def walkOver (g : Graph) : Bool :=
  g.walking && (if g.faulted then g.nodes.all fun d => d.st != 2 else g.nodes.all fun d => d.st == 3 || d.st == 4)

/-- Ends the walk if it is over, with its record, and takes the next request; `fuel` bounds walks that end at once. -/
def settleWalk (p k : Nat) : Nat → State → State
  | 0, s => s
  | fuel + 1, s =>
    let g := graphOf s p k
    if walkOver g then
      let s := updGraph s p k fun g => { g with walking := false }
      let s := walkRecord s p k (if g.cancelled then 3 else if g.faulted then 7 else 0)
      if g.freeing then updPart s p fun q => { q with graphs := mapDel q.graphs k }
      else settleWalk p k fuel (takeRequest p k 17 s)
    else s

/-- TRIGGER_WRITE (R483): a request beyond 16 is dropped with status 9. -/
def execTriggerWrite (part slot : Nat) (value : Addr) (s : State) : Out :=
  .next (
    if !graphUsed s part slot then s
    else if 16 ≤ (graphOf s part slot).requests.length then walkRecord s part slot 9
    else
      settleWalk part slot 18 (takeRequest part slot 17 (updGraph s part slot fun g =>
        { g with requests := g.requests ++ [value], asked := g.asked ++ [doneLaunches s g.ctx] })))

/-! ### Completion and start of nodes (R485 to R488, R492) -/

/-- A started node completes; with a fault it faults the graph and sends nothing. -/
def completeNode (s : State) (p k n : Nat) (fault : Bool) : State :=
  let s := updGraph s p k fun g => updNode { g with faulted := g.faulted || fault } n fun d => { d with st := 3 }
  let s := if fault then s else spread p k (edgeFuel s p k) (sends (graphOf s p k) n none) s
  settleWalk p k 18 s

/-- The copy of a copy node as an operation of an engine that no core owns. -/
def nodeCopy (g : Graph) (d : Node) : CopyOp :=
  { id := 0, min := 0, ctx := g.ctx, dst := payAddr d 72, src := payAddr d 64, len := (payAddr d 80).toNat, failed := d.failed }

/-- What a copy node's copy comes to: a state, a page to be serviced, nothing yet, or a fault (R303, R486). -/
def tryNodeCopy (s : State) (p k n : Nat) : Tried × Bool :=
  let d := nodeOf (graphOf s p k) n
  if d.service.isSome then (.blocked, false)
  else
    let r := runCpy (nodeCopy (graphOf s p k) d) 384 { s := releaseCores s }
    match r.halt with
    | some (.service va) => (.service va, false)
    | some .zero => (.blocked, false)
    | h => (.done r.s, h.isSome)

/-- A started node has what it takes to complete. -/
def nodeDone (s : State) (p k n : Nat) : Bool :=
  let d := nodeOf (graphOf s p k) n
  d.st == 2 && (if d.type = 1 then (match (tryNodeCopy s p k n).1 with | .blocked => false | _ => true) else d.ended)

/-- GRAPH_NODE_COMPLETE (R485): a copy node makes its copy; a nonzero status is a copy fault. -/
def execGraphNodeComplete (part slot node status : Nat) (s : State) : Out :=
  .next (
    let d := nodeOf (graphOf s part slot) node
    if d.st ≠ 2 then s
    else if d.type = 1 then
      if status ≠ 0 then completeNode s part slot node true
      else
        match tryNodeCopy s part slot node with
        | (.done s, fault) => completeNode s part slot node fault
        | (.service va, _) => updGraph s part slot fun g => updNode g node fun d => { d with service := some va }
        | (.blocked, _) => s
    else if d.ended then completeNode s part slot node false
    else s)

/-- What a node reads or writes as it starts meets a page that waits to be zeroed (R255). -/
def nodeZp (s : State) (g : Graph) (d : Node) : Bool :=
  match d.type with
  | 0 => descZp s g.ctx d.payload
  | 2 => zpIn s g.ctx (payAddr d 64) 8 1
  | 3 => predZp s g d
  | _ => false

/-- The ready nodes of a partition's graphs that may start, as (PRIO, node, slot). -/
def readyNodes (s : State) (p : Nat) : List (Nat × Nat × Nat) :=
  (part s p).graphs.flatMap fun e =>
    if !e.2.walking || e.2.faulted then []
    else ((List.range e.2.nodes.length).filter fun n => (nodeOf e.2 n).st == 1 && !nodeZp s e.2 (nodeOf e.2 n)).map fun n => ((nodeOf e.2 n).prio, n, e.1)

/-- The head of the walker's ready queue: lowest PRIO, then node index, then slot. -/
def readyHead (s : State) (p : Nat) : Option (Nat × Nat) :=
  match sortBy (fun (a b : Nat × Nat × Nat) =>
      decide (a.1 < b.1) || (a.1 == b.1 && (decide (a.2.1 < b.2.1) || (a.2.1 == b.2.1 && decide (a.2.2 ≤ b.2.2))))) (readyNodes s p) with
  | [] => none
  | e :: _ => some (e.2.2, e.2.1)

/-- The nodes of a walk that have completed and from which an edge leads to one of some nodes; a SIG edge, which GSIG decrements,
orders nothing. -/
def before (g : Graph) (ns : List Nat) : List Nat :=
  (List.range g.nodes.length).filter fun m => (nodeOf g m).st == 3 && (succEdges g m).any fun e => !e.2.1 && has ns e.1

/-- All such nodes, over any number of edges; `fuel` bounds them. -/
def ancestors (g : Graph) : Nat → List Nat → List Nat
  | 0, _ => []
  | fuel + 1, ns =>
    let ms := before g ns
    if ms.isEmpty then [] else (ms ++ ancestors g fuel ms).eraseDups

/-- The launches that a launch node's launch is ordered after (R190, R278): by the edges that lead to it, and those that the whole
walk is ordered after. -/
def nodeAfter (s : State) (g : Graph) (n : Nat) : List Nat :=
  withAfter s (g.base ++ (ancestors g g.nodes.length [n]).filterMap fun m => (nodeOf g m).launch)

/-- Starts a node (R485, R486). -/
def startNode (s : State) (p k n : Nat) : State :=
  let s := updGraph s p k fun g => updNode g n fun d => { d with st := 2 }
  let g := graphOf s p k
  let d := nodeOf g n
  match d.type with
  | 0 =>
    let (id, s) := submit s p g.ctx (checkLaunch s p g.ctx d.payload (some d.prio) 0) (.node k n) noAcct (nodeAfter s g n)
    updGraph s p k fun g => updNode g n fun d => { d with launch := some id }
  | 1 => s
  | 2 => completeNode (writeFor (releaseCores s) p (some g.ctx) (payAddr d 64) ((d.payload.drop 8).take 8)).1 p k n false
  | 3 =>
    match readPred s g.ctx (payAddr d 64) with
    | (none, s) => completeNode s p k n true
    | (some b, s) =>
      let s := updGraph s p k fun g => updNode g n fun d => { d with st := 3 }
      settleWalk p k 18 (spread p k (edgeFuel s p k) (sends (graphOf s p k) n (some b)) s)
  | _ => completeNode s p k n false

/-- A request that waits for its patch list's page to be zeroed can be taken. -/
def requestReady (s : State) (p k : Nat) : Bool :=
  let g := graphOf s p k
  !g.walking && !g.freeing && (match g.requests with | va :: _ => va == 0 || !patchZp s g va | [] => false)

/-- GRAPH_NODE_START (R492). -/
def execGraphNodeStart (part : Nat) (s : State) : Out :=
  .next (match readyHead s part with
    | some (k, n) => startNode s part k n
    | none => s)

/-! ### GSIG (R490) -/

/-- The graph slot of the issuing group's launch, if it is a node of a walk. -/
def walkOfMe (s : State) : Option Nat :=
  match (launchOf s (me s)).origin with
  | .node k _ => some k
  | _ => none

/-- A DEPUNF trap faults the graph (R488). -/
def faultGraph (s : State) (p k : Nat) : State := updGraph s p k fun g => { g with faulted := true }

/-- GSIG (R490): the split waits until the walker has applied the signal. -/
def execGsig (f : Head) (s : State) : Out :=
  .next (plainTry s (.gsig f) fun s =>
    match walkOfMe s with
    | none => .stop (trapC s .depunf)
    | some k =>
      let n := (sget s f.a).toNat
      let p := partOf s (me s)
      if (graphOf s p k).nodes.length ≤ n then .stop (trapC (faultGraph s p k) .depunf)
      else .stop (block (writeBackAll s (coreOf s (me s))) (.gsig n)))

/-- GSIG_APPLIED (R490): the count falls, or the graph faults and the group traps at the GSIG. -/
def execGsigApplied (group stream : Nat) (s : State) : Out :=
  .next (
    let g := grp s group
    let st : Stream := if stream < 4 then .split stream else .aslice
    match waitOf g st, (launchOf s g).origin with
    | some (.gsig n), .node k _ =>
      let p := partOf s g
      if (nodeOf (graphOf s p k) n).count = 0 then
        let s := updGrp (faultGraph s p k) group fun g => setWait g st none
        if g.state == .running then takeTrap s group st { cause := .depunf } else s
      else
        let s := updGrp s group fun g => wake g st []
        settleWalk p k 18 (spread p k (edgeFuel s p k + 1) [.dec n] s)
    | _, _ => s)

/-! ### Upload and free (R480 to R482) -/

/-- Bytes of scheduler memory that a queue's table takes: its image, its script and the script's data (R10, R468, log 25). -/
def queueBytes (x : Queue) : Nat := 64 + 4 * x.script.length + (if x.script.isEmpty then 0 else 4096)

/-- Bytes of a partition's scheduler memory in use: the 256 sessions of 64 bytes, the 256-byte copies of its contexts' descriptors, its
queue tables, graphs and feeds (R10, R439, R446, R457, R481, log 25). -/
def schedUsed (s : State) (p : Nat) : Nat :=
  let q := part s p
  256 * 64 + 256 * (s.ctxs.filter fun c => c.2.live && c.2.part == p).length
    + q.queues.foldl (fun n e => n + queueBytes e.2) 0
    + q.graphs.foldl (fun n e => n + 64 + 256 * e.2.nodes.length + 4 * e.2.edges.length) 0
    + (q.feeds.filter fun e => e.2.created).foldl (fun n e => n + 64 * e.2.cap) 0

/-- Scheduler memory of a partition: 8 MB for each of its slots (R17, R18). -/
def schedSize (q : Part) : Nat := 0x800000 * q.slots.length

/-- A node record. -/
def nodeRecord (bs : List Byte) : Node :=
  { type := fieldAt bs 0 1 % 16, prio := fieldAt bs 1 1 % 8, init := 0, succ := fieldAt bs 4 4, nsucc := fieldAt bs 8 2
    nelse := fieldAt bs 10 2, payload := (bs.drop 64).take 128 }

/-- A node record keeps R482; INIT and COUNT are the hardware's. -/
def nodeOk (ne : Nat) (bs : List Byte) : Bool :=
  let d := nodeRecord bs
  decide (fieldAt bs 0 1 ≤ 4) && decide (fieldAt bs 1 1 < 8) && zeroAt bs 14 50 && zeroAt bs 192 64
    && decide (d.succ + d.nsucc + d.nelse ≤ ne) && (d.type == 3 || d.nelse == 0)

/-- Removes nodes without incoming edges, one after another; what is left lies on or behind a cycle. -/
def peel (g : Graph) : Nat → List (Nat × Nat) → List (Nat × Nat)
  | 0, ds => ds
  | fuel + 1, ds =>
    match ds.find? fun d => d.2 == 0 with
    | none => ds
    | some (n, _) =>
      let out := (succEdges g n).map (·.1)
      peel g fuel ((ds.filter fun d => d.1 != n).map fun d => (d.1, d.2 - (out.filter (· == d.1)).length))

/-- Incoming edges of a node. -/
def indegree (g : Graph) (n : Nat) : Nat :=
  (List.range g.nodes.length).foldl (fun k m => k + ((succEdges g m).filter fun e => e.1 == n).length) 0

/-- The header of a graph image keeps R482, and scheduler memory has room for the graph. -/
def graphFits (s : State) (p : Nat) (h : List Byte) : Bool :=
  let nn := fieldAt h 4 4
  let ne := fieldAt h 8 4
  let log := fieldAt h 24 1
  let c := ctx s (fieldAt h 12 4)
  fieldAt h 0 4 == 0x4752415A && decide (1 ≤ nn) && decide (nn ≤ 4096) && decide (ne ≤ 65536) && c.live && c.part == p
    && decide (1 ≤ log) && decide (log ≤ 16) && zeroAt h 25 39 && decide (schedUsed s p + 64 + 256 * nn + 4 * ne ≤ schedSize (part s p))

/-- Bytes of an image's nodes and edges. -/
def graphBytes (h : List Byte) : Nat := 256 * fieldAt h 4 4 + 4 * fieldAt h 8 4

/-- The graph of an image, or none where it is refused. -/
def graphImage (s : State) (p : Nat) (cx : Option Nat) (va : Addr) : Option Graph :=
  match readFor s p cx va 64 with
  | none => none
  | some h =>
    let nn := fieldAt h 4 4
    let ne := fieldAt h 8 4
    let gcx := fieldAt h 12 4
    let log := fieldAt h 24 1
    if !graphFits s p h then none
    else
      match readFor s p cx (va + 64) (graphBytes h) with
      | none => none
      | some bs =>
        let raws := records 256 nn bs
        let es := bytesWords (bs.drop (256 * nn))
        if !raws.all (nodeOk ne) || es.any (fun e => e.extractLsb' 16 15 != 0 || decide (nn ≤ e.toNat % 65536)) then none
        else
          let g : Graph :=
            { nodes := raws.map nodeRecord, edges := es.map fun e => (e.toNat % 65536, e.getLsbD 31), ctx := gcx
              ring := BitVec.ofNat 64 (fieldAt h 16 8), log := log }
          let g := { g with nodes := (List.range nn).map fun n => let d := nodeOf g n; { d with init := indegree g n, count := indegree g n } }
          if (peel g (nn + 1) ((List.range nn).map fun n => (n, indegree g n))).isEmpty then some g else none

/-- The reads of an image that GRAPH-UPLOAD takes meet a page that waits to be zeroed (R255). -/
def uploadZp (s : State) (p k cx : Nat) (va : Addr) : Bool :=
  !(decide (256 ≤ k) || graphUsed s p k)
    && (zpIn s cx va 64 0
      || match readClean s cx va 64 with | none => false | some h => graphFits s p h && zpIn s cx (va + 64) (graphBytes h) 0)

/-- Uploads a graph; false where it is refused. -/
def uploadGraph (s : State) (p k : Nat) (cx : Option Nat) (va : Addr) : State × Bool :=
  if 256 ≤ k || graphUsed s p k then (s, false)
  else
    match graphImage s p cx va with
    | none => (s, false)
    | some g => (updGraph s p k fun _ => g, true)

/-- GRAPH_UPLOAD, as a queue without a context gives it: a physical image address (R481). -/
def execGraphUpload (part slot : Nat) (image : Addr) (s : State) : Out := .next (uploadGraph s part slot none image).1

/-- Frees a slot unless a walk is in progress, which ends first without a further one. -/
def freeGraph (s : State) (p k : Nat) : State :=
  if !graphUsed s p k then s
  else if (graphOf s p k).walking then updGraph s p k fun g => { g with freeing := true, requests := [], asked := [] }
  else updPart s p fun q => { q with graphs := mapDel q.graphs k }

/-- GRAPH_FREE (R481). -/
def execGraphFree (part slot : Nat) (s : State) : Out := .next (freeGraph s part slot)

end Sys2Proof.Machine
end

