-- ==== Sys2Proof/Machine/Completion.lean ====
section
/-! DEFINITION. Completion records of queues, and the completion of a launch (R190 to R192, R278, R467, R470, R512). -/

namespace Sys2Proof.Machine
open Sys2Proof

/-! ### Queues and their records (R467, R469, R528) -/

def queueOf (s : State) (p q : Nat) : Queue := mapGetD (part s p).queues q {}

def updQueue (s : State) (p q : Nat) (f : Queue → Queue) : State :=
  updPart s p fun x => { x with queues := mapPut x.queues q (f (mapGetD x.queues q {})) }

/-- Writes a record to the queue's completion ring, as a release at system scope, and raises its vector. -/
def queueRecord (s : State) (p q : Nat) (r : Report) : State :=
  let s := releaseCores s
  let x := queueOf s p q
  let at_ := x.cmpr + BitVec.ofNat 64 (64 * (x.seq.toNat % 2 ^ x.clog))
  let s := (writeFor s p x.ctx at_ (reportBytes s x.seq.toNat r)).1
  let s := updQueue s p q fun x => { x with seq := x.seq + 1 }
  if x.intr && s.hostUp then { s with interrupts := s.interrupts ++ [.msix p (q % 64)] } else s

/-- Word n of a packet. -/
def pword (ws : List Word) (n : Nat) : Word := ws.getD n 0

/-- Words n and n + 1 of a packet as an address. -/
def paddr (ws : List Word) (n : Nat) : Addr := pword ws (n + 1) ++ pword ws n

/-- A started packet completes; its record is written with REC set, or where its status is not ok (R470). -/
def finishPacket (s : State) (p q index : Nat) (r : Report) : State :=
  match (queueOf s p q).packets.find? fun x => x.index == index with
  | none => s
  | some x =>
    let s := updQueue s p q fun y => { y with packets := y.packets.filter fun z => z.index != index }
    if r.status ≠ 0 || (pword x.words 0).getLsbD 9 then queueRecord s p q { r with tag := (pword x.words 1).toNat } else s

/-! ### The completion of a launch -/

/-- The page is no longer being serviced or zeroed. -/
def pageReady (s : State) (cx : Nat) (va : Addr) : Bool :=
  match xlateWalk s cx va 1 with
  | .fail r => r != 1
  | .zero | .miss => false
  | .ok .. => true

/-- A team is of a launch. -/
def teamOfLaunch (s : State) (id tid : Nat) : Bool := (mapGet s.teams tid).isSome && (team s tid).launch == id

/-- An engine operation of a launch's groups is in flight: a copy, a collective or a matrix operation. -/
def enginesOut (s : State) (id : Nat) : Bool :=
  s.cores.any fun e =>
    (e.2.copies.any fun o => teamOfLaunch s id o.team) || ((e.2.eng0 ++ e.2.eng1).any fun o => teamOfLaunch s id (grp s o.group).team)

/-- A launch has what it takes to complete: its completion covers every write of its engine operations (R278), so none is in flight. -/
def completes (s : State) (id : Nat) : Bool :=
  let l := launch s id
  !l.done && l.applied && !enginesOut s id
    && match l.leaseWait with
      | some va => l.leaseSkip || pageReady s l.ctx va
      | none => true

/-- The launch's completion reaches where it came from (R444, R467, R485). -/
def signalCompletion (s : State) (id : Nat) : State :=
  let l := launch s id
  match l.origin with
  | .packet q tag =>
    match (queueOf s l.part q).packets.find? fun x => x.launch == some id with
    | some x => finishPacket s l.part q x.index (launchReport l id tag.toNat)
    | none => s
  | .node k n =>
    if !graphUsed s l.part k then s
    else
      let r := launchReport l id (graphOf s l.part k).walks
      let s := if r.status ≠ 0 then graphRecord s l.part k r else s
      updGraph s l.part k fun g => updNode g n fun d => { d with ended := true }
  | .corral _ slot => (writeFor s l.part (some l.ctx) slot [0, 0, 0, 0]).1

/-- Writes the accounting record and the casualty list, where the packet names them (R498, R513). -/
def writeAcct (s : State) (id : Nat) : State :=
  let l := launch s id
  if l.acct.addr = 0 then s else (writeFor s l.part (some l.ctx) l.acct.addr (acctBytes s l)).1

/-- Closes the lease that a launch names, unless its context is being destroyed (R192, R458); the page it waits for. DESIGN CHOICE: a
refused launch (R464), which completes for the order of others only, closes no lease (log 21). -/
def closeOwn (s : State) (id : Nat) : State × Option Addr :=
  let l := launch s id
  if l.refused ≠ 0 || l.heirns = 0 || (ctx s l.ctx).dying then (s, none)
  else
    let s := if l.leaseWait.isSome then s else beginLease s l.ctx l.heirns (2 * id)
    let (s, w, d, wait) := closeLease s l.ctx (2 * id) l.leaseSkip l.wills l.disc
    (updLaunch s id fun l => { l with wills := w, disc := d, leaseSkip := false }, wait)

/-- LAUNCH_COMPLETE: pending bequests open, the lease closes, and with a release at system scope the records are written. -/
def execLaunchComplete (launch : Nat) (s : State) : Out :=
  .next (
    if !completes s launch then s
    else
      let l := Machine.launch s launch
      match closeOwn (openBequests s l.ctx launch) launch with
      | (s, some va) => updLaunch s launch fun l => { l with leaseWait := some va }
      | (s, none) =>
        let s := countTime (leaveRun s l.part (.launch launch)) launch
        let s := trace s l.part 2 { launch := some launch } []
        let s := signalCompletion (writeAcct (releaseCores s) launch) launch
        updLaunch s launch fun l => { l with done := true, leaseWait := none })

/-! ### Ending launches early (R44, R406, R458, R478) -/

/-- KillGroup of a group wherever it is: abandoned operations of a group on its core are queued again, those of a saved
team are carried out by themselves (R362, log 53). -/
def endGroup (s : State) (gid : Nat) (c : Cause) : State :=
  let g := grp s gid
  let pc := match g.splits with | p :: _ => p.2.pc | [] => pcOf g .aslice
  let pc := match g.state with | .stopped _ st => pcOf g st | _ => pc
  let s := if (teamOf s g).placed then requeueOps s gid else s
  killGroup s gid c pc

/-- Every group of a launch that is left. -/
def groupsOf (s : State) (id : Nat) : List Nat :=
  ((s.teams.filter fun t => t.2.launch == id).flatMap fun t => t.2.groups).filter fun g => (grp s g).state != .gone

/-- A saved team whose groups have all ended leaves the run list. -/
def leaveTeams (s : State) (id : Nat) : State :=
  (s.teams.filter fun t => t.2.launch == id && t.2.ended).foldl (fun s t => leaveRun s (launch s id).part (.team t.1)) s

/-- Kills every group of a launch. -/
def killAll (s : State) (id : Nat) (c : Cause) : State := leaveTeams ((groupsOf s id).foldl (fun s g => endGroup s g c) s) id

/-- The launch places no further span. -/
def stopPlacing (s : State) (id : Nat) : State :=
  leaveRun (updLaunch s id fun l => { l with stopped := true, again := [] }) (launch s id).part (.launch id)

/-- The launch will complete cancelled: it places no more, and with `kill` its groups are killed. -/
def cancelLaunch (s : State) (id : Nat) (kill : Bool) : State :=
  let s := stopPlacing s id
  let s := updLaunch s id fun l => { l with cancelled := true }
  if kill then killAll s id .swtrap else s

end Sys2Proof.Machine
end

