-- ==== Sys2Proof/Machine/Commands.lean ====
section
/-! DEFINITION. The commands of the queue engine (R192, R254, R286, R403, R406, R417, R420, R429, R433, R440, R446, R457,
R458, R468, R471, R478, R481). -/

namespace Sys2Proof.Machine
open Sys2Proof

/-- How a command ends: at once with a status, or later: the operands it goes on with. -/
inductive CmdEnd where
  | done (r : Report)
  | waits (cmd : Nat) (args : List Nat) (launches : List Nat)
  deriving DecidableEq, Repr

def endOk : CmdEnd := .done {}

/-- A refused command carries CAUSE 4 (R467). -/
def endRefused : CmdEnd := .done { status := 2, cause := 4 }

/-- A context that commands of a partition may name. -/
def ctxUsable (s : State) (p cx : Nat) : Bool := (ctx s cx).live && (ctx s cx).part == p && !(ctx s cx).dying

/-- Adds a waiting command; queue 512 stands for none. -/
def holdCommand (s : State) (p q index cmd : Nat) (args launches : List Nat) : State :=
  let (id, s) := freshId s
  updPart s p fun x =>
    { x with commands := x.commands ++ [{ id := id, queue := q, index := index, cmd := cmd, args := args, waits := launches }] }

/-- A command that no packet carries: its effect, and its wait where it has one. -/
def alone (p : Nat) (r : State × CmdEnd) : State :=
  match r.2 with
  | .done _ => r.1
  | .waits cmd args ls => holdCommand r.1 p 512 0 cmd args ls

/-! ### Contexts (R403, R457) -/

/-- CTLW: reserved bits zero, TGT below 3, a system core of the partition (R457). -/
def ctlwOk (q : Part) (v : Nat) : Bool :=
  v % 16 / 2 == 0 && decide (v < 2 ^ 11) && decide (v / 512 < 3) && has q.slots (v / 16 % 32 / 4)

/-- Removes the cells of a range: it reads as zero. -/
def zeroRange (s : State) (pa size : Nat) : State :=
  { s with mem := s.mem.filter fun e => !(decide (pa ≤ e.1) && decide (e.1 < pa + size))
           poison := s.poison.filter fun q => !(decide (pa ≤ 32 * q) && decide (32 * q + 32 ≤ pa + size)) }

/-- The page is zeroed at its home: every weight version and latch sees it, and the filter reports it. -/
def zeroPage (s : State) (pa size : Nat) : State :=
  let s := zeroRange (touchMem (touchWver s pa size) pa size) pa size
  { s with agenda := s.agenda ++ watchHits s pa size { cls := 3 } }

/-- A table of a new context is zero, where its pages have leaves (R343, R371). -/
def zeroTable (s : State) (cx : Nat) (va : Addr) (size : Nat) : State :=
  (pagesOf va size).foldl
    (fun s p =>
      match leafPa s cx p with
      | some pa => zeroPage s pa (Nat.min (size - (p - va).toNat) (65536 - p.toNat % 65536))
      | none => s) s

/-- CTX-CREATE: the descriptor is copied, the reserved bits of DBGCTL staying zero (R4), and its CTXID is written to it (log 26);
both tables of the new context are zero. -/
def cmdCtxCreate (s : State) (p : Nat) (qcx : Option Nat) (desc : Addr) : State × CmdEnd :=
  match (if desc.toNat % 64 = 0 then readFor s p qcx desc 256 else none) with
  | none => (s, endRefused)
  | some bs =>
    let a := fun off => BitVec.ofNat 64 (fieldAt bs off 8)
    let q := part s p
    if fieldAt bs 40 1 = 0 ∨ 16 < fieldAt bs 40 1 ∨ !zeroAt bs 41 3 ∨ !zeroAt bs 52 4 ∨ !zeroAt bs 116 140 ∨ fieldAt bs 32 8 % 64 ≠ 0
        ∨ !ctlwOk q (fieldAt bs 104 4) then (s, endRefused)
    else
      let id := p * 2 ^ 28 + q.nextCtx
      let s := updPart s p fun q => { q with nextCtx := q.nextCtx + 1 }
      let s := updCtx s id fun _ =>
        { live := true, part := p, ptroot := a 0, tidt := a 8, ddira := a 16, ringt := a 24, trapb := a 32, trapl := fieldAt bs 40 1
          trapc := BitVec.ofNat 32 (fieldAt bs 48 4), savea := a 56, saves := fieldAt bs 64 8, esta := a 72, ests := fieldAt bs 80 8
          phsa := a 88, phss := fieldAt bs 96 8, ctlw := BitVec.ofNat 32 (fieldAt bs 104 4), dbgw := BitVec.ofNat 32 (fieldAt bs 108 4 % 8) }
      let s := zeroTable (zeroTable s id (a 8) 0x40000) id (a 16) 0x80000
      ((writeFor s p qcx (desc + 112) (leBytes id 4)).1, endOk)

/-- CTX_CREATE (R457). -/
def execCtxCreate (part queue : Nat) (desc : Addr) (s : State) : Out :=
  .next (alone part (cmdCtxCreate s part (queueOf s part queue).ctx desc))

/-- CTX-CLRERR. -/
def cmdClrErr (s : State) (p cx : Nat) (bits : Word) : State × CmdEnd :=
  if ctxUsable s p cx then (updCtx s cx fun c => { c with ctxerr := c.ctxerr &&& ~~~ bits }, endOk) else (s, endRefused)

/-- CTX_CLRERR (R403). -/
def execCtxClrerr (part ctx : Nat) (bits : Word) (s : State) : Out := .next (alone part (cmdClrErr s part ctx bits))

/-- DEBUG: reserved bits stay zero (R402). -/
def cmdDebug (s : State) (p cx : Nat) (bits : Word) : State × CmdEnd :=
  if ctxUsable s p cx then (updCtx s cx fun c => { c with dbgw := bits &&& 7 }, endOk) else (s, endRefused)

/-- DEBUG (R403). -/
def execDebug (part ctx : Nat) (bits : Word) (s : State) : Out := .next (alone part (cmdDebug s part ctx bits))

/-! ### Areas (R417) -/

/-- CTX-SET: selector 0 CTLW, 1 save area, 2 phase area, 3 estate area; an area may only grow (R471). -/
def cmdCtxSet (s : State) (p cx sel : Nat) (a : Addr) (size : Nat) : State × CmdEnd :=
  let c := ctx s cx
  if !ctxUsable s p cx then (s, endRefused)
  else
    match sel with
    | 0 =>
      if ctlwOk (part s p) a.toNat then (updCtx s cx fun c => { c with ctlw := a.setWidth 32 }, endOk) else (s, endRefused)
    | 1 => if size < c.saves then (s, endRefused) else (retryAreas (updCtx s cx fun c => { c with savea := a, saves := size }) cx, endOk)
    | 2 => if size < c.phss then (s, endRefused) else (retryAreas (updCtx s cx fun c => { c with phsa := a, phss := size }) cx, endOk)
    | 3 => if size < c.ests then (s, endRefused) else (updCtx s cx fun c => { c with esta := a, ests := size }, endOk)
    | _ => (s, endRefused)

/-- CTX_SET_CTLW (R457). -/
def execCtxSetCtlw (part ctx : Nat) (value : Word) (s : State) : Out :=
  .next (alone part (cmdCtxSet s part ctx 0 (value.setWidth 64) 0))

/-- CTX_SET_SAVE_AREA (R417). -/
def execCtxSetSaveArea (part ctx : Nat) (addr : Addr) (size : Nat) (s : State) : Out :=
  .next (alone part (cmdCtxSet s part ctx 1 addr size))

/-- CTX_SET_PHASE_AREA (R417). -/
def execCtxSetPhaseArea (part ctx : Nat) (addr : Addr) (size : Nat) (s : State) : Out :=
  .next (alone part (cmdCtxSet s part ctx 2 addr size))

/-- CTX_SET_ESTATE_AREA (R417). -/
def execCtxSetEstateArea (part ctx : Nat) (addr : Addr) (size : Nat) (s : State) : Out :=
  .next (alone part (cmdCtxSet s part ctx 3 addr size))

/-- TRAP_CONSUMER_WRITE (R459): waiting records are served. -/
def execTrapConsumerWrite (part ctx : Nat) (cons : Word) (s : State) : Out :=
  .next (
    let c := Machine.ctx s ctx
    if c.live && c.part == part then serveRecords (updCtx s ctx fun c => { c with trapc := cons }) ctx (c.recWait.length + 1) else s)

/-! ### TLB-INVAL and ZERO (R254, R255, R286) -/

/-- TLB-INVAL. -/
def cmdTlbInval (s : State) (p cx : Nat) (va len : Addr) : State × CmdEnd :=
  if ctxUsable s p cx then (s, .waits 4 [cx, va.toNat, len.toNat] []) else (s, endRefused)

/-- TLB_INVAL (R254). -/
def execTlbInval (part queue index ctx : Nat) (va len : Addr) (s : State) : Out :=
  .next (match cmdTlbInval s part ctx va len with
    | (s, .waits cmd args ls) => holdCommand s part queue index cmd args ls
    | (s, .done _) => s)

/-- A cached translation of a named range. -/
def inRangeTlb (cx va len : Nat) (e : TlbEntry) : Bool :=
  e.ctx == cx && decide (pageVa e < va + len) && decide (va < pageVa e + 2 ^ pageShift e.size)

/-- Invalidates a range in every TLB. Every L1 of the partition writes back what it has dirty: no TLB need still hold the old
translations that say which of its bytes lie in their pages, and more may be written back (R254). -/
def invalidate (s : State) (p cx va len : Nat) : State :=
  let s := ((s.cores.map (·.1)).filter fun c => has (part s p).clusters (c / 8)).foldl writeBackAll s
  dropTlbs s (inRangeTlb cx va len)

def findCommand (s : State) (p id : Nat) : Option Command := (part s p).commands.find? fun c => c.id == id

/-- A waiting command completes. -/
def endCommand (s : State) (p : Nat) (c : Command) (r : Report) : State :=
  finishPacket (updPart s p fun q => { q with commands := q.commands.filter fun x => x.id != c.id }) p c.queue c.index r

/-- TLB_INVAL_DONE (R254). -/
def execTlbInvalDone (part command : Nat) (s : State) : Out :=
  .next (match findCommand s part command with
    | none => s
    | some c =>
      if c.cmd ≠ 4 then s
      else
        endCommand (invalidate s part (c.args.getD 0 0) (c.args.getD 1 0) (c.args.getD 2 0)) part c {})

/-- log2 of the page size of a code of ZERO. -/
def zeroShift (code : Nat) : Nat := if code = 0 then 16 else if code = 1 then 21 else 30

/-- Discards the lines of a page in every L1, dirty bytes included. -/
def dropPage (s : State) (pa size : Nat) : State :=
  s.cores.foldl (fun s e => updCore s e.1 fun k =>
    { k with l1 := k.l1.filter fun l => !(decide (pa ≤ 64 * l.1) && decide (64 * l.1 < pa + size)) }) s

/-- ZERO: a page of the partition's memory. -/
def cmdZero (s : State) (p pa code : Nat) : State × CmdEnd :=
  let size := 2 ^ zeroShift code
  let inside := match regionOf s pa with | .hbm | .tier => owns s p pa size | _ => false
  if 2 < code ∨ pa % size ≠ 0 ∨ !inside then (s, endRefused)
  else (dropPage s pa size, .waits 5 [pa, zeroShift code] [])

/-- ZERO (R286). -/
def execZero (part pa code : Nat) (s : State) : Out := .next (alone part (cmdZero s part pa code))

/-- Leaf entries with ZP set that map a page, below a table of a level: their physical addresses. -/
def zeroLeaves (s : State) (p pa shift : Nat) : Nat → Nat → List Nat
  | level, table =>
    if !owns s p table (if level = 0 then 256 else 4096) then []
    else
      (List.range (if level = 0 then 32 else 512)).flatMap fun i =>
        let at_ := table + 8 * i
        let e : BitVec 64 := BitVec.ofNat 64 (leNat (homeRead s at_ 8))
        let addr := (e.extractLsb' 8 41).toNat * 256
        if !e.getLsbD 0 then []
        else if e.getLsbD 1 then (if levelShift level = shift && addr == pa && e.getLsbD 4 then [at_] else [])
        else
          match level with
          | 0 => []
          | l + 1 => zeroLeaves s p pa shift l addr
  termination_by structural level => level

/-- Clears ZP of a leaf. -/
def clearZp (s : State) (at_ : Nat) : State := homePut s at_ (setAt (homeRead s at_ 8) 0 ((homeRead s at_ 1).headD 0 &&& 0xEF))

/-- A stream that waits for a page to be zeroed is issued afresh. -/
def wakeZero (s : State) : State :=
  let f := fun (w : Option Wait) => match w with | some (.zero _) => none | w => w
  { s with groups := s.groups.map fun e =>
      (e.1, { e.2 with splits := e.2.splits.map fun p => (p.1, { p.2 with wait := f p.2.wait })
                       aslice := e.2.aslice.map fun a => { a with wait := f a.wait } }) }

/-- PAGE_ZERO_DONE (R255, R286): the page is zero, and only then its leaves lose ZP. -/
def execPageZeroDone (part pa shift : Nat) (s : State) : Out :=
  .next (match (Machine.part s part).commands.find? fun c => c.cmd == 5 && c.args == [pa, shift] with
    | none => s
    | some c =>
      let s := zeroPage s pa (2 ^ shift)
      let roots := (s.ctxs.filter fun e => e.2.live && e.2.part == part).map fun e => e.2.ptroot.toNat
      let s := (roots.flatMap fun r => zeroLeaves s part pa shift 4 r).foldl clearZp s
      endCommand (wakeZero s) part c {})

/-! ### LEASE-CLOSE (R192, R216) -/

/-- Goes on with the lease close `k` of a command. -/
def goOnLease (s : State) (cx k : Nat) (skip : Bool) (wills disc : Nat) : State × CmdEnd :=
  let (s, w, d, wait) := closeLease s cx k skip wills disc
  match wait with
  | some va => (s, .waits 6 [cx, k, w, d, va.toNat, 0] [])
  | none => (s, .done { wills := w, disc := d })

/-- LEASE-CLOSE: a close of its own, by an odd number, beside those of launches (R192). -/
def cmdLease (s : State) (p cx : Nat) (ns : Word) : State × CmdEnd :=
  if ctxUsable s p cx then
    let (n, s) := freshId s
    goOnLease (beginLease s cx ns (2 * n + 1)) cx (2 * n + 1) false 0 0
  else (s, endRefused)

/-- LEASE_CLOSE (R192). -/
def execLeaseClose (part ctx : Nat) (ns : Word) (s : State) : Out := .next (alone part (cmdLease s part ctx ns))

/-! ### GROUP (R362, R401, R406) -/

/-- A stopped group of the partition; a group saved with a HINTTO record is one (R409). -/
def isStopped (s : State) (p gid : Nat) : Bool :=
  partOf s (grp s gid) == p && match (grp s gid).state with | .stopped .. => true | .parked => (grp s gid).forced | _ => false

/-- A stopped group whose team has left its core goes on when it is restored: it is parked with its image. -/
def parkStopped (s : State) (gid : Nat) (f : Group → Group) : State :=
  let (s, ok) := readImage s gid
  if ok then updGrp s gid fun g => f { g with state := .parked, recordDue := false, forced := false }
  else killStopped s gid .estate

/-- RESUME after a failed load loads the segment again, as soon as a slot can be had (R31, R32, R35). -/
def loadAgain (s : State) (gid : Nat) (t : TrapInfo) (st : Stream) : State :=
  match t.cause, t.target with
  | .fetch, some k =>
    let g := grp s gid
    let c := coreOf s g
    match (launchOf s g).kernel.segs[k]? with
    | none => s
    | some seg =>
      if (slotFor s c (ctxOf s g) seg.base).isSome || g.state != .running then s
      else
        let s := match chooseSlot s c with | some n => startLoad s c n (ctxOf s g) seg | none => s
        updGrp s gid fun g => setWait g st (some (.segment k))
  | _, _ => s

/-- A stopped group goes on at once: its team is on its core, and is not being saved with the group saved already (R411). -/
def goesOnNow (s : State) (gid : Nat) : Bool :=
  let g := grp s gid
  (teamOf s g).placed && !((teamOf s g).preempt && g.image.isSome)

/-- RESUME and STEP. -/
def cmdResume (s : State) (p gid : Nat) (steps : Option Nat) : State × CmdEnd :=
  if !isStopped s p gid then (s, endRefused)
  else
    match (grp s gid).state with
    | .stopped t st =>
      if goesOnNow s gid then (loadAgain (resumeGroup s gid steps) gid t st, endOk)
      else
        (parkStopped s gid fun g =>
          let g := if resumeSkip t = 0 then g else bump g st (resumeSkip t)
          { g with stepLeft := steps, watchSkip := if t.cause == .watch then some st else none }, endOk)
    | .parked => (parkStopped s gid fun g => { g with stepLeft := steps }, endOk)
    | _ => (s, endRefused)

/-- RESUME (R406). -/
def execResume (part group : Nat) (s : State) : Out := .next (alone part (cmdResume s part group none))

/-- STEP (R406). -/
def execStep (part group n : Nat) (s : State) : Out :=
  .next (if 1 ≤ n ∧ n ≤ 255 then alone part (cmdResume s part group (some n)) else s)

/-- The bytes of the instruction a group stopped at, where they are known (R406). -/
def stoppedLen (s : State) (gid : Nat) (t : TrapInfo) (st : Stream) : Option Nat :=
  if t.cause = .fetch && t.target.isSome then none
  else
    match codeAt s (grp s gid) (pcOf (grp s gid) st) with
    | .ok _ len => some len
    | _ => none

/-- RESUME-NEXT: refused where no instruction stands at the record's PC. -/
def cmdResumeNext (s : State) (p gid : Nat) : State × CmdEnd :=
  if !isStopped s p gid then (s, endRefused)
  else
    match (grp s gid).state with
    | .stopped t st =>
      match stoppedLen s gid t st with
      | none => (s, endRefused)
      | some len =>
        if goesOnNow s gid then (resumeNext s gid len, endOk)
        else (parkStopped s gid fun g => { bump g st len with stepLeft := none }, endOk)
    | .parked =>
      let st := firstStream (grp s gid)
      match stoppedLen s gid { cause := .hintto } st with
      | none => (s, endRefused)
      | some len => (parkStopped s gid fun g => { bump g st len with stepLeft := none }, endOk)
    | _ => (s, endRefused)

/-- RESUME_NEXT (R406). -/
def execResumeNext (part group : Nat) (s : State) : Out := .next (alone part (cmdResumeNext s part group))

/-- The cause with which KILL ends a stop, by its record (R406). -/
def recordCause (s : State) (gid : Nat) : Cause :=
  match (grp s gid).state with | .stopped t _ => killCause t.cause | _ => killCause .hintto

/-- The cause with which a stopped group is killed: by its record, or ESTATE where the header's check word does not match
(R406, R416). -/
def killBy (s : State) (gid : Nat) : Cause := if (readImage s gid).2 then recordCause s gid else .estate

/-- KILL. -/
def cmdKill (s : State) (p gid : Nat) : State × CmdEnd :=
  if !isStopped s p gid then (s, endRefused)
  else
    let id := (teamOf s (grp s gid)).launch
    (leaveTeams (endGroup (readImage s gid).1 gid (killBy s gid)) id, endOk)

/-- KILL (R406). -/
def execKill (part group : Nat) (s : State) : Out := .next (alone part (cmdKill s part group))

/-- KILL-LAUNCH: the launch's other groups are killed as well, and it places no more (log 27). -/
def cmdKillLaunch (s : State) (p gid : Nat) : State × CmdEnd :=
  if !isStopped s p gid then (s, endRefused)
  else
    let id := (teamOf s (grp s gid)).launch
    (killAll (stopPlacing (endGroup (readImage s gid).1 gid (killBy s gid)) id) id (recordCause s gid), endOk)

/-- KILL_LAUNCH (R406). -/
def execKillLaunch (part group : Nat) (s : State) : Out := .next (alone part (cmdKillLaunch s part group))

/-- The group that (LAUNCH, TeamLin, GIX) names. -/
def namedGroup (s : State) (id lin gix : Nat) : Option Nat :=
  (groupsOf s id).find? fun gid => linOf s (grp s gid) == lin && (grp s gid).gix == gix

/-- The GROUP command. -/
def cmdGroup (s : State) (p id lin gix op n : Nat) : State × CmdEnd :=
  match namedGroup s id lin gix with
  | none => (s, endRefused)
  | some gid =>
    match op with
    | 0 => cmdResume s p gid none
    | 1 => cmdResumeNext s p gid
    | 2 => if 1 ≤ n ∧ n ≤ 255 then cmdResume s p gid (some n) else (s, endRefused)
    | 3 => cmdKill s p gid
    | 4 => cmdKillLaunch s p gid
    | _ => (s, endRefused)

/-- STEP_COUNT_EXPIRE (R406): the group stops with BKPT, code 0 and STEP set. -/
def execStepCountExpire (group : Nat) (s : State) : Out :=
  .next (
    let g := grp s group
    if g.state == .running && g.resident && g.stepLeft == some 0 then
      let st := firstStream g
      takeTrap (updGrp s group fun g => { g with stepLeft := none }) group st { cause := .bkpt, step := true }
    else s)

/-! ### HALT (R420 to R422) -/

/-- Halts one group: at once on its core or in its image, a queued phase when it resumes. -/
def haltGroup (s : State) (gid : Nat) : State :=
  let g := grp s gid
  let st := firstStream g
  let t : TrapInfo := { cause := .bkpt, halt := true }
  match g.state with
  | .running => takeTrap s gid st t
  | .parked => trapRecord (updGrp s gid fun g => { g with state := .stopped t st }) gid st t false false
  | .phase => updGrp s gid fun g => { g with haltDue := true }
  | _ => s

/-- A new freeze begins on the cores where no group held one (R422). -/
def newFreeze (s : State) : State :=
  s.cores.foldl (fun s e => if e.2.thawed && (freezers s e.1).isEmpty then updCore s e.1 fun k => { k with thawed := false } else s) s

/-- HALT: the groups of a launch, or of a context where LAUNCH is 0; TeamLin and GIX are 0xFFFFFFFF for all. -/
def cmdHalt (s : State) (p id cx lin gix : Nat) : State × CmdEnd :=
  let ids := if id = 0 then (s.launches.filter fun e => e.2.ctx == cx && !e.2.done).map (·.1) else [id]
  let gs := (ids.flatMap (groupsOf s)).filter fun gid =>
    partOf s (grp s gid) == p && (lin == 0xFFFFFFFF || linOf s (grp s gid) == lin) && (gix == 0xFFFFFFFF || (grp s gid).gix == gix)
  if (if id = 0 then ctxUsable s p cx else (mapGet s.launches id).isSome && (launch s id).part == p) then
    (gs.foldl haltGroup (newFreeze s), endOk)
  else (s, endRefused)

/-- HALT (R420). -/
def execHalt (part launch ctx team gix : Nat) (s : State) : Out := .next (alone part (cmdHalt s part launch ctx team gix))

/-- FREEZE has held a core's copy engine for 100 ms (R422). -/
def freezeOver (s : State) (c : Nat) : Bool :=
  engineFrozen s c && match (core s c).frozenAt with
    | some t => decide (100000000 ≤ (s.time - t).toNat)
    | none => false

/-- FREEZE_TIMEOUT (R422): after 100 ms the engine goes on, and CTXERR bit 0x16 of the halted contexts is set. -/
def execFreezeTimeout (core : Nat) (s : State) : Out :=
  .next (
    if freezeOver s core then
      let s' := (freezers s core).foldl (fun s gid => setCtxErr s (ctxOf s (grp s gid)) 0x16) s
      updCore s' core fun k => { k with thawed := true }
    else s)

/-! ### RESIDENCY (R428, R429) -/

/-- RES for an expert that leaves the resident state: by the region of BACK. -/
def awayRes (s : State) (cx : Nat) (e : Tid) : Option Nat :=
  if e.back = 0 then none
  else
    match xlateWalk s cx e.back 0 with
    | .ok pa _ => match regionOf s pa with | .peer _ => some 2 | .tier => some 3 | _ => none
    | _ => none

def migrating (s : State) (p cx t : Nat) : Bool := (part s p).migrations.any fun m => m.ctx == cx && m.tid == t

/-- Launches that have placed a team and not completed. -/
def placedLaunches (s : State) (p : Nat) : List Nat :=
  (s.launches.filter fun e => !e.2.done && e.2.part == p && s.teams.any fun t => t.2.launch == e.1).map (·.1)

/-- RESIDENCY: resident at once or when the migration in flight ends; away once none is, and complete when the launches
placed before it are. -/
def cmdResidency (s : State) (p cx t res : Nat) : State × CmdEnd :=
  let e := tidOf s cx t
  if !ctxUsable s p cx || decide (1024 ≤ t) || !e.valid || !e.expert || decide (3 < res) || res == 1 then (s, endRefused)
  else if res = 0 then
    if migrating s p cx t then
      (updPart s p fun q => { q with migrations := q.migrations.map fun m => if m.ctx = cx ∧ m.tid = t then { m with claimed := true } else m }
      , .waits 9 [cx, t, 0] [])
    else (updTid s cx t fun e => { e with res := 0 }, endOk)
  else
    match awayRes s cx e with
    | none => (s, endRefused)
    | some r =>
      if migrating s p cx t then (s, .waits 9 [cx, t, 1] (placedLaunches s p))
      else (updTid s cx t fun e => { e with res := r }, .waits 9 [cx, t, 2] (placedLaunches s p))

/-- RESIDENCY (R429). -/
def execResidency (part ctx tid res : Nat) (s : State) : Out := .next (alone part (cmdResidency s part ctx tid res))

/-! ### POLICY (R269, R433, R474) -/

/-- POLICY: the reserved bits of XPOL stay zero (R4, R433), and an area that is not made larger kills the launches that wait for room
in it. -/
def cmdPolicy (s : State) (p : Nat) (value : Word) (area : Addr) (size quantum : Nat) : State × CmdEnd :=
  let xpol := value &&& 0xFF
  if 64 < xpol.toNat / 2 ∨ size < 0x4000000 then (s, endRefused)
  else
    let q := part s p
    let grown := decide (q.addSize < size)
    let s := updPart s p fun q => { q with xpol := xpol, addArea := area, addSize := size, quantum := quantum, addFull := q.addFull && !grown }
    let stuck := (s.launches.filter fun e => e.2.part == p && e.2.areaWait && !e.2.done).map (·.1)
    let s := stuck.foldl
      (fun s id =>
        let s := updLaunch s id fun l => { l with areaWait := false }
        if grown || !q.addFull then s
        else killAll (stopPlacing (updLaunch s id fun l => { l with areaFull := true }) id) id .swtrap) s
    (s, endOk)

/-- POLICY (R433). -/
def execPolicy (part : Nat) (xpol : Word) (area : Addr) (size quantum : Nat) (s : State) : Out :=
  .next (alone part (cmdPolicy s part xpol area size quantum))

/-! ### SESSION (R439, R440) -/

/-- The session of an image. -/
def sessionImage (bs : List Byte) : Session :=
  { mode := fieldAt bs 0 1, feed := fieldAt bs 1 1, batch := fieldAt bs 2 2, xbase := fieldAt bs 4 2, xcnt := fieldAt bs 6 2
    ctx := fieldAt bs 8 4, nslot := fieldAt bs 12 4, area := BitVec.ofNat 64 (fieldAt bs 16 8), tmpl := BitVec.ofNat 64 (fieldAt bs 24 8) }

/-- An image keeps R439. -/
def sessionFits (s : State) (p : Nat) (bs : List Byte) : Bool :=
  let x := sessionImage bs
  bs.length == 64 && decide (x.mode ≤ 2) && zeroAt bs 36 28
    && (x.mode == 0 || (decide (1 ≤ x.batch) && decide (x.batch ≤ 4096) && decide (1 ≤ x.xcnt) && decide (1 ≤ x.nslot)
        && decide (x.nslot ≤ 2 ^ 20) && x.area.toNat % 64 == 0 && ctxUsable s p x.ctx))

/-- The new image is written; HEAD stays where AREA and NSLOT do. -/
def writeSession (s : State) (p n : Nat) (bs : List Byte) : State :=
  let old := sessionOf s p n
  let x := sessionImage bs
  updPart s p fun q =>
    { q with sessions := mapPut q.sessions n { x with head := if x.area = old.area ∧ x.nslot = old.nslot then old.head else 0 } }

/-- Drops what a session holds and cancels its waiting emissions. -/
def discardSession (s : State) (p n : Nat) : State :=
  let s := updPart s p fun q => { q with buckets := q.buckets.filter fun b => b.session != n }
  ((part s p).emissions.filter fun e => e.session == n).foldl (fun s e => dropEmission s p e.id) s

/-- SESSION. One that comes while another on its session waits has its effect at once, with DISCARD that of cancelling what the other
waits for, and ends after it. -/
def cmdSession (s : State) (p n : Nat) (bs : List Byte) (discard : Bool) : State × CmdEnd :=
  if 256 ≤ n ∨ !sessionFits s p bs then (s, endRefused)
  else
    let busy := sessionBusy s p n
    let s := if discard then discardSession s p n else (emitAll s p (sessionBuckets (part s p) n none)).2
    if busy || (part s p).emissions.any fun e => e.session == n then (s, .waits 0x0B (n :: bs.map (·.toNat)) [])
    else (writeSession s p n bs, endOk)

/-- SESSION (R440). -/
def execSession (part session : Nat) (image : List Byte) (discard : Bool) (s : State) : Out :=
  .next (alone part (cmdSession s part session image discard))

/-! ### FEED (R446 to R448) -/

/-- Creates a feed; a closed one that holds nothing may be created anew. -/
def cmdFeedCreate (s : State) (p n cap cx : Nat) : State × CmdEnd :=
  let f := feedOf s p n
  let q := part s p
  if 256 ≤ n ∨ !ctxUsable s p cx ∨ !((List.range 9).any fun k => cap == 16 * 2 ^ k) ∨ (f.created && !(f.closed && f.recs.isEmpty))
      ∨ schedSize q < schedUsed s p + 64 * cap then (s, endRefused)
  else (updFeed s p n fun _ => { created := true, ctx := cx, cap := cap }, endOk)

/-- FEED_CREATE (R446). -/
def execFeedCreate (part feed ctx cap : Nat) (s : State) : Out := .next (alone part (cmdFeedCreate s part feed cap ctx))

/-- Wakes every sleeper of a feed with the closed status. -/
def wakeClosed (s : State) (p n : Nat) : State :=
  let xs := (feedOf s p n).sleepers.filter (asleep s n)
  xs.foldl (fun s x => wakeSleeper s x.1 x.2.1 x.2.2 [0xC0000000]) (updFeed s p n fun f => { f with sleepers := [] })

/-- Closes a feed; it wakes its sleepers if it is empty. -/
def closeFeed (s : State) (p n : Nat) : State :=
  let s := updFeed s p n fun f => { f with closed := true }
  if (feedOf s p n).recs.isEmpty then wakeClosed s p n else s

/-- The closing FEED command. -/
def cmdFeedClose (s : State) (p n : Nat) : State × CmdEnd :=
  if (feedOf s p n).created then (closeFeed s p n, endOk) else (s, endRefused)

/-- FEED_CLOSE (R446). -/
def execFeedClose (part feed : Nat) (s : State) : Out := .next (alone part (cmdFeedClose s part feed))

end Sys2Proof.Machine
end

