-- ==== Sys2Proof/Machine/Packets.lean ====
section
/-! DEFINITION. The queue engine: scripts, packets, the creation and destruction of queues and contexts, and the commands
that wait (R303, R458, R459, R468 to R478). -/

namespace Sys2Proof.Machine
open Sys2Proof

/-! ### Queue scripts (R475 to R477) -/

def opOf (w : Word) : Nat := (w.extractLsb' 24 8).toNat
def xdOf (w : Word) : Nat := (w.extractLsb' 20 4).toNat
def xsOf (w : Word) : Nat := (w.extractLsb' 16 4).toNat
def immOf (w : Word) : Nat := (w.extractLsb' 0 16).toNat

/-- Operation, register and immediate fields lie in their ranges, and unused ones are zero. -/
def scriptFieldsOk (w : Word) : Bool :=
  let d := xdOf w
  let x := xsOf w
  let n := immOf w
  match opOf w with
  | 0x01 | 0x05 => x == 0
  | 0x02 => x == 0 && decide (n ≤ 15)
  | 0x03 => d == 0 && decide (2 ≤ n) && decide (n ≤ 15)
  | 0x04 | 0x06 | 0x07 | 0x08 => n == 0
  | 0x09 | 0x0A => x == 0 && decide (n < 32)
  | 0x0B => x == 0 && decide (n ≤ 1023)
  | 0x0C => d == 0 && decide (n ≤ 1023)
  | 0x0D | 0x0E | 0x0F => decide (1 ≤ n) && decide (n ≤ 255)
  | 0x10 => x == 0 && decide (1 ≤ n) && decide (n ≤ 255)
  | 0x11 => x == 0 && n == 0
  | 0x12 | 0x13 => d == 0 && x == 0 && n == 0
  | _ => false

/-- The script writes register `x` at this word. -/
def scriptWrites (w : Word) (x : Nat) : Bool :=
  xdOf w == x && match opOf w with
    | 0x01 | 0x02 | 0x04 | 0x05 | 0x06 | 0x07 | 0x08 | 0x09 | 0x0A | 0x0B | 0x10 | 0x11 => true
    | _ => false

/-- The ranges of the loops, from target to LOOP. -/
def scriptLoops (ws : List Word) : List (Nat × Nat) :=
  (List.range ws.length).filterMap fun i => let w := ws.getD i 0; if opOf w = 0x10 then some (i - immOf w, i) else none

/-- The forward branches: place and target. -/
def scriptBranches (ws : List Word) : List (Nat × Nat) :=
  (List.range ws.length).filterMap fun i =>
    let w := ws.getD i 0
    if 0x0D ≤ opOf w ∧ opOf w ≤ 0x0F then some (i, i + 1 + immOf w) else none

/-- A loop keeps R476: the LDI before its target, and no write of its register within. -/
def scriptLoopOk (ws : List Word) (i : Nat) : Bool :=
  let w := ws.getD i 0
  if opOf w ≠ 0x10 then true
  else if i < immOf w + 1 then false
  else
    let t := i - immOf w
    let l := ws.getD (t - 1) 0
    opOf l == 1 && xdOf l == xdOf w && decide (1 ≤ immOf l) && decide (immOf l ≤ 256)
      && (List.range (i - t)).all fun j => !scriptWrites (ws.getD (t + j) 0) (xdOf w)

/-- QUEUE-CREATE accepts the script (R476). -/
def scriptOk (ws : List Word) : Bool :=
  let loops := scriptLoops ws
  let bs := scriptBranches ws
  ws.all scriptFieldsOk && bs.all (fun b => decide (b.2 < ws.length)) && (List.range ws.length).all (scriptLoopOk ws)
    && loops.all (fun a => loops.all fun b =>
        a == b || decide (a.2 < b.1) || decide (b.2 < a.1) || (decide (a.1 ≤ b.1) && decide (b.2 < a.2)) || (decide (b.1 ≤ a.1) && decide (a.2 < b.2)))
    && bs.all fun b => loops.all fun l =>
        !(decide (l.1 ≤ b.2) && decide (b.2 ≤ l.2)) || (decide (l.1 ≤ b.1) && decide (b.1 ≤ l.2))

/-- A script in progress. -/
structure Script where
  pc   : Nat := 0
  regs : List Word := []
  data : Cells 32
  pkt  : List Word
  deriving DecidableEq, Repr

/-- How a script ends. -/
inductive ScriptEnd where
  | go | drop | budget
  deriving DecidableEq, Repr

/-- The words that an STP may change: in a LAUNCH packet only the descriptor address (R475). -/
def stpMay (pkt : List Word) (n : Nat) : Bool := (pkt.getD 0 0).toNat % 256 != 1 || n == 2 || n == 3

/-- One word of a script. -/
def scriptStep (time : Word) (w : Word) (x : Script) : Script :=
  let d := x.regs.getD (xdOf w) 0
  let v := x.regs.getD (xsOf w) 0
  let n := immOf w
  let sx : Word := (w.extractLsb' 0 16).signExtend 32
  let set := fun (r : Word) => { x with pc := x.pc + 1, regs := setAt x.regs (xdOf w) r }
  let jump := fun (c : Bool) => { x with pc := if c then x.pc + 1 + n else x.pc + 1 }
  match opOf w with
  | 0x01 => set sx
  | 0x02 => set (x.pkt.getD n 0)
  | 0x03 => { x with pc := x.pc + 1, pkt := if stpMay x.pkt n then setAt x.pkt n v else x.pkt }
  | 0x04 => set (d + v)
  | 0x05 => set (d + sx)
  | 0x06 => set (d &&& v)
  | 0x07 => set (d ||| v)
  | 0x08 => set (d ^^^ v)
  | 0x09 => set (d <<< (n % 32))
  | 0x0A => set (d >>> (n % 32))
  | 0x0B => set (cellGet x.data n)
  | 0x0C => { x with pc := x.pc + 1, data := cellSet x.data n v }
  | 0x0D => jump (d == v)
  | 0x0E => jump (d != v)
  | 0x0F => jump (d.slt v)
  | 0x10 => let x := set (d - 1); if d - 1 != 0 then { x with pc := x.pc - 1 - n } else x
  | _ => set time

/-- Runs a script within its budget of executed words (R477). -/
def runScript (ws : List Word) (time : Word) : Nat → Script → Script × ScriptEnd
  | fuel, x =>
    match ws[x.pc]? with
    | none => (x, .go)
    | some w =>
      match fuel with
      | 0 => (x, .budget)
      | n + 1 =>
        if opOf w = 0x12 then (x, .go)
        else if opOf w = 0x13 then (x, .drop)
        else runScript ws time n (scriptStep time w x)
  termination_by structural fuel => fuel

/-! ### QUEUE-CREATE and QUEUE-DESTROY (R468, R469, R478) -/

/-- The words of a script or of a data image; none where they cannot be read. -/
def wordsFor (s : State) (p : Nat) (cx : Option Nat) (a : Addr) (n : Nat) : Option (List Word) :=
  (readFor s p cx a (4 * n)).map bytesWords

/-- The context that a queue image names. -/
def imageCtx (bs : List Byte) : Option Nat := if fieldAt bs 20 4 = 0xFFFFFFFF then none else some (fieldAt bs 20 4)

/-- The fields of a queue image lie in their ranges, and its reserved bytes are zero (R469). -/
def queueFits (s : State) (p : Nat) (bs : List Byte) : Bool :=
  let log := fieldAt bs 16 1
  let clog := fieldAt bs 17 1
  let slen := fieldAt bs 32 2
  let script := fieldAt bs 24 8
  fieldAt bs 0 8 % 64 == 0 && fieldAt bs 8 8 % 64 == 0 && decide (1 ≤ log) && decide (log ≤ 16) && decide (1 ≤ clog) && decide (clog ≤ 16)
    && decide (fieldAt bs 18 1 < 8) && decide (fieldAt bs 19 1 < 4) && script % 4 == 0
    && (if script = 0 then slen == 0 else decide (1 ≤ slen) && decide (slen ≤ 256))
    && zeroAt bs 34 6 && fieldAt bs 40 8 % 64 == 0 && zeroAt bs 48 16
    && match imageCtx bs with | none => fieldAt bs 19 1 % 2 == 1 | some c => ctxUsable s p c

/-- The queue of an image, or none where it is refused. -/
def queueImage (s : State) (p : Nat) (bs : List Byte) : Option Queue :=
  let slen := fieldAt bs 32 2
  let script := fieldAt bs 24 8
  let sdata := fieldAt bs 40 8
  let own := imageCtx bs
  if !queueFits s p bs then none
  else
    match (if slen = 0 then some [] else wordsFor s p own (BitVec.ofNat 64 script) slen),
        (if sdata = 0 then some [] else wordsFor s p own (BitVec.ofNat 64 sdata) 1024) with
    | some ws, some ds =>
      if scriptOk ws then
        some { created := true, pring := BitVec.ofNat 64 (fieldAt bs 0 8), cmpr := BitVec.ofNat 64 (fieldAt bs 8 8), log := fieldAt bs 16 1
               clog := fieldAt bs 17 1, floor := fieldAt bs 18 1, runtime := fieldAt bs 19 1 % 2 == 1, intr := decide (2 ≤ fieldAt bs 19 1), ctx := own, script := ws
               data := (List.range ds.length).foldl (fun m i => cellSet m i (ds.getD i 0)) [] }
      else none
    | _, _ => none

/-- QUEUE-CREATE cannot take this number: queue 0's, one out of range, or one in use. -/
def queueTaken (s : State) (p q : Nat) : Bool := q == 0 || decide (512 ≤ q) || (queueOf s p q).created

/-- The reads of an image that QUEUE-CREATE takes meet a page that waits to be zeroed (R255). -/
def createZp (s : State) (p q cx : Nat) (image : Addr) : Bool :=
  !queueTaken s p q && image.toNat % 64 == 0
    && (zpIn s cx image 64 0
      || match readClean s cx image 64 with
        | none => false
        | some bs => queueFits s p bs && match imageCtx bs with
          | none => false
          | some c => zpIn s c (BitVec.ofNat 64 (fieldAt bs 24 8)) (4 * fieldAt bs 32 2) 0
            || (fieldAt bs 40 8 != 0 && zpIn s c (BitVec.ofNat 64 (fieldAt bs 40 8)) 4096 0))

/-- QUEUE-CREATE. -/
def cmdQueueCreate (s : State) (p q : Nat) (cx : Option Nat) (image : Addr) : State × CmdEnd :=
  if queueTaken s p q then (s, endRefused)
  else
    match (if image.toNat % 64 = 0 then readFor s p cx image 64 else none).bind (queueImage s p) with
    | none => (s, endRefused)
    | some x => (updQueue s p q fun _ => x, endOk)

/-- QUEUE_CREATE, as a queue without a context gives it: a physical image address (R469). -/
def execQueueCreate (part queue : Nat) (image : Addr) (s : State) : Out := .next (alone part (cmdQueueCreate s part queue none image))

/-- Stops a queue: its launches place no more, and with `kill` end at once. A launch whose spans are all placed is not cut
short unless it is killed; one whose check still waits places nothing. -/
def stopQueue (s : State) (p q : Nat) (kill : Bool) : State :=
  let s := updQueue s p q fun x => { x with stopped := true }
  let s := ((queueOf s p q).packets.filter fun x => x.number.isSome).foldl
    (fun s x => finishPacket s p q x.index { status := 3, launch := x.number }) s
  ((queueOf s p q).packets.filterMap fun x => x.launch).foldl
    (fun s id => if (launch s id).done || (!kill && placedAll (launch s id)) then s else cancelLaunch s id kill) s

/-- QUEUE-DESTROY of a queue other than 0. -/
def cmdQueueDestroy (s : State) (p q : Nat) (kill : Bool) : State × CmdEnd :=
  if q = 0 ∨ !(queueOf s p q).created ∨ (queueOf s p q).stopped then (s, endRefused)
  else (stopQueue s p q kill, .waits 0x0D [q] [])

/-- QUEUE_DESTROY (R478). -/
def execQueueDestroy (part queue : Nat) (kill : Bool) (s : State) : Out := .next (alone part (cmdQueueDestroy s part queue kill))

/-- Every packet of a stopped queue has completed, but for the one at `index` of queue `own`. -/
def drained (s : State) (p q own index : Nat) : Bool :=
  let x := queueOf s p q
  x.head == x.tail && x.packets.all fun y => own == q && y.index == index

/-- The doorbells of a queue not yet read to their tails, with a new one: only one that moves the tail submits packets (R190). -/
def ring (x : Queue) (tail : Word) (done : List Nat) : List (Word × List Nat) :=
  if tail = x.tail then x.rung
  else if tail = x.head then []
  else (x.rung.filter fun r => decide ((r.1 - x.head).toNat < (tail - x.head).toNat)) ++ [(tail, done)]

/-- DOORBELL (R468): the new tail, with the launches after whose completion its packets are submitted (R190); a queue that is not
created, or is stopped, takes none. A tail given again submits nothing new, and one that goes back takes packets back. -/
def execDoorbell (part queue : Nat) (tail : Word) (s : State) : Out :=
  .next (
    let x := queueOf s part queue
    let done := match x.ctx with | some cx => doneLaunches s cx | none => []
    if x.created && !x.stopped then updQueue s part queue fun x => { x with tail := tail, rung := ring x tail done } else s)

/-! ### CTX-DESTROY (R458) -/

/-- The steps that a destruction takes at once: queues, launches, walks, groups. -/
def startDestroy (s : State) (p cx : Nat) : State :=
  let s := updCtx s cx fun c => { c with dying := true }
  let qs := ((part s p).queues.filter fun e => e.2.ctx == some cx).map (·.1)
  let s := qs.foldl (fun s q => stopQueue s p q true) s
  let ls := (s.launches.filter fun e => e.2.ctx == cx && !e.2.done).map (·.1)
  let s := ls.foldl (fun s id => updLaunch (cancelLaunch s id true) id fun l => { l with contribs := [] }) s
  let ks := ((part s p).graphs.filter fun e => e.2.ctx == cx).map (·.1)
  ks.foldl
    (fun s k =>
      let s := freeGraph s p k
      if graphUsed s p k then settleWalk p k 18 (updGraph s p k fun g => { g with cancelled := true, faulted := true }) else s) s

/-- Operations that groups of a context have issued and that have not completed (R296). -/
def operationsLeft (s : State) (cx : Nat) : Bool :=
  s.cores.any (fun e =>
    e.2.copies.any (fun o => o.ctx == cx) || (e.2.eng0 ++ e.2.eng1).any fun o => ctxOf s (grp s o.group) == cx)
    || s.parts.any fun p => p.2.migrations.any fun (m : Migration) => m.ctx == cx

/-- A destruction has only its last steps left: what its steps write has landed as well. -/
def destroyReady (s : State) (p cx own index : Nat) : Bool :=
  (s.heldWrites.all fun w => w.ctx != cx) &&
  ((part s p).queues.all fun e => e.2.ctx != some cx || drained s p e.1 own index)
    && (s.launches.all fun e => e.2.ctx != cx || e.2.done) && ((part s p).graphs.all fun e => e.2.ctx != cx) && !operationsLeft s cx

/-- The last steps: estates, directory, sessions, feeds, identifiers, translations, CTXERR. The context and its queues go once the
command's own record is written. -/
def finishDestroy (s : State) (p cx : Nat) : State :=
  let s := ((part s p).sessions.filter fun e => e.2.ctx == cx).foldl
    (fun s e => writeSession (discardSession s p e.1) p e.1 (List.replicate 64 0)) s
  let s := ((part s p).feeds.filter fun e => e.2.created && e.2.ctx == cx).foldl (fun s e => closeFeed s p e.1) s
  let s := dropTlbs s fun t => t.ctx == cx
  updCtx s cx fun c =>
    { c with
      estates := [], ddir := c.ddir.map fun e => (e.1, freeEntry e.2)
      tids := c.tids.map fun t => (t.1, { t.2 with valid := false }), ctxerr := 0, recWait := [] }

/-- The context is no more, nor are its queues. -/
def dropCtx (s : State) (p cx : Nat) : State :=
  let s := updPart s p fun q => { q with queues := q.queues.filter fun e => e.2.ctx != some cx }
  dropTlbs (updCtx s cx fun c => { c with live := false, dying := false, ctxerr := 0 }) fun t => t.ctx == cx

/-- CTX-DESTROY. -/
def cmdCtxDestroy (s : State) (p cx : Nat) : State × CmdEnd :=
  if ctxUsable s p cx then (startDestroy s p cx, .waits 1 [cx] []) else (s, endRefused)

/-- CTX_DESTROY (R458). -/
def execCtxDestroy (part ctx : Nat) (s : State) : Out := .next (alone part (cmdCtxDestroy s part ctx))

/-! ### Packets (R470, R471) -/

/-- The words that a packet of a type, or a command, names (R470, R471, R512). -/
def namedWords (type cmd : Nat) : List Nat :=
  match type, cmd with
  | 1, _ => [2, 3, 4, 5, 6, 7, 8, 9, 10, 11, 12]
  | 2, _ => [2, 3, 4, 5]
  | 3, _ => [2, 3, 4, 5]
  | _, 1 => [2, 3, 4]
  | _, 2 | _, 3 | _, 6 => [4, 5]
  | _, 4 | _, 7 | _, 8 => [2, 3, 4, 5, 6]
  | _, 5 => [2, 3, 4]
  | _, 9 => [4, 5, 6]
  | _, 0x0A => [4, 5, 6, 7, 8]
  | _, 0x0B | _, 0x0C | _, 0x0D => [4, 5, 6, 7]
  | _, 0x0E => [2, 3, 4, 5]
  | _, 0x0F => [4, 5, 6, 7, 8, 9]
  | _, _ => []

/-- Bits of a command's words that the table does not name are zero. -/
def namedBits (cmd : Nat) (ws : List Word) : Bool :=
  let n := fun k => (pword ws k).toNat
  match cmd with
  | 1 => decide (n 4 < 2)
  | 7 => n 6 % 256 / 8 == 0 && decide (n 6 < 0x10000)
  | 0x0B => decide (n 7 < 2)
  | 0x0C | 0x0D => decide (n 5 < 4)
  | 0x0E => decide (n 5 < 2)
  | _ => true

/-- The packet is refused by its own words (R470). -/
def packetBad (ws : List Word) : Bool :=
  let w := (pword ws 0).toNat
  let type := w % 256
  let cmd := w / 2 ^ 16 % 256
  type == 0 || decide (4 < type) || decide (4 ≤ w / 256 % 256) || decide (2 ^ 24 ≤ w) || (type != 4 && cmd != 0)
    || ((List.range 14).any fun j => !has (namedWords type cmd) (j + 2) && pword ws (j + 2) != 0)

/-- A command of a packet (R471). -/
def command (s : State) (p q : Nat) (ws : List Word) : State × CmdEnd :=
  let x := queueOf s p q
  let cmd := (pword ws 0).toNat / 2 ^ 16 % 256
  let n := fun k => (pword ws k).toNat
  if !x.runtime || !namedBits cmd ws then (s, endRefused)
  else
    match cmd with
    | 0x01 =>
      if n 4 = 0 then cmdCtxCreate s p x.ctx (paddr ws 2)
      else
        match readFor s p x.ctx (paddr ws 2 + 112) 4 with
        | some bs => cmdCtxDestroy s p (leNat bs)
        | none => (s, endRefused)
    | 0x02 => cmdClrErr s p (n 4) (pword ws 5)
    | 0x03 => cmdDebug s p (n 4) (pword ws 5)
    | 0x04 => cmdTlbInval s p (n 6) (paddr ws 2) (paddr ws 4)
    | 0x05 => cmdZero s p (paddr ws 2).toNat (n 4)
    | 0x06 => cmdLease s p (n 4) (pword ws 5)
    | 0x07 => cmdGroup s p (paddr ws 2).toNat (n 4) (n 5) (n 6 % 8) (n 6 / 256 % 256)
    | 0x08 => cmdHalt s p (paddr ws 2).toNat (n 4) (n 5) (n 6)
    | 0x09 => cmdResidency s p (n 4) (n 5) (n 6)
    | 0x0A => cmdPolicy s p (pword ws 4) (paddr ws 5) (n 7) (n 8)
    | 0x0B =>
      match readFor s p x.ctx (paddr ws 5) 64 with
      | some bs => cmdSession s p (n 4) bs (n 7 == 1)
      | none => (s, endRefused)
    | 0x0C => if n 5 = 1 then cmdFeedCreate s p (n 4) (n 6) (n 7) else if n 5 = 2 then cmdFeedClose s p (n 4) else (s, endRefused)
    | 0x0D =>
      if n 5 % 2 = 1 then cmdQueueDestroy s p (n 4) (decide (2 ≤ n 5))
      else if n 5 = 0 then cmdQueueCreate s p (n 4) x.ctx (paddr ws 6) else (s, endRefused)
    | 0x0E =>
      if n 5 = 1 then (freeGraph s p (n 4), .waits 0x0E [n 4] [])
      else let (s, ok) := uploadGraph s p (n 4) x.ctx (paddr ws 2); (s, if ok then endOk else endRefused)
    | 0x0F => cmdCtxSet s p (n 4) (n 5) (paddr ws 6) (paddr ws 8).toNat
    | _ => (s, endRefused)

def updPacket (s : State) (p q index : Nat) (f : Packet → Packet) : State :=
  updQueue s p q fun x => { x with packets := x.packets.map fun y => if y.index = index then f y else y }

/-- The LAUNCH value of a packet's launch: the one it got when it was taken, or a new one (R463). -/
def launchNumber (s : State) (p q index : Nat) : Nat × State :=
  match ((queueOf s p q).packets.find? fun x => x.index == index).bind (·.number) with
  | some id => (id, updPacket s p q index fun x => { x with number := none })
  | none => assignLaunch s p

/-- A LAUNCH packet submits its descriptor (R464, R466, R512). On a queue without a context it is a refused launch (R470). -/
def startLaunch (s : State) (p q index : Nat) (ws : List Word) : State :=
  let x := queueOf s p q
  let (id, s) := launchNumber s p q index
  match x.ctx with
  | none => finishPacket s p q index { status := 2, cause := 4, launch := some id }
  | some cx =>
    let acct : Acct :=
      { addr := paddr ws 4, t0 := paddr ws 6, stor := paddr ws 8, proc := pword ws 10, thread := pword ws 11, cap := (pword ws 12).toNat }
    let c := match descAt s cx (paddr ws 2) with | some bs => checkLaunch s p cx bs none x.floor | none => .refuse 4
    let s := enterLaunch s id p cx c (.packet q (pword ws 1)) acct (withAfter s x.ordered)
    updPacket (updQueue s p q fun x => { x with past := x.past ++ [id] }) p q index fun y => { y with launch := some id }

/-- A SIGNAL packet (R470, R278). -/
def startSignal (s : State) (p q index : Nat) (ws : List Word) : State :=
  if (paddr ws 2).toNat % 8 ≠ 0 then finishPacket s p q index { status := 2, cause := 4 }
  else
    let (s, ok) := writeFor (releaseCores s) p (queueOf s p q).ctx (paddr ws 2) (leBytes (paddr ws 4).toNat 8)
    finishPacket s p q index { status := if ok then 0 else 1 }

/-- What a poll of a WAIT packet gives: its report, or nothing yet (R470). -/
def pollWait (s : State) (p q : Nat) (ws : List Word) : Option Report :=
  match readFor s p (queueOf s p q).ctx (paddr ws 2) 4 with
  | none => if (match (queueOf s p q).ctx with | some cx => zpIn s cx (paddr ws 2) 4 0 | none => false) then none else some { status := 1 }
  | some bs =>
    let v := BitVec.ofNat 32 (leNat bs)
    let w := pword ws 4
    let ok := match (pword ws 5).toNat with | 0 => v == w | 1 => v != w | _ => decide (w.toNat ≤ v.toNat)
    if ok then some {} else none

/-- A WAIT packet starts polling. -/
def startWait (s : State) (p q index : Nat) (ws : List Word) : State :=
  if (paddr ws 2).toNat % 4 ≠ 0 ∨ 2 < (pword ws 5).toNat then finishPacket s p q index { status := 2, cause := 4 } else s

/-- What a command that is not refused reads or writes through its queue's context meets a page that waits to be zeroed (R255). -/
def commandZp (s : State) (p cx : Nat) (ws : List Word) : Bool :=
  let n := fun k => (pword ws k).toNat
  match n 0 / 2 ^ 16 % 256 with
  | 0x01 => if n 4 = 0 then (paddr ws 2).toNat % 64 == 0 && zpIn s cx (paddr ws 2) 256 0 else zpIn s cx (paddr ws 2 + 112) 4 0
  | 0x0B => decide (n 4 < 256) && zpIn s cx (paddr ws 5) 64 0
  | 0x0D => n 5 == 0 && createZp s p (n 4) cx (paddr ws 6)
  | 0x0E => n 5 == 0 && uploadZp s p (n 4) cx (paddr ws 2)
  | _ => false

/-- A started packet that is not refused meets a page that waits to be zeroed, and waits for it (R255). A WAIT polls (R470). -/
def wordsZp (s : State) (p q : Nat) (ws : List Word) : Bool :=
  let x := queueOf s p q
  match x.ctx with
  | none => false
  | some cx =>
    match (pword ws 0).toNat % 256 with
    | 1 => launchZp s cx (paddr ws 2)
    | 2 => (paddr ws 2).toNat % 8 == 0 && zpIn s cx (paddr ws 2) 8 1
    | 4 => x.runtime && namedBits ((pword ws 0).toNat / 2 ^ 16 % 256) ws && commandZp s p cx ws
    | _ => false

/-- A started packet waits; a LAUNCH packet gets its LAUNCH value as it is taken (R463). -/
def holdPacket (s : State) (p q index : Nat) (ws : List Word) : State :=
  let (number, s) := if (pword ws 0).toNat % 256 = 1 then let (id, s) := assignLaunch s p; (some id, s) else (none, s)
  updPacket s p q index fun x => { x with held := true, number := number }

/-- Does what a packet asks for. -/
def performWords (s : State) (p q index : Nat) (ws : List Word) : State :=
  match (pword ws 0).toNat % 256 with
  | 1 => startLaunch s p q index ws
  | 2 => startSignal s p q index ws
  | 3 => startWait s p q index ws
  | _ =>
    match command s p q ws with
    | (s, .done r) => finishPacket s p q index r
    | (s, .waits cmd args ls) => holdCommand s p q index cmd args ls

/-- Starts what a packet asks for. -/
def startWords (s : State) (p q index : Nat) (ws : List Word) : State :=
  if packetBad ws then finishPacket s p q index { status := 2, cause := 4 }
  else if wordsZp s p q ws then holdPacket s p q index ws
  else performWords s p q index ws

/-- A held packet whose pages have been zeroed. -/
def heldPacket (s : State) (p q : Nat) : Option Packet := (queueOf s p q).packets.find? fun x => x.held && !wordsZp s p q x.words

/-- A held packet goes on. -/
def resumePacket (s : State) (p q : Nat) (x : Packet) : State :=
  performWords (updPacket s p q x.index fun y => { y with held := false }) p q x.index x.words

/-- The words of the packet that a queue reads next; none where the slot cannot be read. -/
def nextWords (s : State) (p q : Nat) : Option (List Word) :=
  let x := queueOf s p q
  wordsFor s p x.ctx (x.pring + BitVec.ofNat 64 (64 * (x.head.toNat % 2 ^ x.log))) 16

/-- The slot that a queue reads next lies in a page that waits to be zeroed, and its read waits (R255). -/
def slotZp (s : State) (p q : Nat) : Bool :=
  let x := queueOf s p q
  match x.ctx with
  | none => false
  | some cx => zpIn s cx (x.pring + BitVec.ofNat 64 (64 * (x.head.toNat % 2 ^ x.log))) 64 0

/-- A queue can start a packet: it has one, and a BARRIER packet has no earlier one open (R470). -/
def packetWaits (s : State) (p q : Nat) : Bool :=
  let x := queueOf s p q
  x.created && x.head != x.tail && (x.stopped || !slotZp s p q)
    && (x.stopped || match nextWords s p q with | some ws => !(pword ws 0).getLsbD 8 || x.packets.isEmpty | none => true)

/-- What the packets of a queue from this one on are ordered after: the launches that had completed when the doorbell was written
under which it was read, and with BARRIER those of all earlier packets of the queue, with those that had completed when its last
WAIT did (R190, R278). DESIGN CHOICE: a WAIT orders nothing without a BARRIER behind it (log 54). -/
def orderPacket (ws : List Word) (x : Queue) : Queue :=
  let x := match x.rung with
    | [] => x
    | r :: rest => { x with ordered := (x.ordered ++ r.2).eraseDups, rung := if x.head = r.1 then rest else x.rung }
  if (pword ws 0).getLsbD 8 then { x with ordered := (x.ordered ++ x.past ++ x.waited).eraseDups } else x

/-- The next packet of a queue starts, or completes at once (R470, R477, R478). -/
def startPacket (s : State) (p q : Nat) : State :=
  if !packetWaits s p q then s
  else
    let x := queueOf s p q
    let index := x.head.toNat
    let words := nextWords s p q
    let ws := words.getD []
    let s := updQueue s p q fun x => orderPacket ws { x with head := x.head + 1, packets := x.packets ++ [{ index := index, words := ws }] }
    if x.stopped then finishPacket s p q index { status := 3 }
    else if words.isNone then finishPacket s p q index { status := 2, cause := 4 }
    else
      let (r, e) := runScript x.script (s.time.extractLsb' 0 32) 256 { regs := List.replicate 16 0, data := x.data, pkt := ws }
      let s := updPacket (updQueue s p q fun x => { x with data := r.data }) p q index fun y => { y with words := r.pkt }
      match e with
      | .drop => finishPacket s p q index { status := 4 }
      | .budget => finishPacket s p q index { status := 5 }
      | .go => startWords s p q index r.pkt

/-- The packet that a queue reads next has this index and this type. -/
def isNext (s : State) (p q index type : Nat) : Bool :=
  (queueOf s p q).head.toNat == index && match nextWords s p q with | some ws => (pword ws 0).toNat % 256 == type | none => false

/-- LAUNCH_PACKET (R470). -/
def execLaunchPacket (part queue index : Nat) (s : State) : Out :=
  .next (if isNext s part queue index 1 then startPacket s part queue else s)

/-- SIGNAL_PACKET (R470). -/
def execSignalPacket (part queue index : Nat) (s : State) : Out :=
  .next (if isNext s part queue index 2 then startPacket s part queue else s)

/-- WAIT_PACKET (R470). -/
def execWaitPacket (part queue index : Nat) (s : State) : Out :=
  .next (if isNext s part queue index 3 then startPacket s part queue else s)

/-- The WAIT packets of a queue that are polling. -/
def waitPackets (s : State) (p q : Nat) : List Packet := (queueOf s p q).packets.filter fun x => (pword x.words 0).toNat % 256 == 3

/-- WAIT_POLL (R470). -/
def execWaitPoll (part queue index : Nat) (s : State) : Out :=
  .next (match (waitPackets s part queue).find? fun x => x.index == index with
    | none => s
    | some x =>
      match pollWait s part queue x.words with
      | some r =>
        let done := match (queueOf s part queue).ctx with | some cx => doneLaunches s cx | none => []
        finishPacket (updQueue s part queue fun x => if r.status = 0 then { x with waited := done } else x) part queue index r
      | none => s)

/-! ### Commands that wait -/

def updCommand (s : State) (p id : Nat) (f : Command → Command) : State :=
  updPart s p fun q => { q with commands := q.commands.map fun c => if c.id = id then f c else c }

/-- The next step of a RESIDENCY command (R429). -/
def stepResidency (s : State) (p : Nat) (c : Command) : Option State :=
  let cx := c.args.getD 0 0
  let t := c.args.getD 1 0
  let ended := c.waits.all fun id => (launch s id).done
  match c.args.getD 2 0 with
  | 0 => if migrating s p cx t then none else some (endCommand s p c {})
  | 1 =>
    if migrating s p cx t then none
    else
      match awayRes s cx (tidOf s cx t) with
      | none => some (endCommand s p c { status := 2, cause := 4 })
      | some r => some (updCommand (updTid s cx t fun e => { e with res := r }) p c.id fun c => { c with args := [cx, t, 2] })
  | _ => if ended then some (endCommand s p c {}) else none

/-- The next step of a waiting command, if it has one; TLB-INVAL and ZERO have events of their own. -/
def stepCommand (s : State) (p : Nat) (c : Command) : Option State :=
  let n := fun k => c.args.getD k 0
  match c.cmd with
  | 1 =>
    if destroyReady s p (n 0) c.queue c.index then some (dropCtx (endCommand (finishDestroy s p (n 0)) p c {}) p (n 0)) else none
  | 6 =>
    if n 5 = 1 || pageReady s (n 0) (BitVec.ofNat 64 (n 4)) then
      match goOnLease s (n 0) (n 1) (n 5 == 1) (n 2) (n 3) with
      | (s, .done r) => some (endCommand s p c r)
      | (s, .waits _ args _) => some (updCommand s p c.id fun c => { c with args := args })
    else none
  | 9 => stepResidency s p c
  | 0x0B =>
    if (part s p).emissions.any fun e => e.session == n 0 then none
    else some (endCommand (writeSession s p (n 0) ((c.args.drop 1).map (BitVec.ofNat 8))) p c {})
  | 0x0D =>
    if drained s p (n 0) c.queue c.index then
      some (updPart (endCommand s p c {}) p fun q => { q with queues := mapDel q.queues (n 0) })
    else none
  | 0x0E => if (graphOf s p (n 0)).walking then none else some (endCommand s p c {})
  | _ => none

/-! ### Page service (R32, R216, R303, R555) -/

/-- Two addresses lie in one 64 KB page. -/
def samePage (a b : Addr) : Bool := a.toNat / 65536 == b.toNat / 65536

/-- The page being serviced is done: the new pair of service and failed pages. -/
def served1 (va : Addr) (ok : Bool) (service : Option Addr) (failed : List Addr) : Option Addr × List Addr :=
  match service with
  | some p => if samePage p va then (none, if ok then failed else failed ++ [p]) else (some p, failed)
  | none => (none, failed)

/-- The operations and slots of a core meet the end of a page's service. -/
def servedCore (cx : Nat) (va : Addr) (ok : Bool) (c : Core) : Core :=
  { c with
    copies := c.copies.map fun o =>
      if o.ctx = cx then let r := served1 va ok o.service o.failed; { o with service := r.1, failed := r.2 } else o
    slots := c.slots.map fun x => (x.1,
      if x.2.ctx = cx then let r := served1 va ok x.2.service x.2.failed; { x.2 with service := r.1, failed := r.2 } else x.2) }

/-- The emissions, the graph nodes and the LEASE commands of a partition meet the end of a page's service. -/
def servedPart (cx : Nat) (va : Addr) (ok : Bool) (p : Part) : Part :=
  { p with
    emissions := p.emissions.map fun e =>
      if (mapGetD p.sessions e.session {}).ctx = cx then
        let r := served1 va ok e.service e.failed; { e with service := r.1, failed := r.2 }
      else e
    graphs := p.graphs.map fun g => (g.1,
      if g.2.ctx = cx then
        { g.2 with nodes := g.2.nodes.map fun d => let r := served1 va ok d.service d.failed; { d with service := r.1, failed := r.2 } }
      else g.2)
    commands := p.commands.map fun c =>
      if c.cmd = 6 && c.args.getD 0 0 == cx && samePage (BitVec.ofNat 64 (c.args.getD 4 0)) va && !ok then
        { c with args := setAt c.args 5 1 }
      else c }

/-- PAGE_SERVICE_DONE: whatever was stopped at the page goes on, or meets the failure. -/
def execPageServiceDone (ctx : Nat) (va : Addr) (ok : Bool) (s : State) : Out :=
  .next (
    let waits := fun (w : Option Addr) => match w with | some p => samePage p va | none => false
    { s with
      cores := s.cores.map fun e => (e.1, servedCore ctx va ok e.2)
      launches := s.launches.map fun e =>
        if e.2.ctx = ctx && waits e.2.leaseWait && !ok then (e.1, { e.2 with leaseSkip := true }) else e
      parts := s.parts.map fun p => (p.1, servedPart ctx va ok p.2) })

/-! ### Scheduler core errors (R479) -/

/-- SCHED_CORE_ERROR: the tables are replayed and every completion and request is delivered once, so nothing changes. -/
def execSchedCoreError (_part _kind : Nat) (s : State) : Out := .next s

end Sys2Proof.Machine
end

