-- ==== Sys2Proof/Machine/Reliability.lean ====
section
/-! DEFINITION. Containment, reliability and observation: replays, restarts, dying lanes, poisoned memory, row sparing,
in-field scan, and the debug page (R44, R133, R360, R493 to R523). -/

namespace Sys2Proof.Machine
open Sys2Proof

/-! ### Illegal encodings (R44) -/

/-- ILLEGAL_INSTRUCTION: KillGroup(ILLEGAL) on the issuing group, whatever the mask. -/
def execIllegalInstruction (s : State) : Out := .next (killGroup s s.who.1 .illegal (pcOf (me s) s.who.2))

/-! ### Who owns what -/

/-- The partition whose clusters hold a logical core. -/
def partOfCore (s : State) (c : Nat) : Option Nat := (s.parts.find? fun p => has p.2.clusters (c / 8)).map (·.1)

/-- The partition that owns a byte of HBM or of the second tier. -/
def partOfPa (s : State) (pa : Nat) : Option Nat := (s.parts.find? fun p => owns s p.1 pa 1).map (·.1)

/-- A trace entry of kinds 10 to 12, which names no group (R516). -/
def tracePart (s : State) (p : Option Nat) (kind : Nat) (data : List Nat) : State :=
  match p with
  | some p => trace s p kind {} data
  | none => s

/-! ### Timing errors (R493, R494) -/

/-- A quad is frozen for two cycles: the beats that remain and the next issue come two cycles later (R51, R79). -/
def stopQuad (q : Quad) : Quad := { q with clk := q.clk + 2, beatEnd := q.beatEnd + 2 }

/-- TIMING_REPLAY: quad 0 to 3 is frozen for two cycles; 4 and 5 are the matrix engines, whose step in progress takes two cycles
longer (R362), and a higher number the copy engine, whose beats have no time here. A seventeenth replay within 1 ms marks the core
for scan. -/
def execTimingReplay (core quad : Nat) (s : State) : Out :=
  .next (
    let s := countEvent s core 2 1
    let s := updCore s core fun c =>
      let near := (c.replays ++ [s.time]).filter fun t => decide ((s.time - t).toNat < 1000000)
      { c with marked := c.marked || decide (16 < near.length), replays := near.drop (near.length - 16) }
    if quad < 4 then updQuad s core quad fun q => stopQuad (settleQuad s.clk.toNat q)
    else if quad < 6 then
      updEng s core (quad - 4) fun ops => ops.map fun o =>
        if o.started && !o.committed && decide (s.clk.toNat + 16 < o.due) then { o with next := o.next + 2, due := o.due + 2 } else o
    else s)

/-! ### Restarts (R495, R496) -/

/-- A stream no longer waits: it leaves the pool and the feeds it waits in. -/
def leaveWaits (s : State) (gid n : Nat) : State :=
  let g := grp s gid
  let s := updPart s (partOf s g) fun p =>
    { p with feeds := p.feeds.map fun f => (f.1, { f.2 with sleepers := f.2.sleepers.filter fun x => !(x.1 == gid && x.2.1 == .split n) }) }
  pruneRacq (updGrp s gid fun g => setWait g (.split n) none) gid

/-- A result of the split that has not been written. -/
def flyOf (n : Nat) (f : Fly) : Bool := f.w.stream == .split n

/-- The restart of a split. -/
def restartSplit (s : State) (gid n : Nat) : State :=
  let s := leaveWaits s gid n
  updGrp s gid fun g =>
    updSplit (returnHeld { g with fly := g.fly.filter fun f => !flyOf n f }) n fun p =>
      { p with pc := p.restart, first := p.marked, tries := p.tries + 1 }

/-- CHECK_RESTART: the split restarts, or its member lanes die. -/
def execCheckRestart (group split : Nat) (s : State) : Out :=
  .next (
    let g := grp s group
    match mapGet g.splits split with
    | none => s
    | some p =>
      if g.state ≠ .running ∨ !g.resident then s
      else if !p.restartable || decide (4 ≤ p.tries) then laneDeath s group p.members 3
      else
        let s := restartSplit s group split
        countEvent (traceGroup s group 7 (some split) none [p.restart.toNat]) (coreOf s g) 3 1)

/-! ### Register files (R133) -/

/-- The lanes of a beat. -/
def beatLanes (j : Nat) : Lanes := setBeat 0 j 0xFFFFFFFF

/-- The bytes of a beat's code word that lane i owns (R132): of bytes 0 to 127; the check bytes, 128 to 135, are no lane's. -/
def ownBytes (i : Nat) : BitVec 136 := 0xF#136 <<< (4 * (i % 32))

/-- The number of bytes of a set. -/
def countBytes (e : BitVec 136) : Nat := (List.range 136).countP e.getLsbD

/-- The error is corrected without an erasure: the check bytes of the (136,128) code correct four bytes (R132, R133). -/
def correctable (e : BitVec 136) : Bool := decide (countBytes e ≤ 4)

/-- The lanes of a beat whose erasure yields a code word: those outside whose bytes at most two bytes are in error, and those
whose erasure happens to yield another one (R133). -/
def erasable (beat : Nat) (e : BitVec 136) (chance : Lanes) : Lanes :=
  (List.range 32).foldl (fun m i => if countBytes (e &&& ~~~ ownBytes i) ≤ 2 then m ||| laneBit (32 * beat + i) else m)
    (chance &&& beatLanes beat)

/-- The pass over a beat of register `reg`: the one lane that is erasable dies, and the beat is written back as the code word found,
or every lane of the beat dies (R133). -/
def erased (reg beat : Nat) (e : BitVec 136) (chance : Lanes) : Pass :=
  let one := erasable beat e chance
  if (lanesOf one).length = 1 then { reg := reg, beat := beat, lanes := one, other := erasable beat e 0 == 0 }
  else { reg := reg, beat := beat, lanes := beatLanes beat }

/-- A code word of the group's registers may be read: by an instruction, by the merge of a partial write, or by the save engine
of a stopped group (R133). -/
def wordRead (g : Group) : Bool :=
  g.resident && match g.state with | .running => true | .stopped .. => true | _ => false

/-- RF_UNCORRECTABLE: a code word has been read with the bytes `lanes.err` in error. An error of at most four bytes is corrected at
once; else the 96-cycle pass begins, through which the group's splits do not issue (R133). DESIGN CHOICE: a second error that is
found while a pass of the group runs is not acted on; the manual does not say (log 48). -/
def execRfUncorrectable (group reg beat : Nat) (lanes : WordError) (s : State) : Out :=
  .next (
    let g := grp s group
    if !wordRead g ∨ g.pass.isSome ∨ topReg g ≤ reg ∨ 3 ≤ beat ∨ correctable lanes.err then s
    else updGrp s group fun g => { g with pass := some { erased reg beat lanes.err lanes.chance with due := s.clk.toNat + 96 } })

/-- A lane that has exited and is erased is dead from then on and reads as zero. DESIGN CHOICE: it is no casualty, since its work
item has ended (log 48). -/
def eraseExited (g : Group) (ls : Lanes) : Group :=
  let ls := ls &&& g.exited
  { g with dead := g.dead ||| ls, vregs := g.vregs.filter fun e => !ls.getLsbD (e.1 % 96) }

/-- The beat holds the code word that the erasure yielded: where it is another one than was written, its values are free. -/
def writeFound (s : State) (gid : Nat) (p : Pass) : State :=
  if p.other then
    updGrp { s with fresh := s.fresh + 96 } gid fun g => putV g p.reg (beatLanes p.beat) fun i => Config.freeWord (s.fresh + i)
  else s

/-- RF_PASS_DONE: after the 96 cycles its lanes die, with their values zero. The access that found the error goes on: an
instruction issues again with Active(g) as it is now, a merge is complete in the living lanes, and the save engine writes its
image with the dead lanes' values zero (R133). -/
def execRfPassDone (group : Nat) (s : State) : Out :=
  .next (match (grp s group).pass with
    | none => s
    | some p =>
      if s.clk.toNat < p.due then s
      else
        let s := writeFound (updGrp s group fun g => eraseExited { g with pass := none } p.lanes) group p
        let s := laneDeath s group p.lanes 1
        if (grp s group).image.isSome then writeImage s group else s)

/-! ### Address slices, matrix engines, accumulators (R360, R497) -/

/-- ADDR_SLICE_CHECK_FAIL. -/
def execAddrSliceCheckFail (group : Nat) (s : State) : Out :=
  .next (
    let g := grp s group
    if g.state = .gone ∨ g.aslice.isNone then s else laneDeath s group (livingLanes g) 5)

/-- The state after a meaning that gives one. -/
def after (o : Out) (s : State) : State :=
  match o with
  | .next t => t
  | _ => s

/-- MATRIX_CHECK_FAIL: the operation in whose step the check failed begins again; a failure in the commit poisons the rows
that the operation writes. -/
def execMatrixCheckFail (core eng : Nat) (commit : Bool) (s : State) : Out :=
  .next (match (if commit then engHead s core eng else engLast s core eng) with
    | none => s
    | some o =>
      if !o.started then s
      else if commit then
        let t := after (execMatrixCommit core eng s) s
        let writes := match o.drain with | some d => d.zero | none => true
        if writes then updTeam t (grp s o.group).team fun k => { k with accPoison := markRows k.accPoison eng o.row o.rows true } else t
      else
        updEng s core eng fun ops => ops.map fun x => if x.id = o.id then { x with started := false, acc := [], accBad := [], ready := s.clk.toNat } else x)

/-- ACC_ROW_ERROR: `row` counts the team's own rows (R354). -/
def execAccRowError (team eng row : Nat) (s : State) : Out :=
  .next (
    let t := Machine.team s team
    if t.placed && decide (eng < 2) && decide (row < t.accn) then
      updTeam s team fun t => { t with accPoison := markRows t.accPoison eng row 1 true }
    else s)

/-! ### Device memory (R503 to R507) -/

/-- Spares of a bank that have not been used or marked bad. -/
def freeSpares (s : State) (bank : Nat) : List Nat :=
  (List.range 16).filter fun k => !s.spares.any fun x => x.bank == bank && x.spare == k

/-- The entry of a row that is being copied to a spare. -/
def copying (bank row : Nat) (x : Spare) : Bool := x.bank == bank && x.row == row && !x.bad && !x.serving

/-- The copy of a row into the next free spare begins, after `badReads` others have failed their read-back. Without a spare the page of
the row's byte `pa` is to be retired (R505 to R507). -/
def newSpare (s : State) (bank row badReads pa : Nat) : State :=
  let free := freeSpares s bank
  let bad := (free.take badReads).map fun k => ({ bank := bank, row := row, spare := k, serving := false, bad := true, pa := pa } : Spare)
  let s := { s with spares := s.spares ++ bad }
  match (free.drop badReads).head? with
  | some k => { s with spares := s.spares ++ [{ bank := bank, row := row, spare := k, serving := false, pa := pa }] }
  | none =>
    match partOfPa s pa with
    | none => s
    | some p =>
      let s := { s with retire := addTo s.retire (pa / 0x200000), interrupts := s.interrupts ++ [.systemAll p 1] }
      trace s p 11 {} [pa]

/-- ROW_SPARE_START: a row is spared, be it served by a spare already; where it is being copied, a read-back that fails starts the copy
again. -/
def execRowSpareStart (bank row badReads pa : Nat) (s : State) : Out :=
  .next (
    if !s.spares.any (copying bank row) then newSpare s bank row badReads pa
    else if badReads = 0 then s
    else
      newSpare { s with spares := s.spares.map fun x => if copying bank row x then { x with bad := true } else x } bank row (badReads - 1) pa)

/-- HBM_UNCORRECTABLE: the sector is poisoned, and its row is spared (R503, R505). -/
def execHbmUncorrectable (pa : Nat) (s : State) : Out :=
  .next (
    if regionOf s pa = .hbm then
      let s := tracePart (poisonSector s (pa / 32)) (partOfPa s pa) 12 [pa]
      let (bank, row) := Config.rowOf pa
      if s.spares.any (copying bank row) then s else newSpare s bank row 0 pa
    else s)

/-- SCRUB_PASS: corrected sectors are written back unchanged; an uncorrectable one is HBM_UNCORRECTABLE's. -/
def execScrubPass (s : State) : Out := .next s

/-- The copied spare of a row serves from now on, and the one that served before no more. -/
def nowServes (bank row : Nat) (x : Spare) : Spare :=
  if copying bank row x then { x with serving := true }
  else if x.bank = bank ∧ x.row = row then { x with serving := false, bad := true }
  else x

/-- ROW_SPARE_DONE: the spare serves, with the row's bytes and marks, so no access observes it; one that served before is done with. -/
def execRowSpareDone (bank row : Nat) (s : State) : Out :=
  .next (
    match s.spares.find? (copying bank row) with
    | none => s
    | some x =>
      tracePart { s with spares := s.spares.map (nowServes bank row) } (partOfPa s x.pa) 11 [bank])

/-! ### In-field scan (R508 to R510) -/

/-- A core that a scan may choose: it holds no team, no phase, no stopped group, no operation and no pinned estate. -/
def idleCore (s : State) (c : Nat) : Bool :=
  let k := core s c
  coreOpen s c && (placedOn s c).isEmpty && k.paddock.isEmpty && k.copies.isEmpty && k.eng0.isEmpty && k.eng1.isEmpty
    && k.slots.all (fun x => x.2.st != .loading)
    && !(s.ctxs.any fun x => x.2.estates.any fun e => e.core == some c && (e.pinned || e.moving))

/-- Writes an estate out of a Hayloft that is drained; without a line in its area it is stored LOST and counted (R187). -/
def drainEstate (c cx : Nat) (s : State) (e : Estate) : State :=
  if (estateSlot (ctx s cx)).isSome then writeOutEstate s c cx e
  else
    let s := updEstate s cx e fun e => { e with core := none, lost := true }
    updLaunch s e.launch fun l => { l with lost := l.lost + 1 }

/-- Writes out every estate of a core, oldest first. -/
def drainHayloft (s : State) (c : Nat) : State :=
  (sortBy (fun (a b : Nat × Estate) => decide (a.2.stamp ≤ b.2.stamp))
    (s.ctxs.flatMap fun x => (x.2.estates.filter fun e => e.core == some c).map fun e => (x.1, e))).foldl
    (fun s x => drainEstate c x.1 s x.2) s

/-- CORE_SCAN_START. -/
def execCoreScanStart (core : Nat) (s : State) : Out :=
  .next (
    if idleCore s core then
      updCore (drainHayloft s core) core fun k => { k with slots := [], scanning := true, scanDue := true, scanFails := 0 }
    else s)

/-- An entry of the run list could place a span, or restore its team, on a core if that were not being scanned (R509). -/
def couldUse (s : State) (c : Nat) (e : RunEntry) : Bool :=
  let s := updCore s c fun k => { k with scanning := false }
  match e with
  | .launch id =>
    match nextSpan (launch s id) with
    | none => false
    | some k =>
      decide (spanBars s (c / 8) + (launch s id).kernel.nsbar ≤ 16) && (fits s c (freshDemand (launch s id))).isSome
        && (assignCores s id (c :: (clusterCores (c / 8)).filter (· != c)) (spanLins (launch s id) k)).isSome
  | .team tid => spanAllows s (team s tid) (c / 8) && (fits s c (savedDemand s (team s tid))).isSome

/-- A launch of the partition could use a core. -/
def wanted (s : State) (p c : Nat) : Bool := (part s p).runlist.any (couldUse s c)

/-- A scan that a launch aborts (R509): the core. -/
def scanInTheWay (s : State) (p : Nat) : Option Nat :=
  (s.cores.find? fun c => c.2.scanning && has (part s p).clusters (c.1 / 8) && wanted s p c.1).map (·.1)

/-- A core is to be scanned at its next idle point: it is marked, a scan of it was aborted, or none has passed for half of the 24 h
that R508 allows. DESIGN CHOICE: the half (log 59). -/
def scanAsked (s : State) (k : Core) : Bool := k.marked || k.scanDue || decide (43200000000000 ≤ (s.time - k.scanned).toNat)

/-- A core of the partition at an idle point at which it is scanned (R494, R508, R509): no launch could use it. -/
def scanNow (s : State) (p : Nat) : Option Nat :=
  (s.cores.find? fun c =>
    has (part s p).clusters (c.1 / 8) && !c.2.scanning && scanAsked s c.2 && idleCore s c.1 && !wanted s p c.1).map (·.1)

/-- SCAN_ABORT: the core is left drained and its resources free. -/
def execScanAbort (core : Nat) (s : State) : Out :=
  .next (
    if (Machine.core s core).scanning then
      tracePart (updCore s core fun k => { k with scanning := false, scanFails := 0 }) (partOfCore s core) 10 [core]
    else s)

/-- The physical cluster of a die that is home to no logical cluster (R14). -/
def spareCluster (s : State) (die : Nat) : Nat :=
  ((List.range 13).find? fun k => !has ((s.homes.drop (12 * die)).take 12) k).getD 12

/-- The next spare core of a die: neither mapped nor marked bad (R16, R510). DESIGN CHOICE: of several, the one with the
lowest physical core number; the manual gives no order (log 54). -/
def nextSpare (s : State) (die : Nat) : Option CoreMap :=
  let cl := spareCluster s die
  ((List.range 8).find? fun k =>
    !(s.coreMap.any fun e => e.2.die == die && e.2.cluster == cl && e.2.core == k) && !(s.badSpares.any fun b => b == (die, cl, k))).map
    fun k => { die := die, cluster := cl, core := k, offline := false }

/-- A Map entry of the core map record (R14). -/
def mapEntry (m : CoreMap) : Nat :=
  m.die * 2 ^ 14 + m.cluster * 2 ^ 10 + m.core * 2 ^ 7 + (if m.offline then 1 else 0)

/-- The core map record of the map in use (R14). -/
def mapBytes (s : State) : List Byte :=
  let body := leBytes 0x564A434D 4 ++ leBytes s.mapSeq 4
    ++ (List.range 384).flatMap (fun n =>
        leBytes (mapEntry (mapGetD s.coreMap n { die := n / 96, cluster := 0, core := 0, offline := false })) 2)
    ++ (List.range 48).flatMap (fun k => leBytes (s.homes.getD k 0 % 16) 1)
  body ++ leBytes (Config.signMap body).toNat 96

/-- Writes a new core map record with the next sequence. DESIGN CHOICE: over the copy that is not in use (log 54). -/
def writeMap (s : State) : State :=
  let s := { s with mapSeq := (s.mapSeq + 1) % 2 ^ 32, mapCopy := 1 - s.mapCopy }
  { s with mapFlash := mapPut s.mapFlash s.mapCopy (mapBytes s) }

/-- Retires the physical core behind a logical core: the next spare takes its place and is scanned in its turn, or the
logical core is offline; the core map record is rewritten (R16, R510). DESIGN CHOICE: a spare begins with the L1 lines, the
translations, the stochastic counts and the replay times of the core that it replaces; the manual does not say (log 54). -/
def retireCore (s : State) (c : Nat) : State :=
  let m := mapGetD s.coreMap c { die := c / 96, cluster := 0, core := 0, offline := false }
  let s := { s with badSpares := s.badSpares ++ [(m.die, m.cluster, m.core)] }
  let s := match nextSpare s m.die with
    | some x => updCore { s with coreMap := mapPut s.coreMap c x } c fun k => { k with scanFails := 0 }
    | none =>
      updCore { s with coreMap := mapPut s.coreMap c { m with offline := true } } c fun k =>
        { k with scanning := false, marked := false, scanDue := false, scanFails := 0, offline := true }
  let s := writeMap s
  tracePart s (partOfCore s c) 11 [c]

/-- SCAN_DONE: a pass releases the core; a mismatch has the scan repeated, and a second one retires the core. -/
def execScanDone (core : Nat) (ok : Bool) (s : State) : Out :=
  .next (
    let k := Machine.core s core
    if !k.scanning then s
    else
      let s := tracePart s (partOfCore s core) 10 [core]
      if ok then updCore s core fun k =>
        { k with scanning := false, marked := false, scanDue := false, scanned := s.time, scanFails := 0 }
      else if k.scanFails = 0 then updCore s core fun k => { k with scanFails := 1 }
      else retireCore s core)

/-! ### Samples, watches and the replay log (R517, R518, R521) -/

/-- A core's sample: the split that issued in this cycle on its lowest quad that issued, or the core alone. -/
def sampleCore (p c : Nat) (s : State) : State :=
  let k := core s c
  match k.quads.findSome? fun q => if q.2.lastAt = s.clk.toNat + 1 then q.2.last.map fun x => (x, q.2.lastPc) else none with
  | some ((gid, n), pc) => traceGroup s gid 8 (some n) none [pc.toNat]
  | none => trace s p 8 {} [c]

/-- TRACE_SAMPLE. -/
def execTraceSample (part : Nat) (s : State) : Out :=
  .next (
    let q := Machine.part s part
    if q.tctl.getLsbD 0 && q.tctl.getLsbD 1 then
      ((s.cores.filter fun c => has q.clusters (c.1 / 8) && c.2.released && !c.2.offline).map (·.1)).foldl (fun s c => sampleCore part c s) s
    else s)

/-- WATCH_REPORT. -/
def execWatchReport (part watch pa cls peer bytes group : Nat) (s : State) : Out :=
  .next (trace s part 9 (if cls < 2 && group != 0 then { gid := some group } else {}) [pa, cls + 256 * peer + 65536 * watch, bytes])

/-- REPLAY_LOG_RECORD: system core `sys` logs an event of a kind after `retired` instructions. -/
def execReplayLogRecord (part : Nat) (retired : Addr) (sys kind len : Nat) (value : Addr) (s : State) : Out :=
  .next (
    let q := Machine.part s part
    if q.rctl.getLsbD 0 then
      let slots := 2 ^ (q.rctl.toNat / 2 ^ 16 % 32)
      let bs := leBytes retired.toNat 8 ++ leBytes sys 1 ++ leBytes kind 1 ++ leBytes len 2 ++ List.replicate 4 0 ++ leBytes value.toNat 8
        ++ leBytes s.time.toNat 8
      updPart (homePut s (q.rbase.toNat + 32 * (q.rnext.toNat % slots)) bs) part fun q => { q with rnext := q.rnext + 1 }
    else s)

/-! ### The debug page (R511, R522, R523) -/

/-- The partition's counter j of logical core n. -/
def updPcnt (s : State) (p c j : Nat) (f : Pcnt → Pcnt) : State :=
  if has (part s p).clusters (c / 8) && decide (j < 8) then
    updPart s p fun q => { q with pcnts := mapPut q.pcnts (8 * c + j) (f (mapGetD q.pcnts (8 * c + j) {})) }
  else s

/-- The increments of a counter in this cycle. -/
def pcntIncs (s : State) (x : Pcnt) : Nat := if x.incAt = s.clk.toNat + 1 then x.incs else 0

/-- A write of PCNT reprograms the counter, its count and its overflow flag; increments of the same cycle apply after it (R436). -/
def writePcnt (s : State) (p c j : Nat) (v : Addr) : State :=
  updPcnt s p c j fun x => { x with count := (v.toNat + pcntIncs s x) % 2 ^ 48, ovf := false, setAt := s.clk.toNat + 1 }

/-- What a read of PCNT gives: the count before any increment of the same cycle, and the overflow flag (R511, R523). -/
def readPcnt (s : State) (x : Pcnt) : Addr :=
  BitVec.ofNat 64 ((x.count + (2 ^ 48 - pcntIncs s x % 2 ^ 48)) % 2 ^ 48 + (if x.ovf then 2 ^ 63 else 0))

/-- PCNT_WRITE. -/
def execPcntWrite (part core idx : Nat) (value : Addr) (s : State) : Out := .next (writePcnt s part core idx value)

/-- A register of a watchpoint. -/
def writeWatch (w : Watch) (off : Nat) (v : Addr) : Watch :=
  match off with
  | 0x00 => { w with base := v &&& 0xFFFFFFFFFFFFFFC0 }
  | 0x08 => { w with len := v.extractLsb' 0 32 }
  | 0x0C => { w with ctx := v.extractLsb' 0 32 }
  | _ => { w with ctl := v.extractLsb' 0 32 &&& 0xF }

/-- A write at an offset of the debug page; TNEXT, RNEXT and offsets not listed ignore it. -/
def writeDebug (s : State) (p off : Nat) (v : Addr) : State :=
  let w := v.extractLsb' 0 32
  if off < 0x80 then
    if off % 32 = 0 ∨ off % 32 = 8 ∨ off % 32 = 12 ∨ off % 32 = 16 then
      updPart s p fun q => { q with watches := mapPut q.watches (off / 32) (writeWatch (mapGetD q.watches (off / 32) {}) (off % 32) v) }
    else s
  else if off = 0x1000 then updPart s p fun q => { q with tbase := v &&& 0xFFFFFFFFFFFFFFC0 }
  else if off = 0x1008 then updPart s p fun q => { q with tctl := w &&& 0x1F1F03 }
  else if off = 0x1020 then updPart s p fun q => { q with rbase := v &&& 0xFFFFFFFFFFFFFFC0 }
  else if off = 0x1028 then updPart s p fun q => { q with rctl := w &&& 0x1F0003 }
  else if 0x2000 ≤ off ∧ off < 0xE000 then
    let n := (off - 0x2000) / 128
    let r := (off - 0x2000) % 128
    if r < 64 then (if r % 8 = 0 then writePcnt s p n (r / 8) v else s)
    else if r < 96 ∧ r % 4 = 0 then updPcnt s p n ((r - 64) / 4) fun x => { x with sel := w &&& 0x800000FF }
    else s
  else s

/-- What a read at an offset of the debug page gives: zero at offsets not listed and for the counters of foreign cores (R511). -/
def debugRead (s : State) (p off : Nat) : Addr :=
  let q := part s p
  if off < 0x80 then
    let w := mapGetD q.watches (off / 32) {}
    match off % 32 with
    | 0 => w.base
    | 8 => w.len.setWidth 64
    | 12 => w.ctx.setWidth 64
    | 16 => w.ctl.setWidth 64
    | _ => 0
  else
    match off with
    | 0x1000 => q.tbase
    | 0x1008 => q.tctl.setWidth 64
    | 0x100C => q.tnext.setWidth 64
    | 0x1020 => q.rbase
    | 0x1028 => q.rctl.setWidth 64
    | 0x102C => q.rnext.setWidth 64
    | _ =>
      let n := (off - 0x2000) / 128
      let r := (off - 0x2000) % 128
      if off < 0x2000 ∨ 0xE000 ≤ off ∨ !has q.clusters (n / 8) then 0
      else if r < 64 then (if r % 8 = 0 then readPcnt s (mapGetD q.pcnts (8 * n + r / 8) {}) else 0)
      else if r < 96 ∧ r % 4 = 0 then (mapGetD q.pcnts (8 * n + (r - 64) / 4) {}).sel.setWidth 64
      else 0

/-- REGISTER_WRITE (R511): `reg` is an offset of the debug page. -/
def execRegisterWrite (part reg : Nat) (value : Addr) (s : State) : Out := .next (writeDebug s part reg value)

end Sys2Proof.Machine
end

