-- ==== Sys2Proof/Machine/Outside.lean ====
section
/-! DEFINITION. The outside world: host port, second tier, links, the start of the part and of a partition, attestation,
power and cooling (R15, R22, R24, R458, R469, R524 to R543). -/

namespace Sys2Proof.Machine
open Sys2Proof

/-! ### Host port (R525 to R527) -/

/-- A range of a partition's HBM share, by offset; none where the function takes no request. -/
def shareRange (s : State) (p off n : Nat) : Option Nat :=
  let q := part s p
  if s.hostUp && q.running && decide (off + n ≤ q.hbmSize) then some (q.hbmBase + off) else none

/-- The first byte of the host window (R244). -/
def hostWindow : Nat := 0xC0000000000

/-- HOST_WRITE: performed at the home; every clean copy of its lines is invalidated, dirty bytes stay. PF0 has no BAR2; and where the
host writes its own memory, the device reads it there (R527). -/
def execHostWrite (fn : HostFn) (off : Nat) (bytes : List Byte) (s : State) : Out :=
  .next (match fn with
    | .part p =>
      match shareRange s p off bytes.length with
      | some pa => dropCleanRange (homeWrite s pa bytes { cls := 4 }) pa bytes.length
      | none => s
    | .memory => if off + bytes.length ≤ 2 ^ 42 then { s with mem := setBytes s.mem (hostWindow + off) bytes } else s
    | .pf0 => s)

/-- Bytes as an agent that no rule kills reads them: a byte of a poisoned sector is a free value (log 4). -/
def outsideRead (s : State) (pa n : Nat) : State × List Byte :=
  if poisoned s pa n then
    ({ s with fresh := s.fresh + n }, (List.range n).map fun i =>
      if poisoned s (pa + i) 1 then Config.freeByte (s.fresh + i) else (homeRead s (pa + i) 1).headD 0)
  else (s, homeRead s pa n)

/-- What a read of the control page gives: HEAD of a queue in its doorbell, zero elsewhere (R459). -/
def controlRead (s : State) (p off : Nat) : Addr :=
  if off < 0x1000 ∧ off % 8 = 0 ∧ (queueOf s p (off / 8)).created then (queueOf s p (off / 8)).head.setWidth 64 else 0

/-- The bytes of a boot journal entry before its CHECK (R539). -/
def journalBody (e : Journal) : List Byte :=
  leBytes e.seq 4 ++ leBytes e.step 1 ++ leBytes e.part 1 ++ leBytes e.outcome 1 ++ leBytes e.slot 1 ++ leBytes e.time.toNat 8
    ++ leBytes e.code 4 ++ List.replicate 8 0

/-- The 32 bytes of an entry. -/
def journalBytes (e : Journal) : List Byte := journalBody e ++ leBytes e.check.toNat 4

/-- The entry's CHECK is right. -/
def Journal.valid (e : Journal) : Bool := e.check == crc32 (journalBody e)

/-- PF0's status page (R525). DESIGN CHOICE: the journal is read out there, entry by entry from offset 0x1000 on; what else the page
shows is not said, so its other bytes are free values (log 61). -/
def statusPage (s : State) (off n : Nat) : List Byte :=
  let js := s.journal.flatMap journalBytes
  (List.range n).map fun i =>
    if 0x1000 ≤ off + i ∧ off + i < 0x1000 + js.length then js.getD (off + i - 0x1000) 0 else Config.freeByte (s.fresh + i)

/-- A response of the host port. -/
def answer (s : State) (bs : List Byte) : State := { s with responses := s.responses ++ [.hostRead bs] }

/-- HOST_READ: BAR0's control page, 8 bytes; BAR2's share; PF0's status page; or the host's own memory, where the device has written
it. -/
def execHostRead (fn : HostFn) (bar off size : Nat) (s : State) : Out :=
  .next (match fn with
    | .part p =>
      if bar = 0 then
        if s.hostUp && (Machine.part s p).running then answer s (leBytes (controlRead s p off).toNat 8) else s
      else
        match shareRange s p off size with
        | some pa => let (s, bs) := outsideRead s pa size; answer s bs
        | none => s
    | .memory => if off + size ≤ 2 ^ 42 then (let (s, bs) := outsideRead s (hostWindow + off) size; answer s bs) else s
    | .pf0 => if bar = 0 ∧ s.hostUp ∧ off + size ≤ 0x10000 then answer { s with fresh := s.fresh + size } (statusPage s off size) else s)

/-- The peer device of an address of an aperture. -/
def peerOf (s : State) (pa : Nat) : List Nat := match regionOf s pa with | .peer d => [d] | _ => []

/-- HOST_REQUEST_ERROR: the next request to this sector of host or peer memory completes with an error (R527, R532). -/
def execHostRequestError (part pa : Nat) (s : State) : Out :=
  .next (match regionOf s pa with
    | .host | .peer _ => trace { s with hostErr := addTo s.hostErr (pa / 32) } part 12 {} (pa :: peerOf s pa)
    | _ => s)

/-! ### Second tier (R529, R530) -/

/-- The running partitions. -/
def runningParts (s : State) : List Nat := (s.parts.filter fun p => p.2.running).map (·.1)

/-- TIER_LINK_DOWN. -/
def execTierLinkDown (port : Nat) (s : State) : Out :=
  .next (
    let s := { s with tierDown := addTo s.tierDown port }
    (runningParts s).foldl
      (fun s p => trace { s with interrupts := s.interrupts ++ [.systemAll p 2] } p 12 {}
        [0x10000000000 + 4096 * (s.tierPorts.idxOf? port).getD 0]) s)

/-- TIER_LINK_UP: sectors already poisoned stay so. -/
def execTierLinkUp (port : Nat) (s : State) : Out := .next { s with tierDown := without s.tierDown port }

/-- TIER_POISON_REPORT. -/
def execTierPoisonReport (pa : Nat) (s : State) : Out :=
  .next (if regionOf s pa = .tier then tracePart (poisonSector s (pa / 32)) (partOfPa s pa) 12 [pa] else s)

/-! ### Milca Link (R531 to R533) -/

/-- Collectives whose set holds a peer end now, with what has been written (R315). -/
def endCollectives (s : State) (peer : Nat) : State :=
  { s with cores := s.cores.map fun e => (e.1, { e.2 with
      copies := e.2.copies.map fun o =>
        if o.coll && has (setOf s o) peer && o.arrived.isNone then { o with arrived := some { bytes := [] } } else o }) }

/-- The entries of an operand queue whose loads have not returned from a peer are filled with poison in those lanes (R331, R533). -/
def failEntry (peer : Nat) (x : QEntry) : QEntry :=
  match mapGet x.far peer with
  | none => x
  | some lanes =>
    if x.pending then
      { x with far := mapDel x.far peer, poison := x.poison ||| lanes, vals := x.vals.filter fun v => !lanes.getLsbD v.1 }
    else x

/-- The loads and atomics of a group that have not returned from a peer return poisoned data (R533): their lanes die (R258). -/
def failReads (peer : Nat) (s : State) (e : Nat × Group) : State :=
  let dead := e.2.pend.foldl (fun m p => m ||| mapGetD p.far peer 0) 0
  let s := updGrp s e.1 fun g => { g with q := g.q.map fun q => (q.1, q.2.map (failEntry peer)) }
  if dead = 0 then s
  else
    let fail := fun (p : Pend) =>
      match mapGet p.far peer with
      | none => p
      | some lanes =>
        { p with
          far := mapDel p.far peer
          writes := (p.writes.filter (·.isV)).map fun w => { w with mask := w.mask &&& ~~~ lanes } }
    laneDeath (updGrp s e.1 fun g => { g with pend := g.pend.map fail }) e.1 dead 2

/-- What the loss of the last path to a peer does: its collectives and its reads in flight fail (R533); later accesses trap. -/
def losePeer (s : State) (peer : Nat) : State := let s := endCollectives s peer; s.groups.foldl (failReads peer) s

/-- Paths are gone: the peers that no port reaches any more are lost (R531). -/
def losePaths (s t : State) : State := ((s.paths.map (·.1)).filter fun d => s.reaches d && !t.reaches d).foldl losePeer t

/-- MILCA_PORT_FAIL: flits are resent on the remaining ports. -/
def execMilcaPortFail (port : Nat) (s : State) : Out := .next (losePaths s { s with ports := s.ports &&& ~~~ (1#12 <<< port) })

/-- PEER_UNREACHABLE: beyond the part's own ports the last path to the peer is gone, so no port reaches it. -/
def execPeerUnreachable (peer : Nat) (s : State) : Out := .next (losePaths s { s with paths := mapDel s.paths peer })

/-- PEER_REACHABLE: a path to a peer exists over some ports, of which one works. -/
def execPeerReachable (path : Nat × BitVec 12) (s : State) : Out :=
  .next (
    let (peer, via) := path
    if via &&& s.ports = 0 ∨ peer = s.device ∨ 512 ≤ peer then s
    else { s with paths := mapPut s.paths peer (mapGetD s.paths peer 0 ||| via) })

/-- PEER_REQUEST: partition `sender` of a peer reads, writes or operates on as many bytes as `bytes` has. It is accepted where the
reach entry of `part` for the peer names the sender, and the bytes lie in the HBM share of `part`. An ATOM is performed at the home
slice, unless its line is poisoned (R267). -/
def execPeerRequest (peer sender part pa : Nat) (op : PeerOp) (bytes : List Byte) (s : State) : Out :=
  .next (
    let q := Machine.part s part
    let n := bytes.length
    let ok := q.running && mapGet q.reach peer == some sender && decide (q.hbmBase ≤ pa) && decide (pa + n ≤ q.hbmBase + q.hbmSize)
    let tell := fun (s : State) (r : Response) => { s with responses := s.responses ++ [r] }
    if !ok then tell s (.peerError peer)
    else
      match op with
      | .read => let (s, bs) := outsideRead s pa n; tell s (.peerRead peer bs)
      | .write => tell (homeWrite s pa bytes { cls := 5, peer := peer }) (.peerDone peer)
      | .atom k signed v c =>
        if poisoned s pa n then let (s, bs) := outsideRead s pa n; tell s (.peerRead peer bs)
        else
          let old := homeRead s pa n
          let new := atomNew k signed (decide (n = 8)) (BitVec.ofNat 64 (leNat old)) v c
          tell (homeWrite s pa (leBytes new.toNat n) { cls := 5, peer := peer }) (.peerRead peer old))

/-! ### The start of the part (R15, R529, R535 to R540) -/

/-- An extension of measurement register k (R537). -/
def extend (s : State) (k : Nat) (d : BitVec 384) : State :=
  { s with meas := cellSet s.meas k (sha384 (digestBytes (cellGet s.meas k) ++ digestBytes d)) }

/-- Writes a boot journal entry, its CHECK last (R539). How long the step has taken, and the cause of a failure, are free values (logs 4
and 45). -/
def journal (s : State) (step p outcome slot : Nat) : State :=
  let time := s.time + (Config.freeWord s.fresh).setWidth 64
  let e : Journal :=
    { seq := s.attempt, step := step, part := p, outcome := outcome, slot := slot, time := time
      code := if outcome = 1 then (Config.freeWord (s.fresh + 1)).toNat else 0 }
  { s with journal := s.journal ++ [{ e with check := crc32 (journalBody e) }], time := time, fresh := s.fresh + 2 }

/-- A step of a partition in the order of the sequence: steps 1 to 8, then 9 for each partition. -/
def stepRank (step p : Nat) : Nat := if step < 9 then step else 9 + p

/-- The step failed on the last attempt, or was not reached although an earlier step has an entry (R540). -/
def stepAltered (old : List Journal) (step p : Nat) : Bool :=
  let mine := old.filter fun e => e.step == step && e.part == p
  mine.any (fun e => e.outcome == 1)
    || (mine.isEmpty && old.any fun e => decide (stepRank e.step e.part < stepRank step p))

/-- The image is accepted: the root key is the one whose hash is in ROM, the certificate of the image's key and the signature over its
header and bytes verify, and its version is not below the minimum (R536). DESIGN CHOICE: the certificate is the signature of the key's
96 bytes (log 60). -/
def accepts (s : State) (min : Nat) (i : Image) : Bool :=
  sha384 (beBytes i.root.toNat 96) == s.rootHash && ecdsaVerifies i.root (sha384 (beBytes i.key.toNat 96)) i.keySig
    && ecdsaVerifies i.key (sha384 i.bytes) i.sig && decide (min ≤ i.version)

/-- Steps 1, 4, 8 and 9: an image from slot A, or from slot B after a failure or at once. True where one runs. -/
def imageStep (old : List Journal) (s : State) (step p reg min : Nat) (x : Image × Image) : State × Bool :=
  let run := fun (s : State) (i : Image) (outcome slot : Nat) => (journal (extend s reg (sha384 i.bytes)) step p outcome slot, true)
  let b := fun (s : State) (outcome : Nat) => if accepts s min x.2 then run s x.2 outcome 1 else (journal s step p 1 1, false)
  if stepAltered old step p then b s 0
  else if accepts s min x.1 then run s x.1 0 0
  else b (journal s step p 1 0) 3

/-! #### The core map record (R11 to R16) -/

/-- A Map entry as R14 packs it. -/
def readEntry (v : Nat) : CoreMap :=
  { die := v / 2 ^ 14 % 4, cluster := v / 2 ^ 10 % 16, core := v / 2 ^ 7 % 8, offline := v.testBit 0 }

/-- The 16-bit little-endian entries of bytes. -/
def pairsLe : List Byte → List Nat
  | a :: b :: rest => (a.toNat + 256 * b.toNat) :: pairsLe rest
  | _ => []

/-- Adds a number to a set of numbers kept as bits, none if it is there already. -/
def addOnce (m : Option Nat) (k : Nat) : Option Nat := m.bind fun m => if m.testBit k then none else some (m + 2 ^ k)

/-- Every number occurs once. -/
def allOnce (xs : List Nat) : Bool := (xs.foldl addOnce (some 0)).isSome

/-- The homes of a die are physical clusters of it, each home to one logical cluster (R13). -/
def homesOk (homes : List Nat) : Bool :=
  decide (homes.length = 48) && homes.all (fun h => decide (h < 13)) && allOnce (homes.zipIdx.map fun e => e.2 / 12 * 16 + e.1)

/-- Logical core n lies on its die, in the home cluster of its logical cluster or in the cluster that is home to none, and no
physical core has two numbers (R12 to R14). -/
def coresOk (homes : List Nat) (cores : List CoreMap) : Bool :=
  decide (cores.length = 384)
    && cores.zipIdx.all (fun e =>
        let die := e.2 / 96
        let home := homes.getD (e.2 / 8) 0
        decide (e.1.die = die) && decide (e.1.cluster < 13)
          && (decide (e.1.cluster = home) || !has ((homes.drop (12 * die)).take 12) e.1.cluster))
    && allOnce (cores.map fun m => m.die * 128 + m.cluster * 8 + m.core)

/-- A copy of the core map record, if it is valid: it verifies, and its bytes are a record of R14 that keeps R12 and R13
(log 54). -/
def readMap (copy : Nat) (bs : List Byte) (verifies : Bool) : Option MapRecord :=
  let cores := (pairsLe ((bs.drop 8).take 768)).map readEntry
  let homes := ((bs.drop 776).take 48).map fun b => b.toNat % 16
  if verifies && decide (bs.length = 920) && decide (leNat (bs.take 4) = 0x564A434D) && homesOk homes && coresOk homes cores then
    some { copy := copy, seq := leNat ((bs.drop 4).take 4), digest := sha384 bs, cores := cores, homes := homes }
  else none

/-- The two copies that the flash holds: as the part rewrote them, else as it was made. -/
def mapCopies (s : State) (x : MapCopy × MapCopy) : Option MapRecord × Option MapRecord :=
  (readMap 0 (mapGetD s.mapFlash 0 x.1.bytes) x.1.verifies, readMap 1 (mapGetD s.mapFlash 1 x.2.bytes) x.2.verifies)

/-- The valid copy of the core map with the higher sequence (R15). DESIGN CHOICE: of two valid copies with equal sequences the
first; the manual names none (log 54). -/
def higherMap (x : Option MapRecord × Option MapRecord) : Option MapRecord :=
  match x with
  | (some a, some b) => if a.seq < b.seq then some b else some a
  | (a, b) => a.or b

/-- Three records, if each is there. -/
def threeRecords (m : Option MapRecord) (p : Option PartsRecord) (l : Option LinkRecord) : Option Records :=
  match m, p, l with
  | some m, some p, some l => some { map := m, parts := p, link := l }
  | _, _, _ => none

/-- The ranges, each a base and a size, share no byte. -/
def apart : List (Nat × Nat) → Bool
  | [] => true
  | (b, n) :: rest => rest.all (fun r => decide (b + n ≤ r.1) || decide (r.1 + r.2 ≤ b)) && apart rest

/-- A partition record that keeps R17, R19 and R534: the eight slots each belong to one partition; a partition owns at least
one slot and one logical cluster, at least 8 GB of HBM in whole 1 GB units, and whole 1 GB units of the second tier; no cluster
and no byte belongs to two. -/
def partsOk (ps : List PartRecord) : Bool :=
  let slots := ps.flatMap (·.slots)
  let clusters := ps.flatMap (·.clusters)
  let unit := 0x40000000
  decide (slots.length = 8) && slots.all (fun k => decide (k < 8)) && allOnce slots
    && clusters.all (fun k => decide (k < 48)) && allOnce clusters
    && ps.all (fun r => !r.slots.isEmpty && !r.clusters.isEmpty && decide (8 * unit ≤ r.hbmSize)
        && decide (r.hbmBase % unit = 0) && decide (r.hbmSize % unit = 0) && decide (r.tierBase % unit = 0) && decide (r.tierSize % unit = 0))
    && apart (ps.map fun r => (r.hbmBase, r.hbmSize)) && apart (ps.map fun r => (r.tierBase, r.tierSize))

/-- A copy of the partition record, if it keeps its rules (log 54). -/
def readParts (r : Option PartsRecord) : Option PartsRecord := r.filter fun r => partsOk r.parts

/-- Step 2: the first copies, or the other ones, with its outcome and slot; none where the step fails. -/
def recordStep (old : List Journal) (s : State) (x : Flash) : State × Option (Records × Nat × Nat) :=
  let maps := mapCopies s x.maps
  let parts := (readParts x.parts.1, readParts x.parts.2)
  let other := threeRecords (higherMap maps) (parts.2.or parts.1) (x.link.2.or x.link.1)
  let b := fun (s : State) (outcome : Nat) => match other with | some r => (s, some (r, outcome, 1)) | none => (journal s 2 0 1 1, none)
  if stepAltered old 2 0 then b s 0
  else
    match threeRecords (if maps.1.isSome && maps.2.isSome then higherMap maps else none) parts.1 x.link.1 with
    | some r => (s, some (r, 0, 0))
    | none => b (journal s 2 0 1 0) 3

/-- The stacks of a set, ascending. -/
def stacksOf (m : BitVec 12) : List Nat := (List.range 12).filter m.getLsbD

/-- Step 3: the stacks that pass serve. -/
def stackStep (old : List Journal) (s : State) (m : BitVec 12) : State :=
  let s := { s with serving := stacksOf m }
  let n := s.hbmStacks
  if stepAltered old 3 0 then journal s 3 0 0 2
  else if n = 12 then journal s 3 0 0 0
  else journal (journal s 3 0 1 0) 3 0 3 2

/-- An optional step: `f` where it succeeds. -/
def optionalStep (old : List Journal) (s : State) (step : Nat) (ok : Bool) (f : State → State) : State :=
  if stepAltered old step 0 then journal s step 0 2 0
  else if ok then journal (f s) step 0 0 0
  else journal (journal s step 0 1 0) step 0 2 0

/-- The second tier's ports and size for capacities by port (R529). -/
def tierLayout (caps : List Nat) : List Nat × Nat :=
  let have_ := (List.range 4).filter fun p => caps.getD p 0 != 0
  let w := if 4 ≤ have_.length then 4 else if 2 ≤ have_.length then 2 else have_.length
  let used := have_.take w
  let least := used.foldl (fun m p => Nat.min m (caps.getD p 0)) (caps.getD (used.headD 0) 0)
  (used, Nat.min (w * least / 0x40000000 * 0x40000000) 0x80000000000)

/-- A core as the start releases it, or power-gated (R16, R25). -/
def freshCore (released offline : Bool) : Core := { released := released, offline := offline }

/-- Queue 0 of a partition (R469). -/
def queueZero (base : Nat) : Queue :=
  { created := true, pring := BitVec.ofNat 64 base, cmpr := BitVec.ofNat 64 (base + 0x4000), log := 8, clog := 8, runtime := true, intr := true }

/-- A partition as the record gives it, stopped. -/
def freshPart (r : PartRecord) (reach : AMap Nat) : Part :=
  { slots := r.slots, clusters := r.clusters, hbmBase := r.hbmBase, hbmSize := r.hbmSize, tierBase := r.tierBase, tierSize := r.tierSize
    reach := reach }

/-- A partition begins to run, with queue 0. -/
def bootPart (s : State) (p : Nat) : State :=
  updPart s p fun q => { q with running := true, queues := [(0, queueZero q.hbmBase)] }

/-- No image. -/
def noImage : Image := { version := 0, key := 0, root := 0, keySig := 0, bytes := [], sig := 0 }

/-- The slots of a partition's system image. -/
def systemOf (x : Flash) (r : PartRecord) : Image × Image := x.systems.getD r.system (noImage, noImage)

/-- A partition's share lies within the HBM region (R538). -/
def shareLies (s : State) (base size : Nat) : Bool := decide (base + size ≤ s.hbmStacks * 36 * 0x40000000)

/-- Step 9 of one partition: skipped where its share no longer lies within HBM (R538). -/
def partStep (old : List Journal) (x : Flash) (s : State) (e : Nat × PartRecord) : State :=
  let (p, r) := e
  if !shareLies s r.hbmBase r.hbmSize then journal s 9 p 2 0
  else
    let (s, ok) := imageStep old s 9 p (4 + p) (x.minimum.getD 3 0) (systemOf x r)
    if ok then bootPart s p else s

/-- The reach table of a partition. -/
def reachOf (l : LinkRecord) (p : Nat) : AMap Nat :=
  (l.reach.filter fun e => e.1 == p).foldl (fun m e => mapPut m e.2.1 e.2.2) []

/-- The number of a partition: its first slot (R18, R525). -/
def partNumber (r : PartRecord) : Nat := r.slots.foldl Nat.min (r.slots.headD 0)

/-- The partitions of a record by number, ascending. -/
def numbered (r : PartsRecord) : List (Nat × PartRecord) :=
  sortBy (fun a b => decide (a.1 ≤ b.1)) (r.parts.map fun x => (partNumber x, x))

/-- The cores, the partitions and the map as the records give them. -/
def applyRecords (s : State) (r : Records) : State :=
  let ps := (numbered r.parts).map fun e => (e.1, freshPart e.2 (reachOf r.link e.1))
  let owned := fun n => ps.any fun p => has p.2.clusters (n / 8)
  let map := r.map.cores.zipIdx.map fun e => (e.2, e.1)
  { s with
    coreMap := map, homes := r.map.homes, mapSeq := r.map.seq, mapCopy := r.map.copy, device := r.link.device, parts := ps
    cores := map.map fun e => (e.1, freshCore (owned e.1 && !e.2.offline) e.2.offline) }

/-- The state in which Shuax begins: everything lost but the journal, the ROM, the configuration flash and memory
outside the package. -/
def startState (s : State) : State :=
  let out := fun (a : Nat) => decide (0x10000000000 ≤ a)
  { power := .managementOnly, journal := s.journal, attempt := s.attempt + 1, responses := s.responses, interrupts := s.interrupts
    agenda := s.agenda, mapFlash := s.mapFlash, fresh := s.fresh, nextId := s.nextId, badSpares := s.badSpares, retire := s.retire, spares := s.spares, tierDown := s.tierDown
    rootHash := s.rootHash, flash := s.flash
    mem := s.mem.filter fun c => out c.1, poison := s.poison.filter fun q => out (32 * q) }

/-- Every step of the attempt has ended ok: the journal is cleared down to it. -/
def settleJournal (s : State) : State :=
  let mine := s.journal.filter fun e => e.seq == s.attempt
  if mine.all fun e => e.outcome == 0 then { s with journal := mine } else s

/-- What a start finds: the flash as it was first read, with what training and testing give now (R11, R538). -/
def foundFlash (s : State) (x : Flash) : Flash :=
  match s.flash with
  | none => x
  | some y =>
    { x with shuax := y.shuax, maps := y.maps, parts := y.parts, link := y.link, firmware := y.firmware, hyper := y.hyper
             systems := y.systems, minimum := y.minimum }

/-- PART_START: a start attempt begins; its steps follow one by one (`bootStep`). -/
def execPartStart (flash : Flash) (s : State) : Out :=
  .next (
    let x := foundFlash s flash
    { startState s with
      flash := some x, boot := some { flash := x, old := s.journal.filter fun e => e.seq == s.attempt && e.valid } })

/-- The start goes on. -/
def bootNext (b : Boot) (s : State) : State := { s with boot := some { b with at_ := b.at_ + 1 } }

/-- The start goes on after a step without an alternative that failed: the part stays in management-only mode. -/
def bootIf (b : Boot) (r : State × Bool) : State := if r.2 then bootNext b r.1 else { r.1 with boot := none }

/-- The part of the start after the hypervisor's image runs: its partitions in turn, and the end (R538, R540). -/
def bootParts (b : Boot) (r : Records) (s : State) : State :=
  match (numbered r.parts)[b.at_ - 12]? with
  | some e => bootNext b (partStep b.old b.flash s e)
  | none => { settleJournal s with boot := none }

/-- The next part of a start in progress. Each extends one measurement register at most, so a request in between finds every register as
it was before an extension or after it (R538, R542). -/
def bootStep (s : State) (b : Boot) : State :=
  let x := b.flash
  match b.at_, b.recs with
  | 0, _ => bootIf b (imageStep b.old s 1 0 0 (x.minimum.getD 0 0) x.shuax)
  | 1, _ => bootNext b (extend s 12 x.debug)
  | 2, _ =>
    match recordStep b.old s x with
    | (s, none) => { s with boot := none }
    | (s, some (r, how)) => bootNext { b with recs := some r, how := how } s
  | 3, some r => bootNext b (extend s 1 r.map.digest)
  | 4, some r => bootNext b (extend s 1 r.parts.digest)
  | 5, some r => bootNext b (journal (extend s 1 r.link.digest) 2 0 b.how.1 b.how.2)
  | 6, some _ => bootNext b (stackStep b.old s x.passing)
  | 7, some _ => bootIf b (imageStep b.old s 4 0 2 (x.minimum.getD 1 0) x.firmware)
  | 8, some _ => bootNext b (optionalStep b.old s 5 x.hostUp fun s => { s with hostUp := true })
  | 9, some _ => bootNext b (optionalStep b.old s 6 x.tier.isSome fun s =>
      let (ports, size) := tierLayout (x.tier.getD [])
      { s with tierPorts := ports, tierGb := size / 0x40000000 })
  | 10, some _ => bootNext b (optionalStep b.old s 7 x.milca.isSome fun s =>
      let m := x.milca.getD (0, [])
      extend { s with ports := m.1, paths := m.2.foldl (fun p e => mapPut p e.1 e.2) [] } 13 x.trained)
  | 11, some r =>
    match imageStep b.old s 8 0 3 (x.minimum.getD 2 0) x.hyper with
    | (s, true) => bootNext b (applyRecords { s with power := .running } r)
    | (s, false) => { s with boot := none }
  | _, some r => bootParts b r s
  | _, none => { s with boot := none }

/-- A start carried on with nothing from outside in between; `fuel` bounds its parts. -/
def runBoot : Nat → State → State
  | 0, s => s
  | fuel + 1, s =>
    match s.boot with
    | some b => runBoot fuel (bootStep s b)
    | none => s

/-- POWER_FAIL: operation ends. Where it cuts a start short, the last `lost` entries of the attempt are unwritten, and with
`torn` the one before has a failing CHECK (R539). DESIGN CHOICE: what such a CHECK holds is its complement; only that it fails
matters. -/
def execPowerFail (lost : Nat) (torn : Bool) (s : State) : Out :=
  .next (
    let n := if s.boot.isSome then Nat.min lost (s.journal.filter fun e => e.seq == s.attempt).length else 0
    let kept := s.journal.take (s.journal.length - n)
    let kept := if torn && n != 0 then
        match kept.getLast? with
        | some e => if e.seq = s.attempt then kept.dropLast ++ [{ e with check := ~~~ e.check }] else kept
        | none => kept
      else kept
    { s with power := .off, boot := none, journal := kept })

/-! ### The restart of a partition (R534) -/

/-- Completes what a core's copy engine has in flight, where it can complete. -/
def drainCopies (s : State) (c : Nat) : State :=
  ((core s c).copies.map (·.id)).foldl (fun s id => after (execCopyComplete c id s) s) s

/-- Completes what an engine has queued. -/
def drainEngine (s : State) (c eng : Nat) : State :=
  (engQ (core s c) eng).foldl
    (fun s _ =>
      let s := after (execMatrixOpStart c eng s) s
      let s := after (execMatrixCommit c eng s) s
      after (execAccdrnComplete c eng s) s) s

/-- The system image of a partition verifies in slot A or B, and its share lies within HBM: it boots (R534, R536, R538). DESIGN CHOICE:
a restart alone measures nothing and writes no journal entry (log 45). -/
def bootsAgain (s : State) (p : Nat) : Bool :=
  let q := part s p
  shareLies s q.hbmBase q.hbmSize
    && match s.flash.bind fun x => (x.parts.1.or x.parts.2).bind fun r => ((numbered r).find? fun e => e.1 == p).map fun e => (x, systemOf x e.2) with
      | some (x, a, b) => accepts s (x.minimum.getD 3 0) a || accepts s (x.minimum.getD 3 0) b
      | none => q.running

/-- PARTITION_RESTART: the partition's contexts are destroyed, its HBM share is zeroed and its image boots again, or it is left stopped.
The quads' stochastic counts, which run from the start of the part, stay (R164). -/
def execPartitionRestart (part : Nat) (s : State) : Out :=
  .next (
    let q := Machine.part s part
    if (mapGet s.parts part).isNone then s
    else
      let boots := bootsAgain s part
      let cxs := (s.ctxs.filter fun c => c.2.part == part).map (·.1)
      let cs := (s.cores.filter fun c => has q.clusters (c.1 / 8)).map (·.1)
      let s := cxs.foldl (fun s cx => startDestroy s part cx) s
      let s := cs.foldl (fun s c => writeBackAll (drainEngine (drainEngine (drainCopies s c) c 0) c 1) c) s
      let s := cxs.foldl (fun s cx => dropCtx (finishDestroy s part cx) part cx) s
      let out := fun (a : Nat) => !(decide (q.hbmBase ≤ a) && decide (a < q.hbmBase + q.hbmSize))
      let gone := fun (l : Nat) => (launch s l).part == part
      let fresh : Part :=
        { slots := q.slots, clusters := q.clusters, hbmBase := q.hbmBase, hbmSize := q.hbmSize, tierBase := q.tierBase
          tierSize := q.tierSize, reach := q.reach, launches := q.launches, sets := q.sets }
      let s := { s with
        groups := s.groups.filter fun g => !gone (team s g.2.team).launch
        mem := s.mem.filter fun c => out c.1
        poison := s.poison.filter fun x => out (32 * x)
        relRecs := s.relRecs.filter fun r => out (64 * r.1)
        cores := s.cores.map fun (c : Nat × Core) =>
          if has q.clusters (c.1 / 8) then
            (c.1, { freshCore c.2.released c.2.offline with
                    marked := c.2.marked, replays := c.2.replays, quads := c.2.quads.map fun (x : Nat × Quad) => (x.1, { count := x.2.count }) })
          else c
        ctxs := s.ctxs.filter fun c => c.2.part != part }
      let s := { s with
        teams := s.teams.filter fun t => !gone t.2.launch
        spans := s.spans.filter fun t => !gone t.2.launch
        launches := s.launches.filter fun l => l.2.part != part }
      let s := updPart s part fun _ => fresh
      if boots then bootPart s part else s)

/-! ### Power and cooling (R22, R24, R543) -/

/-- POWER_LIMIT_SET: 2000 to 4500 W. -/
def execPowerLimitSet (watts : Nat) (s : State) : Out :=
  .next (if 2000 ≤ watts ∧ watts ≤ 4500 then { s with powerLimit := watts } else s)

/-- POWER_OVER_LIMIT: issue slots are withheld, which programs see as elapsed time only: see `throttleTime` (R24). -/
def execPowerOverLimit (s : State) : Out := .next { s with throttled := true }

/-- TEMP_THROTTLE. -/
def execTempThrottle (s : State) : Out := .next { s with hot := true }

/-- THROTTLE_END. -/
def execThrottleEnd (s : State) : Out := .next { s with throttled := false, hot := false }

/-- TEMP_SHUTDOWN: the arithmetic clock stops, and the part must be started again. -/
def execTempShutdown (s : State) : Out := .next { s with power := .clockStopped }

/-! ### Attestation (R541, R542) -/

/-- A response of the management core. -/
def respond (s : State) (r : Response) : State := { s with responses := s.responses ++ [r] }

/-- GET_VERSION: SPDM 1.2 and 1.3. -/
def execGetVersion (s : State) : Out := .next (respond s (.spdm 0 [0x12, 0x13]))

/-- GET_CAPABILITIES. PRESUMED: the flags of SPDM for certificates, challenges and signed measurements (log 13). -/
def execGetCapabilities (s : State) : Out := .next (respond s (.spdm 1 [0x16]))

/-- NEGOTIATE_ALGORITHMS: SHA-384 and ECDSA on NIST P-384. -/
def execNegotiateAlgorithms (s : State) : Out := .next (respond s (.spdm 2 [384, 384]))

/-- The alias key, which derives from the identity secret and MEAS0. -/
def aliasKey (s : State) : BitVec 384 := Config.aliasKey Config.identitySecret (cellGet s.meas 0)

/-- The certificate of the alias key: its public key, and the signature of that by the identity key. -/
def aliasCert (s : State) : List Byte :=
  let key := beBytes (Config.nistPublic (aliasKey s)).toNat 96
  key ++ beBytes (Config.identitySign (sha384 key)).toNat 96

/-- The certificate chain: the identity key's, from the flash, and the alias key's (R535, R541). -/
def certChain (s : State) : List Byte := Config.identityCert (publicKey Config.identityKey) ++ aliasCert s

/-- GET_DIGESTS. -/
def execGetDigests (s : State) : Out := .next (respond s (.digests [sha384 (certChain s)]))

/-- GET_CERTIFICATE. -/
def execGetCertificate (s : State) : Out := .next (respond s (.certificate (certChain s)))

/-- CHALLENGE: a signature with the alias key. -/
def execChallenge (nonce : BitVec 256) (s : State) : Out := .next (respond s (.signature (Config.sign (aliasKey s) nonce)))

/-- A digest that the hypervisor extends a register with, if it does. -/
def hyperDigest (n : Nat) : Option (BitVec 384) :=
  if (Config.freeByte n).getLsbD 0 then
    some (BitVec.ofNat 384 ((List.range 12).foldl (fun v i => v * 2 ^ 32 + (Config.freeWord (n + i)).toNat) 0))
  else none

/-- MEAS14 and MEAS15, as the hypervisor has extended them through Shuax by now: whether, and with what, is its own matter, a free value
(R538, log 62). Before the hypervisor runs it has extended neither. -/
def hyperExtends (s : State) : State :=
  if s.power = .running then
    let s' := [14, 15].foldl (fun s k => match hyperDigest (s.fresh + 12 * (k - 14)) with | some d => extend s k d | none => s) s
    { s' with fresh := s.fresh + 24 }
  else s

/-- GET_MEASUREMENTS: index k + 1 returns MEAS_k. -/
def execGetMeasurements (s : State) : Out :=
  .next (let s := hyperExtends s; respond s (.measurements ((List.range 16).map fun k => (k + 1, cellGet s.meas k))))

end Sys2Proof.Machine
end

