-- ==== Sys2Proof/Machine/Dispatch.lean ====
section
/-! DEFINITION. One arm per instruction and event: a direct call of its meaning. -/

namespace Sys2Proof.Machine
open Sys2Proof

def exec (i : Instr) (s : State) : Host.Outcome State Fault Refusal :=
  match i with
  | .vmov_16 f => Sys2Proof.Machine.execVmov_16 f s
  | .vadd_16 f => Sys2Proof.Machine.execVadd_16 f s
  | .vsub_16 f => Sys2Proof.Machine.execVsub_16 f s
  | .vmul_16 f => Sys2Proof.Machine.execVmul_16 f s
  | .vmin_16 f => Sys2Proof.Machine.execVmin_16 f s
  | .vmax_16 f => Sys2Proof.Machine.execVmax_16 f s
  | .vand_16 f => Sys2Proof.Machine.execVand_16 f s
  | .vor_16 f => Sys2Proof.Machine.execVor_16 f s
  | .vxor_16 f => Sys2Proof.Machine.execVxor_16 f s
  | .vshl_16 f => Sys2Proof.Machine.execVshl_16 f s
  | .vshr_16 f => Sys2Proof.Machine.execVshr_16 f s
  | .vfadd_16 f => Sys2Proof.Machine.execVfadd_16 f s
  | .vfsub_16 f => Sys2Proof.Machine.execVfsub_16 f s
  | .vfmul_16 f => Sys2Proof.Machine.execVfmul_16 f s
  | .vfmin_16 f => Sys2Proof.Machine.execVfmin_16 f s
  | .vfmax_16 f => Sys2Proof.Machine.execVfmax_16 f s
  | .sadd f => Sys2Proof.Machine.execSadd f s
  | .ssub f => Sys2Proof.Machine.execSsub f s
  | .smul f => Sys2Proof.Machine.execSmul f s
  | .smulh f => Sys2Proof.Machine.execSmulh f s
  | .sand f => Sys2Proof.Machine.execSand f s
  | .sor f => Sys2Proof.Machine.execSor f s
  | .sxor f => Sys2Proof.Machine.execSxor f s
  | .sshl f => Sys2Proof.Machine.execSshl f s
  | .sshr f => Sys2Proof.Machine.execSshr f s
  | .ssra f => Sys2Proof.Machine.execSsra f s
  | .smin f => Sys2Proof.Machine.execSmin f s
  | .smax f => Sys2Proof.Machine.execSmax f s
  | .ssel f => Sys2Proof.Machine.execSsel f s
  | .sbfx f => Sys2Proof.Machine.execSbfx f s
  | .sbfi f => Sys2Proof.Machine.execSbfi f s
  | .smov f => Sys2Proof.Machine.execSmov f s
  | .saddImm f => Sys2Proof.Machine.execSaddImm f s
  | .ssubImm f => Sys2Proof.Machine.execSsubImm f s
  | .smulImm f => Sys2Proof.Machine.execSmulImm f s
  | .smulhImm f => Sys2Proof.Machine.execSmulhImm f s
  | .sandImm f => Sys2Proof.Machine.execSandImm f s
  | .sorImm f => Sys2Proof.Machine.execSorImm f s
  | .sxorImm f => Sys2Proof.Machine.execSxorImm f s
  | .sshlImm f => Sys2Proof.Machine.execSshlImm f s
  | .scmp k f => Sys2Proof.Machine.execScmp k f s
  | .spopc f => Sys2Proof.Machine.execSpopc f s
  | .sclz f => Sys2Proof.Machine.execSclz f s
  | .sffs f => Sys2Proof.Machine.execSffs f s
  | .srev f => Sys2Proof.Machine.execSrev f s
  | .sli f => Sys2Proof.Machine.execSli f s
  | .slix k f t => Sys2Proof.Machine.execSlix k f t s
  | .sld_32 f => Sys2Proof.Machine.execSld_32 f s
  | .sld_64 f => Sys2Proof.Machine.execSld_64 f s
  | .sst_32 f => Sys2Proof.Machine.execSst_32 f s
  | .sst_64 f => Sys2Proof.Machine.execSst_64 f s
  | .sldk f => Sys2Proof.Machine.execSldk f s
  | .bra f => Sys2Proof.Machine.execBra f s
  | .brz f => Sys2Proof.Machine.execBrz f s
  | .brnz f => Sys2Proof.Machine.execBrnz f s
  | .call f => Sys2Proof.Machine.execCall f s
  | .sdbnz f => Sys2Proof.Machine.execSdbnz f s
  | .bany f => Sys2Proof.Machine.execBany f s
  | .ball f => Sys2Proof.Machine.execBall f s
  | .jmpr f => Sys2Proof.Machine.execJmpr f s
  | .ret f => Sys2Proof.Machine.execRet f s
  | .jfnc f => Sys2Proof.Machine.execJfnc f s
  | .exit f => Sys2Proof.Machine.execExit f s
  | .trap f => Sys2Proof.Machine.execTrap f s
  | .bkpt f => Sys2Proof.Machine.execBkpt f s
  | .nops f => Sys2Proof.Machine.execNops f s
  | .vbr f => Sys2Proof.Machine.execVbr f s
  | .vbrn f => Sys2Proof.Machine.execVbrn f s
  | .vbrk f => Sys2Proof.Machine.execVbrk f s
  | .jtok f => Sys2Proof.Machine.execJtok f s
  | .join f => Sys2Proof.Machine.execJoin f s
  | .waite f => Sys2Proof.Machine.execWaite f s
  | .fence f => Sys2Proof.Machine.execFence f s
  | .idem f => Sys2Proof.Machine.execIdem f s
  | .phint f t u => Sys2Proof.Machine.execPhint f t u s
  | .vadd f => Sys2Proof.Machine.execVadd f s
  | .vsub f => Sys2Proof.Machine.execVsub f s
  | .vmul f => Sys2Proof.Machine.execVmul f s
  | .vmulh f => Sys2Proof.Machine.execVmulh f s
  | .vmin f => Sys2Proof.Machine.execVmin f s
  | .vmax f => Sys2Proof.Machine.execVmax f s
  | .vabs f => Sys2Proof.Machine.execVabs f s
  | .vmad f => Sys2Proof.Machine.execVmad f s
  | .vand f => Sys2Proof.Machine.execVand f s
  | .vor f => Sys2Proof.Machine.execVor f s
  | .vxor f => Sys2Proof.Machine.execVxor f s
  | .vshl f => Sys2Proof.Machine.execVshl f s
  | .vshr f => Sys2Proof.Machine.execVshr f s
  | .vsra f => Sys2Proof.Machine.execVsra f s
  | .vpopc f => Sys2Proof.Machine.execVpopc f s
  | .vclz f => Sys2Proof.Machine.execVclz f s
  | .vaddImm f => Sys2Proof.Machine.execVaddImm f s
  | .vsubImm f => Sys2Proof.Machine.execVsubImm f s
  | .vmulImm f => Sys2Proof.Machine.execVmulImm f s
  | .vmulhImm f => Sys2Proof.Machine.execVmulhImm f s
  | .vminImm f => Sys2Proof.Machine.execVminImm f s
  | .vmaxImm f => Sys2Proof.Machine.execVmaxImm f s
  | .vmadImm f => Sys2Proof.Machine.execVmadImm f s
  | .vandImm f => Sys2Proof.Machine.execVandImm f s
  | .vorImm f => Sys2Proof.Machine.execVorImm f s
  | .vxorImm f => Sys2Proof.Machine.execVxorImm f s
  | .vshlImm f => Sys2Proof.Machine.execVshlImm f s
  | .vshrImm f => Sys2Proof.Machine.execVshrImm f s
  | .vsraImm f => Sys2Proof.Machine.execVsraImm f s
  | .vfadd f => Sys2Proof.Machine.execVfadd f s
  | .vfsub f => Sys2Proof.Machine.execVfsub f s
  | .vfmul f => Sys2Proof.Machine.execVfmul f s
  | .vfma f => Sys2Proof.Machine.execVfma f s
  | .vfmin f => Sys2Proof.Machine.execVfmin f s
  | .vfmax f => Sys2Proof.Machine.execVfmax f s
  | .vfabs f => Sys2Proof.Machine.execVfabs f s
  | .vfneg f => Sys2Proof.Machine.execVfneg f s
  | .vcmp k f => Sys2Proof.Machine.execVcmp k f s
  | .vrcp f => Sys2Proof.Machine.execVrcp f s
  | .vrsq f => Sys2Proof.Machine.execVrsq f s
  | .vsqrt f => Sys2Proof.Machine.execVsqrt f s
  | .vexp2 f => Sys2Proof.Machine.execVexp2 f s
  | .vlog2 f => Sys2Proof.Machine.execVlog2 f s
  | .vsin f => Sys2Proof.Machine.execVsin f s
  | .vcos f => Sys2Proof.Machine.execVcos f s
  | .vtanh f => Sys2Proof.Machine.execVtanh f s
  | .vmov f => Sys2Proof.Machine.execVmov f s
  | .vsel f => Sys2Proof.Machine.execVsel f s
  | .vbcs f => Sys2Proof.Machine.execVbcs f s
  | .vlaneV f => Sys2Proof.Machine.execVlaneV f s
  | .vlaneS f => Sys2Proof.Machine.execVlaneS f s
  | .vlaneId f => Sys2Proof.Machine.execVlaneId f s
  | .vfclass f => Sys2Proof.Machine.execVfclass f s
  | .vcvt k f => Sys2Proof.Machine.execVcvt k f s
  | .vqblk f t => Sys2Proof.Machine.execVqblk f t s
  | .vdqblk f t => Sys2Proof.Machine.execVdqblk f t s
  | .vshfl f => Sys2Proof.Machine.execVshfl f s
  | .vrot f => Sys2Proof.Machine.execVrot f s
  | .vbln f => Sys2Proof.Machine.execVbln f s
  | .vred f => Sys2Proof.Machine.execVred f s
  | .vscan f => Sys2Proof.Machine.execVscan f s
  | .vli f => Sys2Proof.Machine.execVli f s
  | .vlix k f t => Sys2Proof.Machine.execVlix k f t s
  | .vld k f => Sys2Proof.Machine.execVld k f s
  | .vst k f => Sys2Proof.Machine.execVst k f s
  | .vlds_32 f => Sys2Proof.Machine.execVlds_32 f s
  | .vlds_64 f => Sys2Proof.Machine.execVlds_64 f s
  | .vlds_128 f => Sys2Proof.Machine.execVlds_128 f s
  | .vsts_32 f => Sys2Proof.Machine.execVsts_32 f s
  | .vsts_64 f => Sys2Proof.Machine.execVsts_64 f s
  | .vsts_128 f => Sys2Proof.Machine.execVsts_128 f s
  | .atom k f t => Sys2Proof.Machine.execAtom k f t s
  | .atoms k f t => Sys2Proof.Machine.execAtoms k f t s
  | .fatom k f => Sys2Proof.Machine.execFatom k f s
  | .mon f => Sys2Proof.Machine.execMon f s
  | .mwait f => Sys2Proof.Machine.execMwait f s
  | .mclr f => Sys2Proof.Machine.execMclr f s
  | .bari f => Sys2Proof.Machine.execBari f s
  | .bara f => Sys2Proof.Machine.execBara f s
  | .barw f => Sys2Proof.Machine.execBarw f s
  | .barx f => Sys2Proof.Machine.execBarx f s
  | .bred f => Sys2Proof.Machine.execBred f s
  | .barq f => Sys2Proof.Machine.execBarq f s
  | .barinv f => Sys2Proof.Machine.execBarinv f s
  | .racq f => Sys2Proof.Machine.execRacq f s
  | .rrel f => Sys2Proof.Machine.execRrel f s
  | .rqry f => Sys2Proof.Machine.execRqry f s
  | .ebeq f t => Sys2Proof.Machine.execEbeq f t s
  | .eclm f t => Sys2Proof.Machine.execEclm f t s
  | .edrop f t => Sys2Proof.Machine.execEdrop f t s
  | .eqry f t => Sys2Proof.Machine.execEqry f t s
  | .epin f t => Sys2Proof.Machine.execEpin f t s
  | .phend f t => Sys2Proof.Machine.execPhend f t s
  | .srd f => Sys2Proof.Machine.execSrd f s
  | .swr f => Sys2Proof.Machine.execSwr f s
  | .cpy f t => Sys2Proof.Machine.execCpy f t s
  | .cpyt f t => Sys2Proof.Machine.execCpyt f t s
  | .cpyg f t => Sys2Proof.Machine.execCpyg f t s
  | .cpys f t => Sys2Proof.Machine.execCpys f t s
  | .cpyp f t => Sys2Proof.Machine.execCpyp f t s
  | .cfetch f t => Sys2Proof.Machine.execCfetch f t s
  | .cpyz f t => Sys2Proof.Machine.execCpyz f t s
  | .cpya f t => Sys2Proof.Machine.execCpya f t s
  | .colg f t => Sys2Proof.Machine.execColg f t s
  | .cols f t => Sys2Proof.Machine.execCols f t s
  | .colr f t => Sys2Proof.Machine.execColr f t s
  | .colb f t => Sys2Proof.Machine.execColb f t s
  | .qpush f => Sys2Proof.Machine.execQpush f s
  | .qld f => Sys2Proof.Machine.execQld f s
  | .qst f => Sys2Proof.Machine.execQst f s
  | .qtok f => Sys2Proof.Machine.execQtok f s
  | .qwtok f => Sys2Proof.Machine.execQwtok f s
  | .qdrn f => Sys2Proof.Machine.execQdrn f s
  | .qstat f => Sys2Proof.Machine.execQstat f s
  | .qaff f t => Sys2Proof.Machine.execQaff f t s
  | .tidq f => Sys2Proof.Machine.execTidq f s
  | .tidld f => Sys2Proof.Machine.execTidld f s
  | .mloop f t => Sys2Proof.Machine.execMloop f t s
  | .mloopd f t => Sys2Proof.Machine.execMloopd f t s
  | .accz f t => Sys2Proof.Machine.execAccz f t s
  | .accrd f t => Sys2Proof.Machine.execAccrd f t s
  | .accwr f t => Sys2Proof.Machine.execAccwr f t s
  | .accdrn f t => Sys2Proof.Machine.execAccdrn f t s
  | .awset f t => Sys2Proof.Machine.execAwset f t s
  | .dbind f => Sys2Proof.Machine.execDbind f s
  | .dref f => Sys2Proof.Machine.execDref f s
  | .dinv f => Sys2Proof.Machine.execDinv f s
  | .dqry f => Sys2Proof.Machine.execDqry f s
  | .wpop f => Sys2Proof.Machine.execWpop f s
  | .wpush f => Sys2Proof.Machine.execWpush f s
  | .wroom f => Sys2Proof.Machine.execWroom f s
  | .gsig f => Sys2Proof.Machine.execGsig f s
  | .corp f => Sys2Proof.Machine.execCorp f s
  | .corf f => Sys2Proof.Machine.execCorf f s
  | .xbind f => Sys2Proof.Machine.execXbind f s
  | .cntrd f => Sys2Proof.Machine.execCntrd f s
  | .watchReport part watch pa cls peer bytes group => Sys2Proof.Machine.execWatchReport part watch pa cls peer bytes group s
  | .teamSaveDone team => Sys2Proof.Machine.execTeamSaveDone team s
  | .stepCountExpire group => Sys2Proof.Machine.execStepCountExpire group s
  | .launchComplete launch => Sys2Proof.Machine.execLaunchComplete launch s
  | .orderedAddApply launch => Sys2Proof.Machine.execOrderedAddApply launch s
  | .rerunRound launch => Sys2Proof.Machine.execRerunRound launch s
  | .matrixOpStart core eng => Sys2Proof.Machine.execMatrixOpStart core eng s
  | .matrixCommit core eng => Sys2Proof.Machine.execMatrixCommit core eng s
  | .accdrnComplete core eng => Sys2Proof.Machine.execAccdrnComplete core eng s
  | .copyComplete core op => Sys2Proof.Machine.execCopyComplete core op s
  | .collectiveCopyStart core op => Sys2Proof.Machine.execCollectiveCopyStart core op s
  | .cfetchDone core op => Sys2Proof.Machine.execCfetchDone core op s
  | .segmentLoadDone core slot => Sys2Proof.Machine.execSegmentLoadDone core slot s
  | .loadReturn group load => Sys2Proof.Machine.execLoadReturn group load s
  | .translationCheckDone group stream => Sys2Proof.Machine.execTranslationCheckDone group stream s
  | .claimDeliver group claim => Sys2Proof.Machine.execClaimDeliver group claim s
  | .estateMigrateArrive group claim => Sys2Proof.Machine.execEstateMigrateArrive group claim s
  | .paddockResume group => Sys2Proof.Machine.execPaddockResume group s
  | .phaseRecordFetchDone group => Sys2Proof.Machine.execPhaseRecordFetchDone group s
  | .queueEntryFill group queue entry => Sys2Proof.Machine.execQueueEntryFill group queue entry s
  | .popFreezeExpire group split => Sys2Proof.Machine.execPopFreezeExpire group split s
  | .mwaitTimeout group split => Sys2Proof.Machine.execMwaitTimeout group split s
  | .migrationComplete part migration => Sys2Proof.Machine.execMigrationComplete part migration s
  | .corralEmitResume part emission => Sys2Proof.Machine.execCorralEmitResume part emission s
  | .tidldComplete group stream => Sys2Proof.Machine.execTidldComplete group stream s
  | .gsigApplied group stream => Sys2Proof.Machine.execGsigApplied group stream s
  | .graphNodeStart part => Sys2Proof.Machine.execGraphNodeStart part s
  | .graphNodeComplete part slot node status => Sys2Proof.Machine.execGraphNodeComplete part slot node status s
  | .placeSpan part => Sys2Proof.Machine.execPlaceSpan part s
  | .launchPacket part queue index => Sys2Proof.Machine.execLaunchPacket part queue index s
  | .signalPacket part queue index => Sys2Proof.Machine.execSignalPacket part queue index s
  | .waitPacket part queue index => Sys2Proof.Machine.execWaitPacket part queue index s
  | .waitPoll part queue index => Sys2Proof.Machine.execWaitPoll part queue index s
  | .rfPassDone group => Sys2Proof.Machine.execRfPassDone group s
  | .illegalInstruction => Sys2Proof.Machine.execIllegalInstruction s
  | .pageServiceDone ctx va ok => Sys2Proof.Machine.execPageServiceDone ctx va ok s
  | .collectiveComplete core op sent => Sys2Proof.Machine.execCollectiveComplete core op sent s
  | .migrationFail part migration => Sys2Proof.Machine.execMigrationFail part migration s
  | .pageZeroDone part pa shift => Sys2Proof.Machine.execPageZeroDone part pa shift s
  | .imemError core slot => Sys2Proof.Machine.execImemError core slot s
  | .timingReplay core quad => Sys2Proof.Machine.execTimingReplay core quad s
  | .checkRestart group split => Sys2Proof.Machine.execCheckRestart group split s
  | .rfUncorrectable group reg beat lanes => Sys2Proof.Machine.execRfUncorrectable group reg beat lanes s
  | .addrSliceCheckFail group => Sys2Proof.Machine.execAddrSliceCheckFail group s
  | .matrixCheckFail core eng commit => Sys2Proof.Machine.execMatrixCheckFail core eng commit s
  | .accRowError team eng row => Sys2Proof.Machine.execAccRowError team eng row s
  | .scratchEccError team off => Sys2Proof.Machine.execScratchEccError team off s
  | .hayloftError ctx ns ident group lanes => Sys2Proof.Machine.execHayloftError ctx ns ident group lanes s
  | .hbmUncorrectable pa => Sys2Proof.Machine.execHbmUncorrectable pa s
  | .scrubPass => Sys2Proof.Machine.execScrubPass s
  | .rowSpareStart bank row badReads pa => Sys2Proof.Machine.execRowSpareStart bank row badReads pa s
  | .rowSpareDone bank row => Sys2Proof.Machine.execRowSpareDone bank row s
  | .coreScanStart core => Sys2Proof.Machine.execCoreScanStart core s
  | .scanAbort core => Sys2Proof.Machine.execScanAbort core s
  | .scanDone core ok => Sys2Proof.Machine.execScanDone core ok s
  | .traceSample part => Sys2Proof.Machine.execTraceSample part s
  | .replayLogRecord part retired sys kind len value => Sys2Proof.Machine.execReplayLogRecord part retired sys kind len value s
  | .pcntWrite part core idx value => Sys2Proof.Machine.execPcntWrite part core idx value s
  | .registerWrite part reg value => Sys2Proof.Machine.execRegisterWrite part reg value s
  | .doorbell part queue tail => Sys2Proof.Machine.execDoorbell part queue tail s
  | .ctxCreate part queue desc => Sys2Proof.Machine.execCtxCreate part queue desc s
  | .ctxDestroy part ctx => Sys2Proof.Machine.execCtxDestroy part ctx s
  | .ctxClrerr part ctx bits => Sys2Proof.Machine.execCtxClrerr part ctx bits s
  | .debug part ctx bits => Sys2Proof.Machine.execDebug part ctx bits s
  | .tlbInval part queue index ctx va len => Sys2Proof.Machine.execTlbInval part queue index ctx va len s
  | .tlbInvalDone part command => Sys2Proof.Machine.execTlbInvalDone part command s
  | .zero part pa code => Sys2Proof.Machine.execZero part pa code s
  | .leaseClose part ctx ns => Sys2Proof.Machine.execLeaseClose part ctx ns s
  | .resume part group => Sys2Proof.Machine.execResume part group s
  | .resumeNext part group => Sys2Proof.Machine.execResumeNext part group s
  | .step part group n => Sys2Proof.Machine.execStep part group n s
  | .kill part group => Sys2Proof.Machine.execKill part group s
  | .killLaunch part group => Sys2Proof.Machine.execKillLaunch part group s
  | .halt part launch ctx team gix => Sys2Proof.Machine.execHalt part launch ctx team gix s
  | .freezeTimeout core => Sys2Proof.Machine.execFreezeTimeout core s
  | .residency part ctx tid res => Sys2Proof.Machine.execResidency part ctx tid res s
  | .policy part xpol area size quantum => Sys2Proof.Machine.execPolicy part xpol area size quantum s
  | .session part session image discard => Sys2Proof.Machine.execSession part session image discard s
  | .feedCreate part feed ctx cap => Sys2Proof.Machine.execFeedCreate part feed ctx cap s
  | .feedClose part feed => Sys2Proof.Machine.execFeedClose part feed s
  | .queueCreate part queue image => Sys2Proof.Machine.execQueueCreate part queue image s
  | .queueDestroy part queue kill => Sys2Proof.Machine.execQueueDestroy part queue kill s
  | .graphUpload part slot image => Sys2Proof.Machine.execGraphUpload part slot image s
  | .graphFree part slot => Sys2Proof.Machine.execGraphFree part slot s
  | .ctxSetCtlw part ctx value => Sys2Proof.Machine.execCtxSetCtlw part ctx value s
  | .ctxSetSaveArea part ctx addr size => Sys2Proof.Machine.execCtxSetSaveArea part ctx addr size s
  | .ctxSetPhaseArea part ctx addr size => Sys2Proof.Machine.execCtxSetPhaseArea part ctx addr size s
  | .ctxSetEstateArea part ctx addr size => Sys2Proof.Machine.execCtxSetEstateArea part ctx addr size s
  | .trapConsumerWrite part ctx cons => Sys2Proof.Machine.execTrapConsumerWrite part ctx cons s
  | .triggerWrite part slot value => Sys2Proof.Machine.execTriggerWrite part slot value s
  | .quantumExpire team => Sys2Proof.Machine.execQuantumExpire team s
  | .hintTimeout team => Sys2Proof.Machine.execHintTimeout team s
  | .schedCoreError part kind => Sys2Proof.Machine.execSchedCoreError part kind s
  | .hostWrite fn off bytes => Sys2Proof.Machine.execHostWrite fn off bytes s
  | .hostRead fn bar off size => Sys2Proof.Machine.execHostRead fn bar off size s
  | .hostRequestError part pa => Sys2Proof.Machine.execHostRequestError part pa s
  | .tierLinkDown port => Sys2Proof.Machine.execTierLinkDown port s
  | .tierLinkUp port => Sys2Proof.Machine.execTierLinkUp port s
  | .tierPoisonReport pa => Sys2Proof.Machine.execTierPoisonReport pa s
  | .milcaPortFail port => Sys2Proof.Machine.execMilcaPortFail port s
  | .peerUnreachable peer => Sys2Proof.Machine.execPeerUnreachable peer s
  | .peerRequest peer sender part pa op bytes => Sys2Proof.Machine.execPeerRequest peer sender part pa op bytes s
  | .partStart flash => Sys2Proof.Machine.execPartStart flash s
  | .partitionRestart part => Sys2Proof.Machine.execPartitionRestart part s
  | .powerLimitSet watts => Sys2Proof.Machine.execPowerLimitSet watts s
  | .powerOverLimit => Sys2Proof.Machine.execPowerOverLimit s
  | .tempThrottle => Sys2Proof.Machine.execTempThrottle s
  | .tempShutdown => Sys2Proof.Machine.execTempShutdown s
  | .getVersion => Sys2Proof.Machine.execGetVersion s
  | .getCapabilities => Sys2Proof.Machine.execGetCapabilities s
  | .negotiateAlgorithms => Sys2Proof.Machine.execNegotiateAlgorithms s
  | .getDigests => Sys2Proof.Machine.execGetDigests s
  | .getCertificate => Sys2Proof.Machine.execGetCertificate s
  | .challenge nonce => Sys2Proof.Machine.execChallenge nonce s
  | .getMeasurements => Sys2Proof.Machine.execGetMeasurements s
  | .latchSetWithNoWrite group => Sys2Proof.Machine.execLatchSetWithNoWrite group s
  | .l1Eviction core line => Sys2Proof.Machine.execL1Eviction core line s
  | .hayloftWriteOutDone core => Sys2Proof.Machine.execHayloftWriteOutDone core s
  | .throttleEnd => Sys2Proof.Machine.execThrottleEnd s
  | .powerFail lost torn => Sys2Proof.Machine.execPowerFail lost torn s
  | .peerReachable path => Sys2Proof.Machine.execPeerReachable path s

end Sys2Proof.Machine
end

