-- ==== Sys2Proof/Machine/Timing.lean ====
section
/-! DEFINITION. What the timing of issue takes from an instruction: stall count, class, destinations whose partial beats
freeze the quad, and what an idempotent region may not hold (R47, R49, R74, R75, R129, R424). -/

namespace Sys2Proof.Machine
open Sys2Proof

/-- The stall count SC; a 16-bit form has 0 (R47). -/
def scOf (i : Instr) : Nat :=
  match i with
  | .sadd f => f.sc.toNat
  | .ssub f => f.sc.toNat
  | .smul f => f.sc.toNat
  | .smulh f => f.sc.toNat
  | .sand f => f.sc.toNat
  | .sor f => f.sc.toNat
  | .sxor f => f.sc.toNat
  | .sshl f => f.sc.toNat
  | .sshr f => f.sc.toNat
  | .ssra f => f.sc.toNat
  | .smin f => f.sc.toNat
  | .smax f => f.sc.toNat
  | .ssel f => f.sc.toNat
  | .sbfx f => f.sc.toNat
  | .sbfi f => f.sc.toNat
  | .smov f => f.sc.toNat
  | .saddImm f => f.sc.toNat
  | .ssubImm f => f.sc.toNat
  | .smulImm f => f.sc.toNat
  | .smulhImm f => f.sc.toNat
  | .sandImm f => f.sc.toNat
  | .sorImm f => f.sc.toNat
  | .sxorImm f => f.sc.toNat
  | .sshlImm f => f.sc.toNat
  | .scmp _ f => f.sc.toNat
  | .spopc f => f.sc.toNat
  | .sclz f => f.sc.toNat
  | .sffs f => f.sc.toNat
  | .srev f => f.sc.toNat
  | .sli f => f.sc.toNat
  | .slix _ f _ => f.sc.toNat
  | .sld_32 f => f.sc.toNat
  | .sld_64 f => f.sc.toNat
  | .sst_32 f => f.sc.toNat
  | .sst_64 f => f.sc.toNat
  | .sldk f => f.sc.toNat
  | .bra f => f.sc.toNat
  | .brz f => f.sc.toNat
  | .brnz f => f.sc.toNat
  | .call f => f.sc.toNat
  | .sdbnz f => f.sc.toNat
  | .bany f => f.sc.toNat
  | .ball f => f.sc.toNat
  | .jmpr f => f.sc.toNat
  | .ret f => f.sc.toNat
  | .jfnc f => f.sc.toNat
  | .exit f => f.sc.toNat
  | .trap f => f.sc.toNat
  | .bkpt f => f.sc.toNat
  | .nops f => f.sc.toNat
  | .vbr f => f.sc.toNat
  | .vbrn f => f.sc.toNat
  | .vbrk f => f.sc.toNat
  | .jtok f => f.sc.toNat
  | .join f => f.sc.toNat
  | .waite f => f.sc.toNat
  | .fence f => f.sc.toNat
  | .idem f => f.sc.toNat
  | .phint f _ _ => f.sc.toNat
  | .vadd f => f.sc.toNat
  | .vsub f => f.sc.toNat
  | .vmul f => f.sc.toNat
  | .vmulh f => f.sc.toNat
  | .vmin f => f.sc.toNat
  | .vmax f => f.sc.toNat
  | .vabs f => f.sc.toNat
  | .vmad f => f.sc.toNat
  | .vand f => f.sc.toNat
  | .vor f => f.sc.toNat
  | .vxor f => f.sc.toNat
  | .vshl f => f.sc.toNat
  | .vshr f => f.sc.toNat
  | .vsra f => f.sc.toNat
  | .vpopc f => f.sc.toNat
  | .vclz f => f.sc.toNat
  | .vaddImm f => f.sc.toNat
  | .vsubImm f => f.sc.toNat
  | .vmulImm f => f.sc.toNat
  | .vmulhImm f => f.sc.toNat
  | .vminImm f => f.sc.toNat
  | .vmaxImm f => f.sc.toNat
  | .vmadImm f => f.sc.toNat
  | .vandImm f => f.sc.toNat
  | .vorImm f => f.sc.toNat
  | .vxorImm f => f.sc.toNat
  | .vshlImm f => f.sc.toNat
  | .vshrImm f => f.sc.toNat
  | .vsraImm f => f.sc.toNat
  | .vfadd f => f.sc.toNat
  | .vfsub f => f.sc.toNat
  | .vfmul f => f.sc.toNat
  | .vfma f => f.sc.toNat
  | .vfmin f => f.sc.toNat
  | .vfmax f => f.sc.toNat
  | .vfabs f => f.sc.toNat
  | .vfneg f => f.sc.toNat
  | .vcmp _ f => f.sc.toNat
  | .vrcp f => f.sc.toNat
  | .vrsq f => f.sc.toNat
  | .vsqrt f => f.sc.toNat
  | .vexp2 f => f.sc.toNat
  | .vlog2 f => f.sc.toNat
  | .vsin f => f.sc.toNat
  | .vcos f => f.sc.toNat
  | .vtanh f => f.sc.toNat
  | .vmov f => f.sc.toNat
  | .vsel f => f.sc.toNat
  | .vbcs f => f.sc.toNat
  | .vlaneV f => f.sc.toNat
  | .vlaneS f => f.sc.toNat
  | .vlaneId f => f.sc.toNat
  | .vfclass f => f.sc.toNat
  | .vcvt _ f => f.sc.toNat
  | .vqblk f _ => f.sc.toNat
  | .vdqblk f _ => f.sc.toNat
  | .vshfl f => f.sc.toNat
  | .vrot f => f.sc.toNat
  | .vbln f => f.sc.toNat
  | .vred f => f.sc.toNat
  | .vscan f => f.sc.toNat
  | .vli f => f.sc.toNat
  | .vlix _ f _ => f.sc.toNat
  | .vld _ f => f.sc.toNat
  | .vst _ f => f.sc.toNat
  | .vlds_32 f => f.sc.toNat
  | .vlds_64 f => f.sc.toNat
  | .vlds_128 f => f.sc.toNat
  | .vsts_32 f => f.sc.toNat
  | .vsts_64 f => f.sc.toNat
  | .vsts_128 f => f.sc.toNat
  | .atom _ f _ => f.sc.toNat
  | .atoms _ f _ => f.sc.toNat
  | .fatom _ f => f.sc.toNat
  | .mon f => f.sc.toNat
  | .mwait f => f.sc.toNat
  | .mclr f => f.sc.toNat
  | .bari f => f.sc.toNat
  | .bara f => f.sc.toNat
  | .barw f => f.sc.toNat
  | .barx f => f.sc.toNat
  | .bred f => f.sc.toNat
  | .barq f => f.sc.toNat
  | .barinv f => f.sc.toNat
  | .racq f => f.sc.toNat
  | .rrel f => f.sc.toNat
  | .rqry f => f.sc.toNat
  | .ebeq f _ => f.sc.toNat
  | .eclm f _ => f.sc.toNat
  | .edrop f _ => f.sc.toNat
  | .eqry f _ => f.sc.toNat
  | .epin f _ => f.sc.toNat
  | .phend f _ => f.sc.toNat
  | .srd f => f.sc.toNat
  | .swr f => f.sc.toNat
  | .cpy f _ => f.sc.toNat
  | .cpyt f _ => f.sc.toNat
  | .cpyg f _ => f.sc.toNat
  | .cpys f _ => f.sc.toNat
  | .cpyp f _ => f.sc.toNat
  | .cfetch f _ => f.sc.toNat
  | .cpyz f _ => f.sc.toNat
  | .cpya f _ => f.sc.toNat
  | .colg f _ => f.sc.toNat
  | .cols f _ => f.sc.toNat
  | .colr f _ => f.sc.toNat
  | .colb f _ => f.sc.toNat
  | .qpush f => f.sc.toNat
  | .qld f => f.sc.toNat
  | .qst f => f.sc.toNat
  | .qtok f => f.sc.toNat
  | .qwtok f => f.sc.toNat
  | .qdrn f => f.sc.toNat
  | .qstat f => f.sc.toNat
  | .qaff f _ => f.sc.toNat
  | .tidq f => f.sc.toNat
  | .tidld f => f.sc.toNat
  | .mloop f _ => f.sc.toNat
  | .mloopd f _ => f.sc.toNat
  | .accz f _ => f.sc.toNat
  | .accrd f _ => f.sc.toNat
  | .accwr f _ => f.sc.toNat
  | .accdrn f _ => f.sc.toNat
  | .awset f _ => f.sc.toNat
  | .dbind f => f.sc.toNat
  | .dref f => f.sc.toNat
  | .dinv f => f.sc.toNat
  | .dqry f => f.sc.toNat
  | .wpop f => f.sc.toNat
  | .wpush f => f.sc.toNat
  | .wroom f => f.sc.toNat
  | .gsig f => f.sc.toNat
  | .corp f => f.sc.toNat
  | .corf f => f.sc.toNat
  | .xbind f => f.sc.toNat
  | .cntrd f => f.sc.toNat
  | _ => 0

/-- A lane instruction, which takes three beat cycles (R74). -/
def laneInstr (i : Instr) : Bool :=
  match i with
  | .vmov_16 _ => true
  | .vadd_16 _ => true
  | .vsub_16 _ => true
  | .vmul_16 _ => true
  | .vmin_16 _ => true
  | .vmax_16 _ => true
  | .vand_16 _ => true
  | .vor_16 _ => true
  | .vxor_16 _ => true
  | .vshl_16 _ => true
  | .vshr_16 _ => true
  | .vfadd_16 _ => true
  | .vfsub_16 _ => true
  | .vfmul_16 _ => true
  | .vfmin_16 _ => true
  | .vfmax_16 _ => true
  | .vadd _ => true
  | .vsub _ => true
  | .vmul _ => true
  | .vmulh _ => true
  | .vmin _ => true
  | .vmax _ => true
  | .vabs _ => true
  | .vmad _ => true
  | .vand _ => true
  | .vor _ => true
  | .vxor _ => true
  | .vshl _ => true
  | .vshr _ => true
  | .vsra _ => true
  | .vpopc _ => true
  | .vclz _ => true
  | .vaddImm _ => true
  | .vsubImm _ => true
  | .vmulImm _ => true
  | .vmulhImm _ => true
  | .vminImm _ => true
  | .vmaxImm _ => true
  | .vmadImm _ => true
  | .vandImm _ => true
  | .vorImm _ => true
  | .vxorImm _ => true
  | .vshlImm _ => true
  | .vshrImm _ => true
  | .vsraImm _ => true
  | .vfadd _ => true
  | .vfsub _ => true
  | .vfmul _ => true
  | .vfma _ => true
  | .vfmin _ => true
  | .vfmax _ => true
  | .vfabs _ => true
  | .vfneg _ => true
  | .vcmp _ _ => true
  | .vrcp _ => true
  | .vrsq _ => true
  | .vsqrt _ => true
  | .vexp2 _ => true
  | .vlog2 _ => true
  | .vsin _ => true
  | .vcos _ => true
  | .vtanh _ => true
  | .vmov _ => true
  | .vsel _ => true
  | .vbcs _ => true
  | .vlaneV _ => true
  | .vlaneS _ => true
  | .vlaneId _ => true
  | .vfclass _ => true
  | .vcvt _ _ => true
  | .vqblk _ _ => true
  | .vdqblk _ _ => true
  | .vshfl _ => true
  | .vrot _ => true
  | .vbln _ => true
  | .vred _ => true
  | .vscan _ => true
  | .vli _ => true
  | .vlix _ _ _ => true
  | .vld _ _ => true
  | .vst _ _ => true
  | .vlds_32 _ => true
  | .vlds_64 _ => true
  | .vlds_128 _ => true
  | .vsts_32 _ => true
  | .vsts_64 _ => true
  | .vsts_128 _ => true
  | .atom _ _ _ => true
  | .atoms _ _ _ => true
  | .fatom _ _ => true
  | _ => false

/-- The scalar class that may co-issue (R75). -/
def coClass (i : Instr) : Bool :=
  match i with
  | .sadd _ => true
  | .ssub _ => true
  | .smul _ => true
  | .smulh _ => true
  | .sand _ => true
  | .sor _ => true
  | .sxor _ => true
  | .sshl _ => true
  | .sshr _ => true
  | .ssra _ => true
  | .smin _ => true
  | .smax _ => true
  | .ssel _ => true
  | .sbfx _ => true
  | .sbfi _ => true
  | .smov _ => true
  | .saddImm _ => true
  | .ssubImm _ => true
  | .smulImm _ => true
  | .smulhImm _ => true
  | .sandImm _ => true
  | .sorImm _ => true
  | .sxorImm _ => true
  | .sshlImm _ => true
  | .scmp _ _ => true
  | .spopc _ => true
  | .sclz _ => true
  | .sffs _ => true
  | .srev _ => true
  | .sli _ => true
  | .slix _ _ _ => true
  | .sld_32 _ => true
  | .sld_64 _ => true
  | .sst_32 _ => true
  | .sst_64 _ => true
  | .sldk _ => true
  | .bra _ => true
  | .brz _ => true
  | .brnz _ => true
  | .call _ => true
  | .sdbnz _ => true
  | .bany _ => true
  | .ball _ => true
  | .jmpr _ => true
  | .ret _ => true
  | .jfnc _ => true
  | .nops _ => true
  | .srd _ => true
  | .swr _ => true
  | _ => false

/-- Its vector destinations receive fixed-latency results (R49, R129). -/
def fixedVector (i : Instr) : Bool :=
  match i with
  | .vmov_16 _ => true
  | .vadd_16 _ => true
  | .vsub_16 _ => true
  | .vmul_16 _ => true
  | .vmin_16 _ => true
  | .vmax_16 _ => true
  | .vand_16 _ => true
  | .vor_16 _ => true
  | .vxor_16 _ => true
  | .vshl_16 _ => true
  | .vshr_16 _ => true
  | .vfadd_16 _ => true
  | .vfsub_16 _ => true
  | .vfmul_16 _ => true
  | .vfmin_16 _ => true
  | .vfmax_16 _ => true
  | .vadd _ => true
  | .vsub _ => true
  | .vmul _ => true
  | .vmulh _ => true
  | .vmin _ => true
  | .vmax _ => true
  | .vabs _ => true
  | .vmad _ => true
  | .vand _ => true
  | .vor _ => true
  | .vxor _ => true
  | .vshl _ => true
  | .vshr _ => true
  | .vsra _ => true
  | .vpopc _ => true
  | .vclz _ => true
  | .vaddImm _ => true
  | .vsubImm _ => true
  | .vmulImm _ => true
  | .vmulhImm _ => true
  | .vminImm _ => true
  | .vmaxImm _ => true
  | .vmadImm _ => true
  | .vandImm _ => true
  | .vorImm _ => true
  | .vxorImm _ => true
  | .vshlImm _ => true
  | .vshrImm _ => true
  | .vsraImm _ => true
  | .vfadd _ => true
  | .vfsub _ => true
  | .vfmul _ => true
  | .vfma _ => true
  | .vfmin _ => true
  | .vfmax _ => true
  | .vfabs _ => true
  | .vfneg _ => true
  | .vcmp _ _ => true
  | .vrcp _ => true
  | .vrsq _ => true
  | .vsqrt _ => true
  | .vexp2 _ => true
  | .vlog2 _ => true
  | .vsin _ => true
  | .vcos _ => true
  | .vtanh _ => true
  | .vmov _ => true
  | .vsel _ => true
  | .vbcs _ => true
  | .vlaneV _ => true
  | .vlaneS _ => true
  | .vlaneId _ => true
  | .vfclass _ => true
  | .vcvt _ _ => true
  | .vqblk _ _ => true
  | .vdqblk _ _ => true
  | .vshfl _ => true
  | .vrot _ => true
  | .vbln _ => true
  | .vred _ => true
  | .vscan _ => true
  | .vli _ => true
  | .vlix _ _ _ => true
  | .vlds_32 _ => true
  | .vlds_64 _ => true
  | .vlds_128 _ => true
  | .accrd _ _ => true
  | _ => false

/-- The tail of a copy or a collective, whose bit 18 credits a barrier (R301). -/
def copyTail (i : Instr) : Word :=
  match i with
  | .cpy _ t => t
  | .cpyt _ t => t
  | .cpyg _ t => t
  | .cpys _ t => t
  | .cpyp _ t => t
  | .cfetch _ t => t
  | .cpyz _ t => t
  | .cpya _ t => t
  | .colg _ t => t
  | .cols _ t => t
  | .colr _ t => t
  | .colb _ t => t
  | _ => 0

/-- An instruction that a region may hold only first after its IDEM (R424). -/
def regionEnds (i : Instr) : Bool :=
  match i with
  | .atom _ _ _ => true
  | .atoms _ _ _ => true
  | .fatom _ _ => true
  | .ebeq _ _ => true
  | .eclm _ _ => true
  | .qtok _ => true
  | i => (usesOf i).push.isSome || (copyTail i).getLsbD 18

/-- Beats of a lane set that are partial (R129). -/
def partialBeats (l : Lanes) : Nat := ((List.range 3).filter fun j => beatOf l j != 0 && beatOf l j != 0xFFFFFFFF).length

/-- Cycles for which an instruction's partial beats freeze the quad (R129). -/
def beatFreezes (i : Instr) (act : Lanes) : Nat := if fixedVector i then (usesOf i).vw.length * partialBeats act else 0

end Sys2Proof.Machine
end

