-- ==== Sys2Proof/Machine/Issue.lean ====
section
/-! DEFINITION. Issue: which stream of a quad issues next, and what its issue adds to the instruction's own effect (R31, R46 to
R51, R74 to R80, R197, R320, R406, R408, R496). -/

namespace Sys2Proof.Machine
open Sys2Proof

/-! ### Streams that may issue -/

/-- The number of a stream: 0 to 3 a split, 4 the address slice. -/
def streamNo : Stream → Nat
  | .split n => n
  | .aslice => 4

/-- The streams of a group that have not ended. -/
def streams (g : Group) : List Stream :=
  (g.splits.map fun e => Stream.split e.1) ++ (match g.aslice with | some a => if a.exited then [] else [.aslice] | none => [])

def stallOf (g : Group) : Stream → Nat
  | .split n => (split g n).stall
  | .aslice => (slice g).stall

def ctrOf (g : Group) : Stream → Nat
  | .split n => (split g n).ctr
  | .aslice => (slice g).ctr

def setCtr (g : Group) (st : Stream) (n : Nat) : Group :=
  match st with
  | .split k => updSplit g k fun p => { p with ctr := n }
  | .aslice => { g with aslice := some { slice g with ctr := n } }

/-- No stream of the group issues before `stall`. -/
def setStall (g : Group) (st : Stream) (n : Nat) : Group :=
  match st with
  | .split k => updSplit g k fun p => { p with stall := max p.stall n }
  | .aslice => { g with aslice := some { slice g with stall := max (slice g).stall n } }

/-- A result or claim that was in flight when the group went on has not arrived (R399). -/
def marked (g : Group) : Bool := (g.pend.any fun p => has g.marks p.id) || g.claims.any fun c => has g.marks c.id

/-- A group issues: it runs on its core, its automatic claims have been delivered, every mark of its image is clear, and no
stop is due. -/
def groupIssues (s : State) (g : Group) : Bool :=
  g.state == .running && g.resident && (teamOf s g).placed && !g.haltDue && g.stepLeft != some 0
    && !(g.claims.any fun c => c.heir) && !marked g

/-- The resident groups of a quad, by slot. -/
def quadGroups (s : State) (c q : Nat) : List (Nat × Group) :=
  sortBy (fun a b => decide (a.2.slot ≤ b.2.slot))
    (s.groups.filter fun e => e.2.resident && e.2.quad == q && (teamOf s e.2).placed && coreOf s e.2 == c)

/-- A stream is not in a wait that something else ends, and no erasure pass holds it: the pass holds a group's splits (R133). -/
def free (g : Group) (st : Stream) : Bool :=
  (g.pass.isNone || st == .aslice) && match waitOf g st with
  | none | some .retry | some .late => true
  | _ => false

/-- A pop freezes the quad (R80). -/
def popFrozen (s : State) (c q : Nat) : Bool := (quadGroups s c q).any fun e => e.2.splits.any fun p => p.2.wait == some .pop

/-! ### One attempt to issue -/

/-- What an attempt gives: the state, and the instruction if it issued. -/
abbrev Attempt := State × Option Instr

/-- The issuing stream waits at an instruction that has not issued. -/
def heldBack (s : State) : Bool :=
  match waitOf (me s) s.who.2 with
  | some .retry | some .pop | some (.xlate _) | some (.zero _) => true
  | _ => false

/-- The issuing group has been stopped by a trap of an instruction other than TRAP and BKPT. -/
def trapped (s : State) : Bool :=
  match (me s).state with
  | .stopped t _ => t.cause != .swtrap && t.cause != .bkpt
  | _ => false

/-- The stream `st` of group `gid` tries the instruction at its program counter (R34, R44, R46). DESIGN CHOICE: a stream whose
code segment is neither resident nor loading, as after a failed reload (R35), traps SEGNP at its fetch; the manual names no
trap for it (log 42). -/
def attempt (s : State) (gid : Nat) (st : Stream) : Attempt :=
  let s := { s with who := (gid, st) }
  match fetchAt s (grp s gid) (pcOf (grp s gid) st) with
  | .outside => (trapC s .fetch, none)
  | .illegal => (after (execIllegalInstruction s) s, none)
  | .loading k => (block s (.segment k), none)
  | .absent k => (trap s { cause := .segnp, target := some k }, none)
  | .ok i _ =>
    let t := after (exec i s) s
    (t, if heldBack t || trapped t then none else some i)

/-- JOIN sets the counters of R77 itself, before it merges them (R85). -/
def merges (i : Instr) : Bool :=
  match i with
  | .join _ => true
  | _ => false

/-- IDEM opens a region (R424). -/
def opensRegion (i : Instr) : Bool :=
  match i with
  | .idem _ => true
  | _ => false

/-- What the issue of an instruction adds to its group: counters, stalls, the restart point's hold, STEP and the watchpoints
(R47, R75, R77, R406, R496, R520). A group that the instruction has stopped keeps no stall (R397). -/
def issueGroup (s : State) (i : Instr) (stall : Nat) : State :=
  updMe s fun g =>
    let st := s.who.2
    let g := if g.state == .running then setStall g st stall else g
    let g := if merges i then g else setCtr g st 0
    let g := match st with
      | .split n => updSplit g n fun p =>
          if opensRegion i then p
          else { p with restartable := p.restartable && (p.first || !regionEnds i), first := false }
      | .aslice => g
    { g with watchSkip := if g.watchSkip == some st then none else g.watchSkip, stepLeft := g.stepLeft.map (· - 1) }

/-- The streams that were ready while another issued count a cycle (R77, R320); those of a group that has stopped have counter 0
(R86). -/
def countWaiting (s : State) (ws : List (Nat × Stream)) : State :=
  ws.foldl (fun s w => updGrp s w.1 fun g => if g.state == .running then setCtr g w.2 (ctrOf g w.2 + 1) else g) s

/-- Everything that an issue adds to the instruction's effect: `s` is the state before it, `t` after it. -/
def afterIssue (s t : State) (i : Instr) (c q gid : Nat) (st : Stream) (ws : List (Nat × Stream)) : State :=
  let g := grp s gid
  let pc := pcOf g st
  let qd := quad (core s c) q
  let sc := scOf i
  let lane := laneInstr i
  let now := match st with | .split _ => qd.now | .aslice => s.clk.toNat
  let stall := if lane then (if sc = 0 then now + 1 else now + 2 + sc) else now + 1 + sc
  let t := issueGroup t i stall
  let t := match slotOf s g pc with | some (n, _) => useSlot t c n | none => t
  let t := countEvent (countWaiting t ws) c 0 1
  if st = .aslice then updQuad t c q fun k => { k with affClk := s.clk.toNat + 1 }
  else
    let co := decide (qd.clk < qd.beatEnd)
    let n := if (usesOf i).vw.any (pendsV (grp t gid)) then 0 else beatFreezes i (active g st)
    let t := updQuad t c q fun k =>
      { k with
        owed := k.owed + n, clk := qd.clk + 1, now := qd.now + 1, popFor := 0
        beatEnd := if lane then qd.clk + 3 else if co then qd.beatEnd else qd.clk + 1
        window := if lane then sc == 0 else co && qd.window
        last := some (gid, streamNo t.who.2), lastPc := pc, lastAt := s.clk.toNat + 1 }
    countEvent t c 1 ((quad (core t c) q).owed - qd.owed)

/-! ### The choice (R75, R77, R320) -/

/-- The free streams of a quad whose stall has elapsed; `aff`: those of the affine engine. -/
def candidates (s : State) (c q : Nat) (aff : Bool) : List (Nat × Group × Stream) :=
  (quadGroups s c q).flatMap fun e =>
    if groupIssues s e.2 then
      ((streams e.2).filter fun st => (st == .aslice) == aff && free e.2 st && decide (stallOf e.2 st ≤ streamNow s e.2 st)).map fun st =>
        (e.1, e.2, st)
    else []

/-- The split whose pop has frozen a quad. -/
def frozenSplits (s : State) (c q : Nat) : List (Nat × Group × Stream) :=
  (quadGroups s c q).flatMap fun e =>
    if groupIssues s e.2 then
      (e.2.splits.filter fun p => e.2.pass.isNone && p.2.wait == some .pop).map fun p => (e.1, e.2, Stream.split p.1)
    else []

/-- The rank of a candidate: the order of R77, or of R320. -/
def rank (last : Option (Nat × Nat)) (aff : Bool) (x : Nat × Group × Stream) : Nat :=
  let n := ctrOf x.2.1 x.2.2
  let top := 2 ^ 40
  if !aff && decide (256 ≤ n) then top - n
  else if !aff && last == some (x.1, streamNo x.2.2) then 2 * top
  else 4 * top - n

/-- The candidates in the order in which they are tried; ties keep slot and split order. -/
def ordered (s : State) (c q : Nat) (aff : Bool) : List (Nat × Group × Stream) :=
  let last := (quad (core s c) q).last
  sortBy (fun a b => decide (rank last aff a ≤ rank last aff b)) (candidates s c q aff)

/-- After an attempt that issued nothing, the stream was not ready: it is held by an interlock or in a long wait. One whose
instruction traps, is illegal, begins a translation check or begins to freeze the quad was ready (R76, R80). -/
def notReady (was now : Option Wait) : Bool :=
  match now with
  | some .retry | some .late | some (.segment _) | some (.zero _) => true
  | some .pop => was == some .late
  | _ => false

/-- A candidate is ready (R76); `busy`: the lane datapath is in its beats, and no lane instruction is ready. -/
def isReady (s : State) (busy : Bool) (x : Nat × Group × Stream) : Bool :=
  let lane := match fetchAt s x.2.1 (pcOf x.2.1 x.2.2) with | .ok i _ => laneInstr i | _ => false
  !(busy && lane) && match attempt s x.1 x.2.2 with
    | (_, some _) => true
    | (t, none) => !notReady (waitOf x.2.1 x.2.2) (waitOf (me t) t.who.2)

/-- The other candidates that are ready. -/
def waiters (s : State) (busy : Bool) (xs : List (Nat × Group × Stream)) (gid : Nat) (st : Stream) : List (Nat × Stream) :=
  (xs.filter fun x => !(x.1 == gid && x.2.2 == st) && isReady s busy x).map fun x => (x.1, x.2.2)

/-- A stream that has tried its instruction still waits as it did. -/
def sameWait (was now : Option Wait) : Bool :=
  match was, now with
  | some .retry, some .retry => true
  | some .pop, some .pop => true
  | some .late, some .pop => true
  | _, _ => false

/-- The first candidate that issues, or whose attempt otherwise changes the state: it comes to a wait, begins a freeze of its own
(R80), or has an emission or a write-out begun while it waits (R187, R443). -/
def tryStreams (s : State) (c q : Nat) (all : List (Nat × Group × Stream)) : List (Nat × Group × Stream) → Option State
  | [] => none
  | x :: xs =>
    match attempt s x.1 x.2.2 with
    | (t, some i) => some (afterIssue s t i c q x.1 x.2.2 (waiters s false all x.1 x.2.2))
    | (t, none) =>
      let now := waitOf (me t) t.who.2
      if sameWait (waitOf x.2.1 x.2.2) now then
        if t.parts = s.parts ∧ t.ctxs = s.ctxs then tryStreams s c q all xs else some t
      else some (if now == some .pop then updQuad t c q fun k => { k with popFor := 0 } else t)

/-- The co-issue of a beat cycle: the next instruction of the same split, of the scalar class, if it issues (R75). -/
def coIssue (s : State) (c q : Nat) : Option State :=
  let k := quad (core s c) q
  let all := candidates s c q false
  match (all.find? fun x => k.window && k.last == some (x.1, streamNo x.2.2)) with
  | none => none
  | some x =>
    match attempt s x.1 x.2.2 with
    | (t, some i) => if coClass i then some (afterIssue s t i c q x.1 x.2.2 (waiters s true all x.1 x.2.2)) else none
    | (_, none) => none

/-- The state in which a quad stands at the present cycle, with the results due written (R48). -/
def atCycle (s : State) (c q : Nat) : State :=
  let s := updQuad s c q (settleQuad s.clk.toNat)
  let now := (quad (core s c) q).now
  (quadGroups s c q).foldl (fun s e => updGrp s e.1 fun g => landDue g now s.clk.toNat) s

/-- What the compute side of a quad does at the present cycle, if anything: nothing once the address slice has acted in it, since
the compute slice's operations take effect first (R326, R400). -/
def issueMain (t : State) (c q : Nat) : Option State :=
  let k := quad (core t c) q
  if t.clk.toNat < k.clk ∨ t.clk.toNat < k.affClk then none
  else if popFrozen t c q then tryStreams t c q (ordered t c q false) (frozenSplits t c q)
  else if k.clk < k.beatEnd then coIssue t c q
  else let xs := ordered t c q false; tryStreams t c q xs xs

/-- What the affine engine of a quad does at the present cycle, if anything (R320). -/
def issueAffine (t : State) (c q : Nat) : Option State :=
  if (quad (core t c) q).affClk ≤ t.clk.toNat then (let xs := ordered t c q true; tryStreams t c q xs xs) else none

/-- What a quad or its affine engine does at the present cycle, if anything: the compute slice first (R326, R400). -/
def issueQuad (s : State) (c q : Nat) : Option State :=
  if (quadGroups s c q).isEmpty then none
  else
    let t := atCycle s c q
    match issueMain t c q with
    | some t => some t
    | none => issueAffine t c q

/-- The quads that hold groups, in ascending order. -/
def busyQuads (s : State) : List (Nat × Nat) :=
  let ks := (s.groups.filter fun e => e.2.resident && (teamOf s e.2).placed).map fun e => 4 * coreOf s e.2 + e.2.quad
  (sortBy (fun a b => decide (a ≤ b)) (ks.foldl addTo [])).map fun k => (k / 4, k % 4)

/-- The first quad that issues at the present cycle. -/
def issue (s : State) : Option State := (busyQuads s).findSome? fun x => issueQuad s x.1 x.2

end Sys2Proof.Machine
end

