-- ==== Sys2Proof/Machine/Events.lean ====
section
/-! DEFINITION. The events that the part brings about by itself, in a fixed order, and the passing of a cycle (R22, R48, R80,
R485, R517). Which enabled event comes first is the model's choice (log 2). -/

namespace Sys2Proof.Machine
open Sys2Proof

/-! ### Choices -/

/-- The state after the first of some events that is enabled. -/
def firstOf : List (Unit → Option State) → Option State
  | [] => none
  | f :: fs =>
    match f () with
    | some s => some s
    | none => firstOf fs

/-- A state under a condition. -/
def whenever (b : Bool) (f : Unit → State) : Option State := if b then some (f ()) else none

/-- A meaning's state, kept where a part of it has changed. -/
def changing {α : Type} [DecidableEq α] (view : State → α) (s t : State) : Option State := if view s = view t then none else some t

/-! ### Groups -/

/-- What one claim does next. -/
def claimEvent (s : State) (gid : Nat) (c : Claim) : Option State :=
  if c.moving.isNone then some (after (execClaimDeliver gid c.id s) s)
  else changing (fun s => (grp s gid).claims) s (after (execEstateMigrateArrive gid c.id s) s)

/-- A stream's wait that an event of its own ends. -/
def waitEvent (s : State) (gid : Nat) (st : Stream) : Option State :=
  match waitOf (grp s gid) st with
  | some (.xlate _) => some (after (execTranslationCheckDone gid (streamNo st) s) s)
  | some (.tidld _) => some (after (execTidldComplete gid (streamNo st) s) s)
  | some (.mwait (some t) _) => whenever ((grp s gid).state == .running && decide (t ≤ s.time)) fun _ => after (execMwaitTimeout gid (streamNo st) s) s
  | some (.zero ps) =>
    whenever (ps.all fun p => xlateWalk s (ctxOf s (grp s gid)) p 0 != .zero) fun _ => updGrp s gid fun g => setWait g st none
  | some .pop =>
    whenever (decide (16 ≤ (quad (core s (coreOf s (grp s gid))) (grp s gid).quad).popFor)) fun _ =>
      after (execPopFreezeExpire gid (streamNo st) s) s
  | _ => none

/-- The instruction that a stream of a group waits to issue waits in a long wait, where no interlock holds it: R76 lists
neither the waits of PHEND, EBEQ, EPIN, RREL, QPUSH, QLD and CORF, nor a CORP's wait for a SESSION command. -/
def waitsLong (s : State) (g : Group) (i : Instr) : Bool :=
  match i with
  | .phend _ _ | .ebeq _ _ | .epin _ _ | .rrel _ | .qpush _ | .qld _ | .corf _ => false
  | .corp _ => !sessionBusy s (partOf s g) (g.csess.toNat % 256)
  | _ => true

/-- A stream waits in a long wait (R76): an interlock, and the waits that end within a bounded time, are none. -/
def longWait (s : State) (gid : Nat) (st : Stream) : Bool :=
  let g := grp s gid
  match waitOf g st with
  | some .retry =>
    let t := (attempt (atCycle s (coreOf s g) g.quad) gid st).1
    let held := match fetchAt s g (pcOf g st) with | .ok i _ => interlocked g st (namedOf i) || !waitsLong s g i | _ => false
    !held && waitOf (grp t gid) st == some .retry
  | some .late =>
    let t := (attempt (atCycle s (coreOf s g) g.quad) gid st).1
    sameWait (some .late) (waitOf (grp t gid) st)
  | some (.join _) | some (.zero _) | some (.racq ..) | some (.barw ..) | some (.bred ..) | some (.mwait ..) | some (.wpop ..) | some (.segment _) => true
  | _ => false

/-- The second kind of save point of R408. -/
def waitsAll (s : State) (gid : Nat) : Bool :=
  let g := grp s gid
  g.preempt && groupIssues s g && g.pass.isNone && (streams g).all (longWait s gid)

/-- An entry that is pending: its queue and number. -/
def pendingEntry (g : Group) : Option (Nat × Nat) :=
  g.q.findSome? fun e => (e.2.find? fun x => x.pending).map fun x => (e.1, x.id)

/-- What a group does next by itself. -/
def groupEvent (s : State) (gid : Nat) : Option State :=
  let g := grp s gid
  let on := g.state == .running && g.resident
  firstOf
    [ fun _ => whenever (on && g.haltDue) fun _ => haltGroup (updGrp s gid fun g => { g with haltDue := false }) gid
    , fun _ => whenever (on && g.stepLeft == some 0) fun _ => after (execStepCountExpire gid s) s
    , fun _ => whenever (g.state == .gone && !g.abandoned.isEmpty && !(teamOf s g).placed) fun _ => runAbandoned s gid
    , fun _ => g.claims.findSome? (claimEvent s gid)
    , fun _ => (g.pend.head?).map fun p => after (execLoadReturn gid p.id s) s
    , fun _ => (streams g).findSome? (waitEvent s gid)
    , fun _ => if on then (pendingEntry g).map fun e => after (execQueueEntryFill gid e.1 e.2 s) s else none
    , fun _ => if on then (readyStream s gid).map (pushStream s gid) else none
    , fun _ => whenever (match g.pass with | some p => decide (p.due ≤ s.clk.toNat) | none => false) fun _ => after (execRfPassDone gid s) s
    , fun _ => whenever (waitsAll s gid) fun _ => saveGroup (atCycle s (coreOf s g) g.quad) gid none ]

/-! ### Cores -/

/-- The line that leaves an L1 of more than 128 KB, 2048 lines (R8): the one least recently written, of several the lowest. DESIGN
CHOICE: R248 leaves the choice open (log 8). -/
def overfull (s : State) : Option (Nat × Nat) :=
  s.cores.findSome? fun c =>
    if c.2.l1.length ≤ 2048 then none
    else (c.2.l1.foldl (fun (best : Option (Nat × Nat)) l =>
      match best with
      | none => some (l.1, l.2.seq)
      | some b => if l.2.seq < b.2 then some (l.1, l.2.seq) else best) none).map fun b => (c.1, b.1)

/-- A copy that can end, or that meets a page to be serviced. -/
def copyEvent (s : State) (c : Nat) (o : CopyOp) : Option State :=
  let go := fun (t : Tried) (f : Unit → Out) => match t with | .blocked => none | _ => some (after (f ()) s)
  if o.coll then
    match o.arrived with
    | some bs => go (tryCollective s c o bs) fun _ => execCollectiveComplete c o.id bs s
    | none => none
  else if !o.started then whenever (allIssued s o) fun _ => after (execCollectiveCopyStart c o.id s) s
  else if o.min = 5 then go (tryFetch s c o) fun _ => execCfetchDone c o.id s
  else go (tryCopy s c o) fun _ => execCopyComplete c o.id s

/-- A slot whose load can end, or a load that a stopped or waiting group wants (R32, R33). -/
def slotEvent (s : State) (c : Nat) : Option State :=
  firstOf
    [ fun _ => (core s c).slots.findSome? fun x =>
        if x.2.st == .loading then (match tryLoad s c x.1 with | .blocked => none | _ => some (after (execSegmentLoadDone c x.1 s) s)) else none
    , fun _ => match missingSeg s c false, chooseSlot s c with
        | some _, some n => some (after (execSegmentLoadDone c n s) s)
        | _, _ => none ]

/-- An operation of an engine, and the cycle it waits for has come (R357). -/
def engineDue (s : State) (o : Option MatOp) (cycle : MatOp → Nat) : Bool :=
  match o with
  | some o => decide (cycle o ≤ s.clk.toNat)
  | none => false

/-- What a matrix engine does next: its head commits once all its steps are over, the operation under way begins its next step, or the
next one begins. -/
def engineEvent (s : State) (c eng : Nat) : Option State :=
  let head := (engHead s c eng).filter fun o => o.started && !stepsLeft o
  firstOf
    [ fun _ => whenever ((engQ (core s c) eng).any fun o => o.committed) fun _ => after (execAccdrnComplete c eng s) s
    , fun _ => whenever (engineDue s ((engLast s c eng).filter stepsLeft) (·.next)) fun _ => nextStep s c eng
    , fun _ => whenever (engineDue s head (·.due)) fun _ => after (execMatrixCommit c eng s) s
    , fun _ => whenever (engineDue s (engNext s c eng) (·.ready) && canStart s c eng) fun _ => after (execMatrixOpStart c eng s) s ]

/-- The Paddock's next step: the record of a ready phase is fetched, or the first phase that can resumes (R206, R207), or
a write-out of the Hayloft ends (R187). -/
def paddockEvent (s : State) (c : Nat) : Option State :=
  let can := fun gid => phaseReady s gid && (resumePlace s gid).isSome
  firstOf
    [ fun _ => ((phaseOrder s c).find? fun gid => can gid && recordHere s gid).map fun gid => after (execPaddockResume gid s) s
    , fun _ => ((phaseOrder s c).find? can).map fun gid => after (execPhaseRecordFetchDone gid s) s
    , fun _ => whenever (!(core s c).outgoing.isEmpty) fun _ => after (execHayloftWriteOutDone c s) s ]

/-- What a core does next by itself. -/
def coreEvent (s : State) (c : Nat) : Option State :=
  firstOf
    [ fun _ => (core s c).copies.findSome? (copyEvent s c)
    , fun _ => slotEvent s c
    , fun _ => engineEvent s c 0
    , fun _ => engineEvent s c 1
    , fun _ => paddockEvent s c
    , fun _ => whenever (freezeOver s c) fun _ => after (execFreezeTimeout c s) s ]

/-! ### The walker, the scheduler and the queues -/

/-- The events that the walker has applied, and the nodes that it has started, in this cycle. -/
def walked (s : State) (p : Nat) : Nat × Nat := if (part s p).walkAt = s.clk.toNat then ((part s p).applied, (part s p).started) else (0, 0)

/-- The walker has applied so many events more in this cycle, and started so many nodes. -/
def countWalk (s : State) (p events starts : Nat) : State :=
  let (a, b) := walked s p
  updPart s p fun q => { q with walkAt := s.clk.toNat, applied := a + events, started := b + starts }

/-- A node that has completed, in ascending index; four events of the walker fit in a cycle (R485). -/
def nodeEvent (s : State) (p : Nat) : Option State :=
  if 4 ≤ (walked s p).1 then none
  else
    (part s p).graphs.findSome? fun e =>
      ((List.range e.2.nodes.length).find? (nodeDone s p e.1)).map fun n => countWalk (after (execGraphNodeComplete p e.1 n 0 s) s) p 1 0

/-- The head of the ready queue starts, one node in a cycle (R492). -/
def startEvent (s : State) (p : Nat) : Option State :=
  whenever (decide ((walked s p).2 = 0) && (readyHead s p).isSome) fun _ => countWalk (after (execGraphNodeStart p s) s) p 0 1

/-- A GSIG that waits, in ascending (logical core, quad, group), after every completion of a node of the cycle (R485). -/
def gsigEvent (s : State) : Option State :=
  let ws := (s.groups.filter fun e => decide ((walked s (partOf s e.2)).1 < 4)).flatMap fun e =>
    ((streams e.2).filter fun st => match waitOf e.2 st with | some (.gsig _) => true | _ => false).map fun st =>
      (((coreOf s e.2) * 4 + e.2.quad) * 8 + e.2.slot, e.1, st)
  ((sortBy (fun a b => decide (a.1 ≤ b.1)) ws).head?).map fun x =>
    countWalk (after (execGsigApplied x.2.1 (streamNo x.2.2) s) s) (partOf s (grp s x.2.1)) 1 0

/-- A waiting command's next step. -/
def commandEvent (s : State) (p : Nat) (c : Command) : Option State :=
  match c.cmd with
  | 4 => some (after (execTlbInvalDone p c.id s) s)
  | 5 => some (after (execPageZeroDone p (c.args.getD 0 0) (c.args.getD 1 0) s) s)
  | _ => stepCommand s p c

/-- The packet that a queue starts next. -/
def packetEvent (s : State) (p q : Nat) : Option State :=
  firstOf
    [ fun _ => (waitPackets s p q).findSome? fun x =>
        if (pollWait s p q x.words).isSome then some (after (execWaitPoll p q x.index s) s) else none
    , fun _ => (heldPacket s p q).map (resumePacket s p q)
    , fun _ => whenever (packetWaits s p q) fun _ => startPacket s p q ]

/-- A placed team has run for its quantum while a launch of its level from another context finds no room (R474). -/
def quantumDue (s : State) (p : Nat) : Option Nat :=
  let q := part s p
  let stuck := q.runlist.filter fun e => match tryEntry s e with | .noRoom => true | _ => false
  let ctxOfEntry := fun (e : RunEntry) => match e with | .launch id => (launch s id).ctx | .team id => (launch s (team s id).launch).ctx
  (s.teams.find? fun t =>
    let l := launch s t.2.launch
    t.2.placed && !t.2.ended && !t.2.preempt && l.part == p && decide (q.quantum * 1000 ≤ (s.time - t.2.since).toNat)
      && stuck.any fun e => entryLevel s e == l.level && ctxOfEntry e != l.ctx).map (·.1)

/-- What a partition does next by itself. -/
def partEvent (s : State) (p : Nat) : Option State :=
  let q := part s p
  firstOf
    [ fun _ => (q.migrations.find? fun m => !migrationZp s m).map fun m => after (execMigrationComplete p m.id s) s
    , fun _ => nodeEvent s p
    , fun _ => ((part s p).graphs.find? fun e => requestReady s p e.1).map fun e => settleWalk p e.1 18 (takeRequest p e.1 17 s)
    , fun _ => startEvent s p
    , fun _ => q.commands.findSome? (commandEvent s p)
    , fun _ => (q.queues.map (·.1)).findSome? (packetEvent s p) ]

/-- What the scheduler core of a partition does next, after all that the walker does in the cycle (R492). -/
def scheduleEvent (s : State) (p : Nat) : Option State :=
  firstOf
    [ fun _ => (scanInTheWay s p).map fun c => after (execScanAbort c s) s
    , fun _ => (scanNow s p).map fun c => after (execCoreScanStart c s) s
    , fun _ => schedule s p
    , fun _ => (quantumDue s p).map fun t => after (execQuantumExpire t s) s ]

/-! ### Launches and teams -/

/-- A launch's next round, its ordered sums, or its completion. -/
def launchEvent (s : State) (id : Nat) : Option State :=
  let l := launch s id
  if l.done then none
  else
    firstOf
      [ fun _ => whenever (rerunDue s id) fun _ => after (execRerunRound id s) s
      , fun _ => whenever (launchEnded s id && !l.applied) fun _ => after (execOrderedAddApply id s) s
      , fun _ => whenever (completes s id) fun _ => after (execLaunchComplete id s) s ]

/-- A team leaves its core, or its groups are forced to stop 20 µs after the request (R409, R411). -/
def teamEvent (s : State) (id : Nat) : Option State :=
  let t := team s id
  firstOf
    [ fun _ => if canLeave s id then changing (fun s => (team s id).placed) s (after (execTeamSaveDone id s) s) else none
    , fun _ => whenever (t.placed && t.preempt && decide (20000 ≤ (s.time - t.asked).toNat)
        && t.groups.any fun gid => let g := grp s gid; g.preempt && g.resident && g.state == .running) fun _ => after (execHintTimeout id s) s ]

/-- The first event that the part brings about. -/
def event (s : State) : Option State :=
  firstOf
    [ fun _ => (s.groups.map (·.1)).findSome? (groupEvent s)
    , fun _ => (s.cores.map (·.1)).findSome? (coreEvent s)
    , fun _ => (s.teams.map (·.1)).findSome? (teamEvent s)
    , fun _ => (heldReady s).map (performHeld s)
    , fun _ => (s.parts.map (·.1)).findSome? (partEvent s)
    , fun _ => (s.launches.map (·.1)).findSome? (launchEvent s)
    , fun _ => gsigEvent s
    , fun _ => (s.parts.map (·.1)).findSome? (scheduleEvent s) ]

/-! ### A cycle (R22, R80) -/

/-- A quad that a pop has frozen loses the cycle. -/
def freezeCycle (s : State) (x : Nat × Nat) : State :=
  if popFrozen s x.1 x.2 then
    let s := updQuad s x.1 x.2 fun q => let q := settleQuad s.clk.toNat q; { q with clk := q.clk + 1, popFor := q.popFor + 1 }
    countEvent s x.1 1 1
  else updQuad s x.1 x.2 fun q => { q with popFor := 0 }

/-- Samples due in this cycle (R517). -/
def sampleAll (s : State) : State :=
  s.parts.foldl
    (fun s p =>
      if p.2.tctl.getLsbD 1 && s.clk.toNat % 2 ^ (p.2.tctl.toNat / 2 ^ 8 % 32) == 0 then after (execTraceSample p.1 s) s else s) s

/-- Time that passes in a cycle because issue slots are withheld: none while the part is not throttled. Results, orders and
counts of CLK do not change (R24). How much is a free value (log 56). -/
def throttleTime (s : State) : State :=
  if s.throttled || s.hot then
    { s with time := s.time + (Config.freeByte s.fresh).setWidth 64, fresh := s.fresh + 1 }
  else s

/-- Notes when FREEZE begins to hold a copy engine, and when it ends (R422). -/
def freezeTimes (s : State) : State :=
  { s with cores := s.cores.map fun e =>
      (e.1, { e.2 with frozenAt := if engineFrozen s e.1 then some (e.2.frozenAt.getD s.time) else none }) }

/-- The next cycle. TIME counts ten nanoseconds in seventeen cycles, as the clock's rate gives (R22, log 10). -/
def tick (s : State) : State :=
  let s := throttleTime (freezeTimes s)
  let s := sampleAll ((busyQuads s).foldl freezeCycle s)
  let n := s.clk.toNat
  let s := { s with clk := s.clk + 1, time := s.time + BitVec.ofNat 64 ((n + 1) * 10 / 17 - n * 10 / 17) }
  countTimes s

/-! ### One step -/

/-- Events that the management core serves with no core released (R538, R541). -/
def managed (i : Instr) : Bool :=
  match i with
  | .partStart _ => true
  | .powerFail _ _ => true
  | .powerLimitSet _ => true
  | .powerOverLimit => true
  | .tempThrottle => true
  | .tempShutdown => true
  | .throttleEnd => true
  | .getVersion => true
  | .getCapabilities => true
  | .negotiateAlgorithms => true
  | .getDigests => true
  | .getCertificate => true
  | .challenge _ => true
  | .getMeasurements => true
  | .hostRead .pf0 _ _ _ => true
  | .hostRead .memory _ _ _ => true
  | .hostWrite .memory _ _ => true
  | _ => false

/-- Events that reach a part whose operation has ended, or go past it: what the host does with its own memory. -/
def revives (i : Instr) : Bool :=
  match i with
  | .partStart _ => true
  | .powerFail _ _ => true
  | .hostRead .memory _ _ _ => true
  | .hostWrite .memory _ _ => true
  | _ => false

/-- The event is served in the part's present condition. -/
def serves (p : Power) (i : Instr) : Bool :=
  match p with
  | .running => true
  | .managementOnly => managed i
  | .off | .clockStopped => revives i

/-- A request outside the part that was to fail has been made (R527): only HOST_REQUEST_ERROR leaves the mark for the next step. -/
def isRequestError (i : Instr) : Bool :=
  match i with
  | .hostRequestError _ _ => true
  | _ => false

/-- The next event from outside. -/
def external (s : State) (i : Instr) (rest : List Instr) : State :=
  let s := { s with agenda := rest }
  if serves s.power i then
    let t := after (exec i s) s
    if isRequestError i then t else { t with hostErr := [] }
  else s

/-- The first step of a waiting emission, the Corrals in ascending die: what they push comes before any WPUSH of the cycle (R443,
R447). -/
def emissionEvent (s : State) (p : Nat) : Option State :=
  (sortBy (fun (a b : Emission) => decide (a.die ≤ b.die)) (part s p).emissions).findSome? fun e =>
    if (stepEmission s p e).isSome then some (after (execCorralEmitResume p e.id s) s) else none

/-- What comes before any issue: an L1 that holds too much evicts a line, or an emission goes on. -/
def beforeIssue (s : State) : Option State :=
  firstOf
    [ fun _ => (overfull s).map fun x => after (execL1Eviction x.1 x.2 s) s
    , fun _ => (s.parts.map (·.1)).findSome? (emissionEvent s) ]

/-- What the part does next with nothing to come from outside: the start in progress goes on; else what comes before any issue, an issue, an
event, or the next cycle. -/
def internal (s : State) : State :=
  match s.boot with
  | some b => bootStep s b
  | none =>
  if s.power = .running then
    let t := firstOf [fun _ => beforeIssue s, fun _ => issue s, fun _ => event s]
    match t with
    | some t => { t with hostErr := [] }
    | none => tick s
  else tick s

end Sys2Proof.Machine
end

