-- ==== Sys2Proof/Machine/Fixture.lean ====
section
/-! DEFINITION. Placing an instruction where the next step fetches it, in a running part or in one that runs nothing (log 3). -/

namespace Sys2Proof.Machine
open Sys2Proof

/-- The quad and the stream that `issue` tries first. -/
def nextStream (s : State) : Option (Nat × Nat × Nat × Stream) :=
  (busyQuads s).findSome? fun x =>
    let t := atCycle s x.1 x.2
    let k := quad (core t x.1) x.2
    let pick := fun (aff : Bool) => (ordered t x.1 x.2 aff).head?.map fun y => (x.1, x.2, y.1, y.2.2)
    let main := if s.clk.toNat < k.clk ∨ s.clk.toNat < k.affClk ∨ k.clk < k.beatEnd ∨ popFrozen t x.1 x.2 then none else pick false
    if main.isSome then main else if k.affClk ≤ s.clk.toNat then pick true else none

/-- The overlay slot, and the offset in it, of the instruction that the next step fetches. -/
def fetchSpot (s : State) : Option (Nat × Nat × Nat) :=
  match nextStream s with
  | none => none
  | some (c, _, gid, st) =>
    match placeOf s (grp s gid) (pcOf (grp s gid) st) with
    | some (_, seg, off) =>
      if off + 12 ≤ seg.len then
        match slotFor s c (ctxOf s (grp s gid)) seg.base with
        | some (n, sl) => if sl.st = .resident then some (c, n, off) else none
        | none => none
      else none
    | none => none

/-- The kernel of a placed program: one segment, all sixty registers. -/
def plainKernel : Kernel := { segs := [{ base := 0, len := 4096, preload := true }], regs := 60, nbar := 1, roles := [1] }

/-- A part that runs one group of one lane on core 0, whose segment 0 lies in overlay slot 31; what `s` holds else stays. -/
def withGroup (s : State) : State :=
  let id := s.nextId
  let sl : Slot := { st := .resident, ctx := id, base := 0, len := 4096 }
  let g : Group :=
    { state := .running, team := id, resident := true, rbase := 60, items := 1, splits := [(0, { members := 1, am := 1 })] }
  let k := core s 0
  { s with
    power := .running, nextId := id + 1
    groups := mapPut (s.groups.map fun e => (e.1, if coreOf s e.2 = 0 && e.2.quad == 0 then { e.2 with resident := false } else e.2)) id g
    teams := mapPut s.teams id { launch := id, span := id, core := 0, placed := true, groups := [id] }
    spans := mapPut s.spans id { launch := id, teams := [id] }
    launches := mapPut s.launches id { ctx := id, kernel := plainKernel, wi := 1, spans := 1 }
    ctxs := mapPut s.ctxs id { live := true }
    parts := mapPut s.parts 0 { part s 0 with running := true }
    cores := mapPut s.cores 0
      { k with released := true, slots := mapPut k.slots 31 sl, quads := mapPut k.quads 0 { clk := s.clk.toNat } } }

/-- Bytes over an overlay slot. -/
def patchSlot (s : State) (c n off : Nat) (bs : List Byte) : State :=
  updCore s c fun k => { k with slots := mapPut k.slots n (let sl := mapGetD k.slots n {}; { sl with bytes := setBytes sl.bytes off bs }) }

/-- The instruction whose bits are `w`, with zeros above, where the next step fetches. -/
def placeWord (s : State) (nbits w : Nat) : State :=
  let s := { s with agenda := [] }
  let s := if (fetchSpot s).isSome && s.power == .running then s else withGroup s
  match fetchSpot s with
  | some (c, n, off) => patchSlot s c n off (leBytes (w % 2 ^ nbits) 12)
  | none => s

end Sys2Proof.Machine
end

