-- ==== Sys2Proof/Machine/Step.lean ====
section
/-! DEFINITION. One step of the part: the next event from outside; else an issue, an event of its own, or the next cycle. -/

namespace Sys2Proof.Machine
open Sys2Proof

/-- The step. -/
def step (s : State) : Host.Outcome State Fault Refusal :=
  match s.agenda with
  | i :: rest => .next (showEntries s (external s i rest))
  | [] =>
    match s.power with
    | .running | .managementOnly => .next (showEntries s (internal s))
    | .off | .clockStopped => .fault .notRunning

/-- The instruction of `nbits` bits `w` stands where the next step fetches. -/
def State.withFetchWord (s : State) (nbits w : Nat) : State := placeWord s nbits w

end Sys2Proof.Machine
end

