-- ==== Sys2Proof/Safety.lean ====
section
/-! DEFINITION. What the statements speak of: a well-formed memory, an instruction that nothing holds back, and what an
instruction leaves as it was. -/

namespace Sys2Proof.Machine
open Sys2Proof

/-! ### Memory -/

/-- The bytes of memory stand in their canonical form: addresses strictly rising, and no entry equal to what an unlisted
address reads as. -/
abbrev Memory.wf (m : Cells 8) : Prop := cellsWf m = true

/-- A safe state: its memory is in canonical form. -/
abbrev State.Safe (s : State) : Prop := Memory.wf s.mem

/-- The byte that a core sees at an address: in its L1 where that holds the line, else at its home. -/
def seen (s : State) (c a : Nat) : Byte := (coreRead s c a 1 false).2.headD 0

/-! ### Ready instructions -/

/-- The stream that issues exists: a split of its group, or the group's address slice. -/
def hasStream (s : State) : Bool :=
  match s.who.2 with
  | .split n => (mapGet (me s).splits n).isSome
  | .aslice => (me s).aslice.isSome

/-- Nothing holds the instruction back before its effect: the slice may issue it (R106, R321), the group holds the
registers it names (R124), no interlock is open (R50), the checking scoreboard finds no early read (R52), and the
store-data queue it pushes has room (R330). -/
def ready (s : State) (i : Instr) : Bool :=
  let g := me s
  let st := s.who.2
  let u := usesOf i
  hasStream s && !wrongSlice g st i && !overReach g u && !interlocked g st (namedOf i)
    && !(scores s g && readsEarly g st (readsOf i)) && !pushBlocked g st u

/-- What follows the effect `r` of a lane instruction issued in `s`: the stream goes on, what it popped is gone where
Active(g) is not empty, and the lanes `bad` die. -/
def laneDone (s r : State) (i : Instr) (bad : Lanes) : State :=
  takePops (advance r (lenOf i)) (usesOf i) (active (me s) s.who.2) bad

/-- The lanes in which a lane instruction acts: Active(g), but for those whose queue entry is poisoned. -/
def acting (s : State) (bad : Lanes) : Lanes := active (me s) s.who.2 &&& ~~~ bad

/-! ### What stays as it was -/

/-- Only groups differ. -/
def OnlyGroups (s t : State) : Prop := t = { s with groups := t.groups }

/-- Only the issuing group differs. -/
def OnlyMine (s t : State) : Prop := OnlyGroups s t ∧ ∀ id, id ≠ s.who.1 → grp t id = grp s id

/-- Every scalar register of the issuing stream but those listed reads as before. -/
def KeepsScalars (s t : State) (ds : List Nat) : Prop :=
  ∀ r, r ∉ ds → readS (me t) s.who.2 r = readS (me s) s.who.2 r

/-- Every lane of every vector register but those listed reads as before. -/
def KeepsVectors (s t : State) (ds : List Nat) : Prop :=
  ∀ k i, k ∉ ds → i < 96 → readV (me t) k i = readV (me s) k i

/-- The issuing group keeps everything but its registers, its results in flight and its streams' positions: special
registers, queues, counters, windows, bindings, its state. -/
def KeepsGroup (s t : State) : Prop :=
  me t = { me s with sregs := (me t).sregs, vregs := (me t).vregs, fly := (me t).fly, splits := (me t).splits
                     aslice := (me t).aslice }

/-- The splits that do not issue are as before. -/
def KeepsSplits (s t : State) : Prop := ∀ n, s.who.2 ≠ .split n → split (me t) n = split (me s) n

/-- Every byte of memory reads as before. -/
def KeepsBytes (s t : State) : Prop := ∀ a, cellGet t.mem a = cellGet s.mem a

/-- The issuing stream stands `len` bytes on, and waits for nothing. -/
def GoesOn (s t : State) (len : Nat) : Prop :=
  pcOf (me t) s.who.2 = nextPc (pcOf (me s) s.who.2) len ∧ waitOf (me t) s.who.2 = none

/-- A result of the issuing stream for scalar `r` is in flight: it arrives `lat` of the stream's cycles after the issue, and is
interlocked until then (R50, R146). -/
def Arrives (s t : State) (r : Nat) (v : Word) (lat : Nat) : Prop :=
  ∃ f ∈ (me t).fly, f.lock = true ∧ f.due = streamNow s (me s) s.who.2 + lat ∧ f.w.isV = false ∧ f.w.reg = r
    ∧ f.w.stream = s.who.2 ∧ cellGet f.w.vals 0 = v

end Sys2Proof.Machine
end

