-- ==== Sys2Proof/Certificates/Slice0/Obligations.lean ====
section
/-! DEFINITION. The statements for the provers, on the VJ-9's rules as the spec numbers them. A statement that rests on a row
of the assumption log names the row. -/

open Sys2Proof Sys2Proof.Machine

/-! ### The machine -/

/-- The part right after reset is off: memory lists nothing, no clock has counted, and no launch, group or context
exists. A group that no placement has made reads zero in every register; the special registers have the values of R297,
R319, R375 and R433. (Zeros that no rule gives: log 11.) -/
def Obligations.ResetState : Prop :=
  let s := State.reset
  s.Safe ∧ s.power = .off ∧ s.mem = [] ∧ s.poison = [] ∧ s.clk = 0 ∧ s.time = 0 ∧ s.powerLimit = 4500 ∧ s.attempt = 0
    ∧ s.journal = [] ∧ s.meas = [] ∧ s.parts = [] ∧ s.ctxs = [] ∧ s.launches = [] ∧ s.groups = [] ∧ s.agenda = []
    ∧ ∀ (gid r i : Nat) (st : Stream), let g := grp s gid
      readS g st r = 0 ∧ readV g r i = 0 ∧ g.dri = 16 ∧ g.dprec = 3 ∧ g.dstat = 0xE0000000 ∧ g.slip = 32 ∧ g.qloss = 0
        ∧ g.cring = 0 ∧ g.csess = 0 ∧ g.tcause = 0 ∧ g.repro = 0 ∧ g.seed = 0 ∧ g.rext = 0 ∧ classCount g r = 0

/-- The model has a next state for every instruction and every event, whatever the state: none of its meanings stops. -/
def Obligations.EveryInstructionAnswers : Prop :=
  ∀ (i : Instr) (s : State), ∃ t, exec i s = .next t

/-- The decoder reads words built from the layouts of R38 to R40 as the instructions the opcode map gives them: one of
each format, with fields whose bits are not symmetrical, and two that are not legal. -/
def Obligations.DecodedWords : Prop :=
  let head := fun b a d ty mi maj sc : Nat => 2^26*b + 2^20*a + 2^14*d + 2^12*ty + 2^9*mi + 2^3*maj + 2*sc + 1
  let jump := fun off s mi maj : Nat => 2^18*off + 2^12*s + 2^9*mi + 2^3*maj + 1
  let long := fun hi d lo maj : Nat => 2^20*hi + 2^14*d + 2^9*lo + 2^3*maj + 1
  let short := fun b d op : Nat => [BitVec.ofNat 16 (2^11*b + 2^5*d + 2*op)]
  let halves := fun w : Nat => [BitVec.ofNat 16 w, BitVec.ofNat 16 (w / 65536)]
  decode (halves (head 6 4 2 2 1 0x00 0)) = .ok (.ssub ⟨6, 4, 2, 2, 0⟩) 2
    ∧ decode (halves (head 33 9 7 0 0 0x02 3)) = .ok (.saddImm ⟨33, 9, 7, 0, 3⟩) 2
    ∧ decode (halves (long 0x801 5 3 0x05)) = .ok (.sli ⟨0x10023, 5, 0⟩) 2
    ∧ decode (halves (jump 0x2003 12 3 0x08)) = .ok (.call ⟨0x2003, 12, 0⟩) 2
    ∧ decode (halves (head 4 8 16 1 3 0x20 1)) = .ok (.vld 3 ⟨4, 8, 16, 1, 1⟩) 2
    ∧ decode (halves (head 35 17 61 0 7 0x10 0)) = .illegal
    ∧ decode (halves (head 35 17 59 0 7 0x10 0)) = .ok (.vmad ⟨35, 17, 59, 0, 0⟩) 2
    ∧ decode (short 21 38 13) = .ok (.vfmul_16 ⟨21, 38⟩) 1
    ∧ decode (halves (head 4 2 6 0 0 0x30 0) ++ halves (2^24*5 + 2^18 + 2^11*3)) = .ok (.cpy ⟨4, 2, 6, 0, 0⟩ 0x05041800) 4
    ∧ decode (halves (head 1 2 3 0 0 0x0C 0) ++ halves 0x12345678 ++ halves 9) = .ok (.phint ⟨1, 2, 3, 0, 0⟩ 0x12345678 9) 6
    ∧ decode (halves (head 1 2 3 0 0 0x0C 0) ++ halves 0x12345678) = .short
    ∧ decode (halves (head 0 0 0 0 0 0x0D 0)) = .illegal

/-- Decoding undoes encoding: every well-formed instruction, whatever halfwords follow it, is read back with every
operand. -/
def Obligations.EncodeDecode : Prop :=
  ∀ (i : Instr) (rest : List (BitVec 16)), i.wellFormed = true → decode (encode i ++ rest) = .ok i (encode i).length

/-- Encoding undoes decoding: whatever the decoder accepts, its halfwords are the encoding of what it answered, which is
well-formed, so no bit of an accepted instruction goes unread. -/
def Obligations.DecodeEncode : Prop :=
  ∀ (hs : List (BitVec 16)) (i : Instr) (n : Nat), decode hs = .ok i n → i.wellFormed = true ∧ encode i = hs.take n

/-- With no event from outside due, no start in progress and nothing that comes before any issue, a running part whose first busy
quad may issue at this cycle, and whose first candidate finds a resident instruction `i` at its program counter, executes exactly
`i` for that stream: the step is exec of `i`, the issue's own additions (counters, stall, beats, freezes) around it, and what `i`
changed of a context's two tables shown in memory (the model's choice: log 35). -/
def Obligations.StepRunsDecoded : Prop :=
  ∀ (s : State) (c q gid k off slot n : Nat) (st : Stream) (g : Group) (seg : Seg) (sl : Slot) (i : Instr),
    s.agenda = [] → s.power = .running → s.boot = none → beforeIssue s = none → (busyQuads s).head? = some (c, q) →
    (quadGroups s c q).isEmpty = false →
    let t := atCycle s c q
    (quad (core t c) q).clk ≤ t.clk.toNat → (quad (core t c) q).affClk ≤ t.clk.toNat → (quad (core t c) q).beatEnd ≤ (quad (core t c) q).clk → popFrozen t c q = false →
    (ordered t c q false).head? = some (gid, g, st) →
    placeOf t (grp t gid) (pcOf (grp t gid) st) = some (k, seg, off) →
    slotFor t (coreOf t (grp t gid)) (ctxOf t (grp t gid)) seg.base = some (slot, sl) → sl.st = .resident →
    readCode (bytesAt sl.bytes off (Nat.min 12 (seg.len - off))) = .ok i n →
    let u := { t with who := (gid, st) }
    heldBack (after (exec i u) u) = false → trapped (after (exec i u) u) = false →
    let r := afterIssue t (after (exec i u) u) i c q gid st (waiters t false (ordered t c q false) gid st)
    step s = .next (showEntries s { r with hostErr := [] })

/-- An event from outside is served before anything the part does by itself: the step is exec of the event, on the state
with the event taken, and what it changed of a context's two tables is shown in memory (log 35). A mark that the next request
outside fails lasts until the next step. A part that is off, or whose clock has stopped, does nothing by itself: the step is the
fault notRunning. An event that cannot revive it is taken and changes nothing; one that management firmware alone does not serve
is taken so in management-only mode. That an event from outside comes first is the model's choice (log 2), and so is the fault
notRunning (log 3). -/
def Obligations.StepServesEvents : Prop :=
  (∀ (s : State) (i : Instr) (rest : List Instr), s.agenda = i :: rest → serves s.power i = true →
      let u := { s with agenda := rest }
      step s = .next (showEntries s (if isRequestError i then after (exec i u) u else { after (exec i u) u with hostErr := [] })))
    ∧ (∀ s : State, s.power = .off ∨ s.power = .clockStopped →
      (s.agenda = [] → step s = .fault .notRunning)
        ∧ ∀ i rest, s.agenda = i :: rest → revives i = false → step s = .next { s with agenda := rest })
    ∧ (∀ (s : State) (i : Instr) (rest : List Instr), s.agenda = i :: rest → s.power = .managementOnly → managed i = false →
        step s = .next { s with agenda := rest })

/-- Every step keeps the canonical form of memory. -/
def Obligations.StepKeepsMemory : Prop :=
  ∀ s t : State, s.Safe → step s = .next t → t.Safe

/-! ### Registers -/

/-- R101, R71, R106: s0 reads as zero and its writes are discarded; s1 to s60 of a group read what was last written; a
write to s61, s62 or s63 writes the value ANDed with the split's membership, in that split only; the address slice has a
file of its own. A write leaves every other register as it was. R102, R103: a pair holds its low half in the even
register, a triple bit i in register i / 32; writing a pair writes both halves. R128, R130: a write to a vector register
changes it in the living lanes of the set written and nowhere else; a cross-lane read gives zero for a dead lane and
from lane 96 up, and the stored word otherwise. -/
def Obligations.RegisterFiles : Prop :=
  (∀ (g : Group) (n r : Nat) (v : Word),
      let p : Stream := .split n
      (∀ st, readS g st 0 = 0 ∧ readS (writeS g st 0 v) st r = readS g st r)
        ∧ (1 ≤ r → r ≤ 60 → readS (writeS g p r v) p r = v)
        ∧ (61 ≤ r → r ≤ 63 → (mapGet g.splits n).isSome →
            readS (writeS g p r v) p r = v &&& beatOf (split g n).members (r - 61)
              ∧ ∀ m, m ≠ n → split (writeS g p r v) m = split g m)
        ∧ (1 ≤ r → readS (writeS g .aslice r v) .aslice r = v
            ∧ (∀ k, readS (writeS g .aslice r v) p k = readS g p k)
            ∧ (g.aslice.isSome → ∀ k, readS (writeS g p r v) .aslice k = readS g .aslice k))
        ∧ (∀ st k, k ≠ r → (k ≤ 63 ∧ r ≤ 63) → readS (writeS g st r v) st k = readS g st k))
    ∧ (∀ (g : Group) (st : Stream) (r i : Nat) (v : Addr),
      (readPair g st r).extractLsb' 0 32 = readS g st r ∧ (readPair g st r).extractLsb' 32 32 = readS g st (r + 1)
        ∧ (i < 96 → (readTriple g st r).getLsbD i = (readS g st (r + i / 32)).getLsbD (i % 32))
        ∧ (2 ≤ r → r + 1 ≤ 60 → ∀ n, readPair (writePair g (.split n) r v) (.split n) r = v)
        ∧ (∀ n, readS (writePair g (.split n) 0 v) (.split n) 1 = v.extractLsb' 32 32))
    ∧ (∀ (g : Group) (k i j l : Nat) (lanes : Lanes) (f : Nat → Word), i < 96 → l < 96 →
      (readV (writeV g k lanes f) k i = if lanes.getLsbD i && !g.dead.getLsbD i then f i else readV g k i)
        ∧ (j ≠ k → readV (writeV g k lanes f) j l = readV g j l)
        ∧ (∀ n, crossV g k n = if 96 ≤ n ∨ g.dead.getLsbD n then 0 else readV g k n))

/-- R48, R51: a result of fixed latency leaves every register as it was, and lands when its quad's unfrozen cycles reach
the issue's count plus the latency: neither earlier, nor from a younger write of the register backwards. -/
def Obligations.FixedLatency : Prop :=
  ∀ (s : State) (n d lat now clk : Nat) (v w : Word), 1 ≤ d → d ≤ 60 →
    let s := { s with who := (s.who.1, .split n) }
    let t := me (flyS (updMe s fun g => { g with fly := [] }) (.split n) d v lat)
    (∀ st r, readS t st r = readS (me s) st r)
      ∧ (now < nowOf s (me s) + lat → readS (landDue t now clk) (.split n) d = readS (me s) (.split n) d)
      ∧ (nowOf s (me s) + lat ≤ now → readS (landDue t now clk) (.split n) d = v)
      ∧ readS (landDue (writeS t (.split n) d w) now clk) (.split n) d = w

/-- R145, R146, R123: RACQ past the end of the file or of the pool traps RFOVER; its try form is refused while a request
waits or too few blocks are free; a grant takes blocks, all zero, from the pool, and its result is an interlocked write of sD 8
cycles later; otherwise the split waits in the pool's order. RREL returns the highest blocks; RQRY reads the four counts, with
its result 2 cycles later. (A refused try writes sD at once: log 10.) -/
def Obligations.RegisterBlocks : Prop :=
  ∀ (f : Head) (s : State) (n : Nat),
    let g := me s
    let k := f.b.toNat
    let p := poolOf (teamOf s g) g.quad
    let past := (60 - g.rbase) / 4 < g.rext + k ∨ p.size < k
    let pool := fun (t : State) => poolOf (team t g.team) g.quad
    s.who.2 = .split n →
      (ready s (.racq f) = true →
        (past → exec (.racq f) s = .next (trapC s .rfover))
          ∧ (¬ past → f.ty = 1 → (p.waiting ≠ [] ∨ p.free < k) →
              exec (.racq f) s = .next (advance (scalResult s f.d.toNat (0x80000000 ||| BitVec.ofNat 32 g.rext) 1) 4))
          ∧ (¬ past → p.waiting = [] → k ≤ p.free → g.state = .running → ∃ t, exec (.racq f) s = .next t
              ∧ (me t).rext = g.rext + k ∧ (pool t).free = p.free - k ∧ (pool t).waiting = [] ∧ GoesOn s t 4
              ∧ Arrives s t f.d.toNat (BitVec.ofNat 32 (g.rext + k)) 8
              ∧ ∀ j l, topReg g ≤ j → j < topReg g + 4 * k → l < 96 → readV (me t) j l = 0)
          ∧ (¬ past → f.ty ≠ 1 → p.waiting = [] → p.free < k → ∃ t, exec (.racq f) s = .next t
              ∧ waitOf (me t) s.who.2 = some (.racq k f.d) ∧ pcOf (me t) s.who.2 = pcOf g s.who.2 ∧ (me t).rext = g.rext
              ∧ (pool t).waiting = [(s.who.1, n, k, f.d)] ∧ (pool t).free = p.free))
        ∧ (ready s (.rrel f) = true →
          (g.rext < k → exec (.rrel f) s = .next (trapC s .rfover))
            ∧ (k ≤ g.rext → p.waiting = [] → (∀ j, topReg g - 4 * k ≤ j → j < topReg g → pendsV g j = false) →
                ∃ t, exec (.rrel f) s = .next t ∧ (me t).rext = g.rext - k ∧ (pool t).free = p.free + k ∧ GoesOn s t 4
                  ∧ ∀ j l, j < topReg g - 4 * k → l < 96 → readV (me t) j l = readV g j l))
        ∧ (ready s (.rqry f) = true → ∃ t, exec (.rqry f) s = .next t ∧ OnlyMine s t ∧ GoesOn s t 4
            ∧ Arrives s t f.d.toNat
                (BitVec.ofNat 8 p.waiting.length ++ BitVec.ofNat 8 p.size ++ BitVec.ofNat 8 p.free ++ BitVec.ofNat 8 g.rext) 2)

/-- R116 to R119, R164, R297, R375, R433: the value SRD reads from each special register, the capture of the time
registers, what SWR stores, and the trap PRIV for a write of the debugger's DBGW. (The model's choice: that SPLIT reads 0 in the
address slice, log 36, and which increments a read of QLOSS sees, log 57.) -/
def Obligations.SpecialRegisters : Prop :=
  ∀ (f : Head) (s : State),
    let n := 64 * f.a.toNat + f.b.toNat
    let g := me s
    let t := teamOf s g
    let l := launchOf s g
    let lin := t.lin
    let cap := captures g s.who.2
    let put := fun (h : Group → Group) (v : Word) => exec (.srd f) s = .next (advance (scalResult (updMe s h) f.d.toNat v 1) 4)
    let num := fun (k : Nat) => BitVec.ofNat 32 k
    let set := fun (h : Group → Group) => exec (.swr f) s = .next (advance (updMe s h) 4)
    let v := sget s f.d
    let lo := fun (w : Nat) => v.toNat % 2 ^ w
    let clamp := fun (k top : Nat) => num (if k = 0 then 1 else min k top)
    (ready s (.srd f) = true →
        (∀ x : Nat × Word, x ∈ [(0x000, num g.gix), (0x001, num l.kernel.team), (0x002, num (lin % l.ntx)), (0x003, num (lin / l.ntx % l.nty)),
            (0x004, num (lin / (l.ntx * l.nty))), (0x005, num l.ntx), (0x006, num l.nty), (0x007, num l.ntz), (0x008, num (spixOf s g)),
            (0x009, num l.kernel.span), (0x00A, num g.role), (0x00B, num t.core), (0x00C, num t.launch), (0x00D, num (t.launch / 2 ^ 32)),
            (0x00E, num (match s.who.2 with | .split k => k | .aslice => 0)), (0x040, num g.rbase), (0x041, num g.rext), (0x048, l.heirns),
            (0x080, num t.spbase), (0x081, num t.spsize), (0x082, num (l.kernel.nbar + 256 * l.kernel.nsbar)),
            (0x0C0, num (mapGetD t.windows g.gix (0, 0)).1), (0x0C1, num (mapGetD t.windows g.gix (0, 0)).2), (0x0C2, num t.accn),
            (0x100, g.dri), (0x101, g.dprec), (0x102, g.dstat), (0x140, g.slip), (0x180, g.cring),
            (0x181, num (classCount g 0 + 2 ^ 8 * classCount g 1 + 2 ^ 16 * classCount g 2 + 2 ^ 24 * classCount g 3)),
            (0x1C0, (ctx s (ctxOf s g)).ctxerr), (0x1C1, g.tcause), (0x1C2, (ctx s (ctxOf s g)).dbgw), (0x200, g.repro), (0x202, g.seed),
            (0x240, g.csess), (0x241, (part s (partOf s g)).xpol)] →
          n = x.1 → put id x.2)
        ∧ (n = 0x141 →
            put (fun h => if s.who.2 = .aslice then h else { h with lossRead := (s.clk.toNat + 1, f.d.toNat) }) (readLoss s g))
        ∧ (n = 0x010 → put (fun g => setCaptures g s.who.2 (some (s.clk.extractLsb' 32 32)) cap.2) (s.clk.extractLsb' 0 32))
        ∧ (n = 0x011 → put (fun g => setCaptures g s.who.2 none cap.2) (cap.1.getD (s.clk.extractLsb' 32 32)))
        ∧ (n = 0x012 → put (fun g => setCaptures g s.who.2 cap.1 (some (s.time.extractLsb' 32 32))) (s.time.extractLsb' 0 32))
        ∧ (n = 0x013 → put (fun g => setCaptures g s.who.2 cap.1 none) (cap.2.getD (s.time.extractLsb' 32 32))))
      ∧ (ready s (.swr f) = true →
        (n = 0x1C2 → exec (.swr f) s = .next (trapC s .priv))
          ∧ (n = 0x100 → set fun g => { g with dri := clamp (lo 8) 255 })
          ∧ (n = 0x101 → set fun g => { g with dprec := clamp (lo 4) 8 })
          ∧ (n = 0x140 → set fun g => { g with slip := clamp (lo 6) 32 })
          ∧ (n = 0x141 → set fun h => { h with qloss := writeLoss s g v, qlossAt := s.clk.toNat + 1 })
          ∧ (n = 0x180 → set fun g => { g with cring := num (lo 5) })
          ∧ (n = 0x200 → set fun g => { g with repro := num (lo 1) })
          ∧ (n = 0x202 → set fun g => { g with seed := v, count := 0 })
          ∧ (n = 0x240 → set fun g => { g with csess := num (lo 8) }))

/-! ### Scalar arithmetic -/

/-- R107, R108, 32-bit: what each register form of majors 0x00 and 0x01 writes to s[D], and that it then goes on. The
latency is 1, and 3 for the multiplies. R107 and R102, 64-bit: the same on pairs. The result goes to s[D] and s[D + 1];
an odd field is illegal. R107, major 0x02: B is imm6 sign-extended to w bits, in both widths; a shift lies in 0 to 31.
-/
def Obligations.ScalarArithmetic : Prop :=
  (∀ (f : Head) (s : State),
      let a := sget s f.a
      let b := sget s f.b
      let d := sget s f.d
      let sg := f.ty == 0
      let sh := b.toNat % 64
      let pos := b.toNat % 64
      let len := b.toNat / 64 % 128
      let stop := Nat.min (pos + len) 32
      let inField := fun i => decide (pos ≤ i) && decide (i < stop)
      let goes := fun (i : Instr) (v : Word) (lat : Nat) =>
        ready s i = true → exec i s = .next (advance (scalResult s f.d.toNat v lat) 4)
      f.ty.toNat < 2 →
        goes (.sadd f) (a + b) 1 ∧ goes (.ssub f) (a - b) 1 ∧ goes (.smul f) (a * b) 3
          ∧ goes (.smulh f) (if sg then BitVec.ofInt 32 (a.toInt * b.toInt / 2 ^ 32) else BitVec.ofNat 32 (a.toNat * b.toNat / 2 ^ 32)) 3
          ∧ goes (.sand f) (a &&& b) 1 ∧ goes (.sor f) (a ||| b) 1 ∧ goes (.sxor f) (a ^^^ b) 1
          ∧ goes (.sshl f) (if 32 ≤ sh then 0 else a <<< sh) 1 ∧ goes (.sshr f) (if 32 ≤ sh then 0 else a >>> sh) 1
          ∧ goes (.ssra f) (a.sshiftRight (Nat.min sh 31)) 1
          ∧ goes (.smin f) (if sg then BitVec.ofInt 32 (min a.toInt b.toInt) else BitVec.ofNat 32 (min a.toNat b.toNat)) 1
          ∧ goes (.smax f) (if sg then BitVec.ofInt 32 (max a.toInt b.toInt) else BitVec.ofNat 32 (max a.toNat b.toNat)) 1
          ∧ goes (.ssel f) (if d ≠ 0 then a else b) 1 ∧ goes (.smov f) a 1
          ∧ (ready s (.sbfx f) = true → ∃ v : Word, exec (.sbfx f) s = .next (advance (scalResult s f.d.toNat v 1) 4)
              ∧ ∀ i, i < 32 → v.getLsbD i = if inField (pos + i) then a.getLsbD (pos + i) else sg && decide (pos < stop) && a.getLsbD (stop - 1))
          ∧ (ready s (.sbfi f) = true → ∃ v : Word, exec (.sbfi f) s = .next (advance (scalResult s f.d.toNat v 1) 4)
              ∧ ∀ i, i < 32 → v.getLsbD i = if inField i then a.getLsbD (i - pos) else d.getLsbD i))
    ∧ (∀ (f : Head) (s : State),
      let a := pget s f.a
      let b := pget s f.b
      let d := pget s f.d
      let sg := f.ty == 2
      let sh := b.toNat % 64
      let pos := b.toNat % 64
      let len := b.toNat / 64 % 128
      let stop := Nat.min (pos + len) 64
      let inField := fun i => decide (pos ≤ i) && decide (i < stop)
      let pair := fun (v : Addr) (lat : Nat) =>
        scalResult (scalResult s f.d.toNat (v.extractLsb' 0 32) lat) (f.d.toNat + 1) (v.extractLsb' 32 32) lat
      let goes := fun (i : Instr) (v : Addr) (lat : Nat) => ready s i = true → exec i s = .next (advance (pair v lat) 4)
      2 ≤ f.ty.toNat →
        goes (.sadd f) (a + b) 1 ∧ goes (.ssub f) (a - b) 1 ∧ goes (.smul f) (a * b) 3
          ∧ goes (.smulh f) (if sg then BitVec.ofInt 64 (a.toInt * b.toInt / 2 ^ 64) else BitVec.ofNat 64 (a.toNat * b.toNat / 2 ^ 64)) 3
          ∧ goes (.sand f) (a &&& b) 1 ∧ goes (.sor f) (a ||| b) 1 ∧ goes (.sxor f) (a ^^^ b) 1
          ∧ goes (.sshl f) (a <<< sh) 1 ∧ goes (.sshr f) (a >>> sh) 1 ∧ goes (.ssra f) (a.sshiftRight sh) 1
          ∧ goes (.smin f) (if sg then BitVec.ofInt 64 (min a.toInt b.toInt) else BitVec.ofNat 64 (min a.toNat b.toNat)) 1
          ∧ goes (.smax f) (if sg then BitVec.ofInt 64 (max a.toInt b.toInt) else BitVec.ofNat 64 (max a.toNat b.toNat)) 1
          ∧ goes (.ssel f) (if d ≠ 0 then a else b) 1 ∧ goes (.smov f) a 1
          ∧ (ready s (.sbfx f) = true → ∃ v : Addr, exec (.sbfx f) s = .next (advance (pair v 1) 4)
              ∧ ∀ i, i < 64 → v.getLsbD i = if inField (pos + i) then a.getLsbD (pos + i) else sg && decide (pos < stop) && a.getLsbD (stop - 1))
          ∧ (ready s (.sbfi f) = true → ∃ v : Addr, exec (.sbfi f) s = .next (advance (pair v 1) 4)
              ∧ ∀ i, i < 64 → v.getLsbD i = if inField i then a.getLsbD (i - pos) else d.getLsbD i)
          ∧ ((f.d.getLsbD 0 = true ∨ f.a.getLsbD 0 = true ∨ f.b.getLsbD 0 = true) →
              ∀ i ∈ [Instr.sadd f, .ssub f, .smul f, .smulh f, .sand f, .sor f, .sxor f, .sshl f, .sshr f, .ssra f, .smin f, .smax f, .ssel f,
                .sbfx f, .sbfi f, .smov f], i.wellFormed = false))
    ∧ (∀ (f : Head) (s : State),
      let a := sget s f.a
      let b : Word := f.b.signExtend 32
      let x := pget s f.a
      let y : Addr := f.b.signExtend 64
      let sh := f.b.toNat
      let goes := fun (i : Instr) (v : Word) (z : Addr) (lat : Nat) =>
        ready s i = true → exec i s = .next (advance
          (if f.ty.toNat < 2 then scalResult s f.d.toNat v lat
            else scalResult (scalResult s f.d.toNat (z.extractLsb' 0 32) lat) (f.d.toNat + 1) (z.extractLsb' 32 32) lat) 4)
      goes (.saddImm f) (a + b) (x + y) 1 ∧ goes (.ssubImm f) (a - b) (x - y) 1 ∧ goes (.smulImm f) (a * b) (x * y) 3
        ∧ goes (.smulhImm f)
            (if f.ty == 0 then BitVec.ofInt 32 (a.toInt * b.toInt / 2 ^ 32) else BitVec.ofNat 32 (a.toNat * b.toNat / 2 ^ 32))
            (if f.ty == 2 then BitVec.ofInt 64 (x.toInt * y.toInt / 2 ^ 64) else BitVec.ofNat 64 (x.toNat * y.toNat / 2 ^ 64)) 3
        ∧ goes (.sandImm f) (a &&& b) (x &&& y) 1 ∧ goes (.sorImm f) (a ||| b) (x ||| y) 1 ∧ goes (.sxorImm f) (a ^^^ b) (x ^^^ y) 1
        ∧ goes (.sshlImm f) (if 32 ≤ sh then 0 else a <<< sh) (x <<< sh) 1
        ∧ (32 ≤ sh → (Instr.sshlImm f).wellFormed = false)
        ∧ (2 ≤ f.ty.toNat → (f.d.getLsbD 0 = true ∨ f.a.getLsbD 0 = true) →
            ∀ i ∈ [Instr.saddImm f, .ssubImm f, .smulImm f, .smulhImm f, .sandImm f, .sorImm f, .sxorImm f, .sshlImm f], i.wellFormed = false))

/-- R109, R110: SCMP writes 1 or 0; the counts write one register, and SREV a value of w bits with bit i at w − 1 − i.
R111, R112, R115: SLI, the four forms of SLIX, and SLDK, which reads zero beyond the argument block. -/
def Obligations.ScalarComparesAndConstants : Prop :=
  (∀ (f : Head) (k : BitVec 3) (s : State),
      let wide := decide (2 ≤ f.ty.toNat)
      let w := if wide then 64 else 32
      let a := wget s f f.a
      let b := wget s f f.b
      let one := fun (i : Instr) (v : Word) => exec i s = .next (advance (scalResult s f.d.toNat v 1) 4)
      let lt := fun (x y : Addr) => if f.ty == 0 then decide ((x.setWidth 32).toInt < (y.setWidth 32).toInt)
        else if f.ty == 2 then decide (x.toInt < y.toInt) else decide (x.toNat < y.toNat)
      let holds := if k = 0 then a == b else if k = 1 then a != b else if k = 2 then lt a b else if k = 3 then !lt b a
        else if k = 4 then lt b a else if k = 5 then !lt a b else a &&& b != 0
      (ready s (.scmp k f) = true → one (.scmp k f) (if holds then 1 else 0))
        ∧ (ready s (.spopc f) = true → one (.spopc f) (BitVec.ofNat 32 ((List.range w).countP fun i => a.getLsbD i)))
        ∧ (ready s (.sclz f) = true → ∃ n, one (.sclz f) (BitVec.ofNat 32 n) ∧ n ≤ w ∧ (∀ i, w - n ≤ i → i < w → a.getLsbD i = false)
            ∧ (n < w → a.getLsbD (w - 1 - n) = true))
        ∧ (ready s (.sffs f) = true → ∃ n, one (.sffs f) (BitVec.ofNat 32 n) ∧ n ≤ w ∧ (∀ i, i < n → a.getLsbD i = false)
            ∧ (n < w → a.getLsbD n = true))
        ∧ (ready s (.srev f) = true → ∃ v : Addr, (∀ i, i < w → v.getLsbD i = a.getLsbD (w - 1 - i))
            ∧ exec (.srev f) s = .next (advance (wideResult s wide f.d.toNat v 1) 4)))
    ∧ (∀ (l : LHead) (k : BitVec 3) (f : Head) (t : Word) (s : State),
      let pair := fun (v : Addr) => advance (wideResult s true f.d.toNat v 1) 8
      let x := launchOf s (me s)
      let word := fun (j : Nat) => if 4 * j < x.argl then cellGet x.args j else (0 : Word)
      let n := 64 * f.a.toNat + f.b.toNat
      (ready s (.sli l) = true → exec (.sli l) s = .next (advance (scalResult s l.d.toNat (l.imm.signExtend 32) 1) 4))
        ∧ (ready s (.slix k f t) = true →
            (k = 0 → exec (.slix k f t) s = .next (advance (scalResult s f.d.toNat t 1) 8))
              ∧ (k = 1 → exec (.slix k f t) s = .next (pair (t.signExtend 64)))
              ∧ (k = 2 → exec (.slix k f t) s = .next (pair (t.setWidth 64)))
              ∧ (k = 3 → exec (.slix k f t) s = .next (advance (scalResult s (f.d.toNat + 1) t 1) 8)))
        ∧ (1 ≤ k.toNat → k.toNat ≤ 3 → f.d.getLsbD 0 = true → (Instr.slix k f t).wellFormed = false)
        ∧ (ready s (.sldk f) = true →
            (f.ty = 0 → exec (.sldk f) s = .next (advance (updMe s fun g => writeS g s.who.2 f.d.toNat (word n)) 4))
              ∧ (f.ty = 1 → exec (.sldk f) s = .next (advance (updMe (updMe s fun g => writeS g s.who.2 f.d.toNat (word n))
                  fun g => writeS g s.who.2 (f.d.toNat + 1) (word (n + 1))) 4))))

/-- The frame of the scalar arithmetic (majors 0x00 to 0x06): only the issuing group differs, and of it only the
destination register or pair, results in flight, and the stream's position; every result put in flight is for a scalar register
of the destination, in the issuing stream. -/
def Obligations.ScalarFrame : Prop :=
  ∀ (f : Head) (l : LHead) (k : BitVec 3) (w : Word) (i : Instr) (ds : List Nat) (s t : State),
    let two := if 2 ≤ f.ty.toNat then [f.d.toNat, f.d.toNat + 1] else [f.d.toNat]
    (i, ds) ∈ [(Instr.sadd f, two), (.ssub f, two), (.smul f, []), (.smulh f, []), (.sand f, two), (.sor f, two), (.sxor f, two),
      (.sshl f, two), (.sshr f, two), (.ssra f, two), (.smin f, two), (.smax f, two), (.ssel f, two), (.sbfx f, two), (.sbfi f, two),
      (.smov f, two), (.saddImm f, two), (.ssubImm f, two), (.smulImm f, []), (.smulhImm f, []), (.sandImm f, two),
      (.sorImm f, two), (.sxorImm f, two), (.sshlImm f, two), (.scmp k f, [f.d.toNat]), (.spopc f, [f.d.toNat]), (.sclz f, [f.d.toNat]),
      (.sffs f, [f.d.toNat]), (.srev f, two), (.sli l, [l.d.toNat]), (.slix k f w, [f.d.toNat, f.d.toNat + 1])] →
    ready s i = true → exec i s = .next t →
      (∀ x ∈ (me t).fly, x ∈ (me s).fly ∨ (x.w.isV = false ∧ x.w.stream = s.who.2 ∧ (x.w.reg = f.d.toNat ∨ x.w.reg = f.d.toNat + 1 ∨ x.w.reg ∈ ds))) ∧
      OnlyMine s t ∧ KeepsScalars s t ds ∧ KeepsVectors s t [] ∧ KeepsGroup s t ∧ KeepsSplits s t ∧ KeepsBytes s t ∧ GoesOn s t (lenOf i)

/-! ### Lane arithmetic -/

/-- R136 to R138: the register forms of majors 0x10 and 0x11. With the sources given, and in the lanes that act, every
element of vD becomes the operation on the elements of vA, vB and the old vD; vector latencies are 3, and 5 for the
multiplies. R136 to R138: the immediate forms of majors 0x12 and 0x13, with imm6 sign-extended into every element as b;
a shift lies in 0 to w − 1, and minors 6 and 7 of 0x13 and 6 of 0x12 are no instruction. R38: the 16-bit forms, with vD
as first source, on 32-bit elements; they end two bytes on. -/
def Obligations.LaneIntegers : Prop :=
  (∀ (f : Head) (s : State) (fa fb : Nat → Word) (bad : Lanes),
      let w := if f.ty.toNat ≤ 1 then 32 else if f.ty.toNat = 2 then 16 else 8
      let u := if f.ty.toNat = 0 then 32 else if f.ty.toNat = 1 then 16 else 8
      let sg := f.ty != 1
      let lanes := fun (n : Nat) (op : BitVec n → BitVec n → BitVec n → BitVec n) (fb : Nat → Word) (i : Nat) =>
        gather n fun e => op (elem n (fa i) e) (elem n (fb i) e) (elem n (readV (me s) f.d.toNat i) e)
      let two := fun (i : Instr) (n lat : Nat) (op : BitVec n → BitVec n → BitVec n → BitVec n) =>
        ready s i = true → sources s (some f.a) (some f.b) = .go fa fb bad →
          exec i s = .next (laneDone s (laneResult s f.d (acting s bad) (lanes n op fb) lat) i bad)
      let one := fun (i : Instr) (n : Nat) (op : BitVec n → BitVec n) =>
        ready s i = true → sources s (some f.a) none = .go fa fb bad →
          exec i s = .next (laneDone s (laneResult s f.d (acting s bad) (lanes n (fun x _ _ => op x) fb) 3) i bad)
      two (.vadd f) w 3 (fun x y _ => x + y) ∧ two (.vsub f) w 3 (fun x y _ => x - y) ∧ two (.vmul f) w 5 (fun x y _ => x * y)
        ∧ two (.vmulh f) w 5 (fun x y _ => if sg then BitVec.ofInt w (x.toInt * y.toInt / 2 ^ w) else BitVec.ofNat w (x.toNat * y.toNat / 2 ^ w))
        ∧ two (.vmin f) w 3 (fun x y _ => if sg then BitVec.ofInt w (min x.toInt y.toInt) else BitVec.ofNat w (min x.toNat y.toNat))
        ∧ two (.vmax f) w 3 (fun x y _ => if sg then BitVec.ofInt w (max x.toInt y.toInt) else BitVec.ofNat w (max x.toNat y.toNat))
        ∧ one (.vabs f) w (fun x => if sg then BitVec.ofInt w |x.toInt| else x)
        ∧ two (.vmad f) w 5 (fun x y d => x * y + d)
        ∧ two (.vand f) u 3 (fun x y _ => x &&& y) ∧ two (.vor f) u 3 (fun x y _ => x ||| y) ∧ two (.vxor f) u 3 (fun x y _ => x ^^^ y)
        ∧ two (.vshl f) u 3 (fun x y _ => if u ≤ y.toNat then 0 else x <<< y.toNat)
        ∧ two (.vshr f) u 3 (fun x y _ => if u ≤ y.toNat then 0 else x >>> y.toNat)
        ∧ two (.vsra f) u 3 (fun x y _ => x.sshiftRight (Nat.min y.toNat (u - 1)))
        ∧ one (.vpopc f) u (fun x => BitVec.ofNat u ((List.range u).countP fun i => x.getLsbD i))
        ∧ one (.vclz f) u (fun x => BitVec.ofNat u (if x = 0 then u else u - 1 - x.toNat.log2)))
    ∧ (∀ (f : Head) (s : State) (fa fb : Nat → Word) (bad : Lanes),
      let w := if f.ty.toNat ≤ 1 then 32 else if f.ty.toNat = 2 then 16 else 8
      let u := if f.ty.toNat = 0 then 32 else if f.ty.toNat = 1 then 16 else 8
      let sg := f.ty != 1
      let imm := fun (i : Instr) (n lat : Nat) (op : BitVec n → BitVec n → BitVec n → BitVec n) =>
        ready s i = true → sources s (some f.a) none = .go fa fb bad →
          exec i s = .next (laneDone s
            (laneResult s f.d (acting s bad)
              (fun i => gather n fun e => op (elem n (fa i) e) (f.b.signExtend n) (elem n (readV (me s) f.d.toNat i) e)) lat) i bad)
      imm (.vaddImm f) w 3 (fun x y _ => x + y) ∧ imm (.vsubImm f) w 3 (fun x y _ => x - y) ∧ imm (.vmulImm f) w 5 (fun x y _ => x * y)
        ∧ imm (.vmulhImm f) w 5 (fun x y _ => if sg then BitVec.ofInt w (x.toInt * y.toInt / 2 ^ w) else BitVec.ofNat w (x.toNat * y.toNat / 2 ^ w))
        ∧ imm (.vminImm f) w 3 (fun x y _ => if sg then BitVec.ofInt w (min x.toInt y.toInt) else BitVec.ofNat w (min x.toNat y.toNat))
        ∧ imm (.vmaxImm f) w 3 (fun x y _ => if sg then BitVec.ofInt w (max x.toInt y.toInt) else BitVec.ofNat w (max x.toNat y.toNat))
        ∧ imm (.vmadImm f) w 5 (fun x y d => x * y + d)
        ∧ imm (.vandImm f) u 3 (fun x y _ => x &&& y) ∧ imm (.vorImm f) u 3 (fun x y _ => x ||| y) ∧ imm (.vxorImm f) u 3 (fun x y _ => x ^^^ y)
        ∧ imm (.vshlImm f) u 3 (fun x y _ => if u ≤ y.toNat then 0 else x <<< y.toNat)
        ∧ imm (.vshrImm f) u 3 (fun x y _ => if u ≤ y.toNat then 0 else x >>> y.toNat)
        ∧ imm (.vsraImm f) u 3 (fun x y _ => x.sshiftRight (Nat.min y.toNat (u - 1)))
        ∧ (u ≤ f.b.toNat → ∀ i ∈ [Instr.vshlImm f, .vshrImm f, .vsraImm f], i.wellFormed = false)
        ∧ ∀ (h h2 : BitVec 16) (rest : List (BitVec 16)), h.getLsbD 0 = true →
            (h.extractLsb' 3 9 ∈ [0x193#9, 0x1D3#9, 0x192#9]) → decode (h :: h2 :: rest) = .illegal)
    ∧ (∀ (f : Short) (s : State) (fa fb : Nat → Word) (bad : Lanes),
      let b : Reg := f.b.setWidth 6
      let two := fun (i : Instr) (lat : Nat) (op : Word → Word → Word) =>
        ready s i = true → sources s (some f.d) (some b) = .go fa fb bad →
          lenOf i = 2 ∧ exec i s = .next (laneDone s (laneResult s f.d (acting s bad) (fun i => op (fa i) (fb i)) lat) i bad)
      let flo := fun (op : Val → Val → Val) (x y : Word) => BitVec.ofNat 32 (fp32.round (op (fp32.val x.toNat) (fp32.val y.toNat)) 0 0)
      (ready s (.vmov_16 f) = true → sources s (some b) none = .go fa fb bad →
          exec (.vmov_16 f) s = .next (laneDone s (laneResult s f.d (acting s bad) fa 3) (.vmov_16 f) bad))
        ∧ two (.vadd_16 f) 3 (fun x y => x + y) ∧ two (.vsub_16 f) 3 (fun x y => x - y) ∧ two (.vmul_16 f) 5 (fun x y => x * y)
        ∧ two (.vmin_16 f) 3 (fun x y => if y.slt x then y else x) ∧ two (.vmax_16 f) 3 (fun x y => if x.slt y then y else x)
        ∧ two (.vand_16 f) 3 (fun x y => x &&& y) ∧ two (.vor_16 f) 3 (fun x y => x ||| y) ∧ two (.vxor_16 f) 3 (fun x y => x ^^^ y)
        ∧ two (.vshl_16 f) 3 (fun x y => if 32 ≤ y.toNat then 0 else x <<< y.toNat)
        ∧ two (.vshr_16 f) 3 (fun x y => if 32 ≤ y.toNat then 0 else x >>> y.toNat)
        ∧ two (.vfadd_16 f) 6 (flo Val.add) ∧ two (.vfsub_16 f) 6 (flo fun x y => x.add y.neg) ∧ two (.vfmul_16 f) 6 (flo Val.mul)
        ∧ two (.vfmin_16 f) 6 (fun x y => BitVec.ofNat 32 (minF fp32 x.toNat y.toNat))
        ∧ two (.vfmax_16 f) 6 (fun x y => BitVec.ofNat 32 (maxF fp32 x.toNat y.toNat)))

/-- R172, R173: major 0x14. Each element is the exact result rounded once to nearest even; VFMIN and VFMAX return the
other operand of a NaN; VFABS and VFNEG change the sign bit only. R174, R175: VCMP and the special functions complete on every
operand under the same conditions (what they write: see the statement about them). -/
def Obligations.LaneFloats : Prop :=
  ∀ (k : BitVec 3) (f : Head) (s : State) (fa fb : Nat → Word) (bad : Lanes),
    let t := if f.ty.toNat = 0 then fp32 else if f.ty.toNat = 1 then fp16 else bf16
    let w := if f.ty.toNat = 0 then 32 else 16
    let goes := fun (i : Instr) (b : Option Reg) (op : Nat → Nat → Nat → Nat) =>
      ready s i = true → sources s (some f.a) b = .go fa fb bad →
        exec i s = .next (laneDone s
          (laneResult s f.d (acting s bad)
            (fun i => gather w fun e => BitVec.ofNat w (op (elem w (fa i) e).toNat (elem w (fb i) e).toNat (elem w (readV (me s) f.d.toNat i) e).toNat)) 6)
          i bad)
    goes (.vfadd f) (some f.b) (fun x y _ => t.round ((t.val x).add (t.val y)) 0 0)
      ∧ goes (.vfsub f) (some f.b) (fun x y _ => t.round ((t.val x).add (t.val y).neg) 0 0)
      ∧ goes (.vfmul f) (some f.b) (fun x y _ => t.round ((t.val x).mul (t.val y)) 0 0)
      ∧ goes (.vfma f) (some f.b) (fun x y d => t.round (((t.val x).mul (t.val y)).add (t.val d)) 0 0)
      ∧ goes (.vfmin f) (some f.b) (fun x y _ => if t.val x = .nan ∧ t.val y = .nan then t.qnan else if t.val x = .nan then y else if t.val y = .nan then x else minF t x y)
      ∧ goes (.vfmax f) (some f.b) (fun x y _ => if t.val x = .nan ∧ t.val y = .nan then t.qnan else if t.val x = .nan then y else if t.val y = .nan then x else maxF t x y)
      ∧ goes (.vfabs f) none (fun x _ _ => if x < t.sign then x else x - t.sign)
      ∧ goes (.vfneg f) none (fun x _ _ => if x < t.sign then x + t.sign else x - t.sign)
      ∧ (ready s (.vcmp k f) = true → sources s (some f.a) (some f.b) = .go fa fb bad →
          ∃ u, exec (.vcmp k f) s = .next (laneDone s u (.vcmp k f) bad) ∧ OnlyMine s u)
      ∧ ∀ i ∈ [Instr.vrcp f, .vrsq f, .vsqrt f, .vexp2 f, .vlog2 f, .vsin f, .vcos f, .vtanh f],
          ready s i = true → sources s (some f.a) none = .go fa fb bad → ∃ u, exec i s = .next (laneDone s u i bad) ∧ OnlyMine s u

/-- R148, R161, R162: in every format, rounding the value of a code that is no NaN gives that code, in every mode:
nothing is lost between a code and its value. The code 0b1000 of e2m1 is left out: it stands for the value X (R153), and
no rounding gives it (R157). -/
def Obligations.CodesRoundToThemselves : Prop :=
  ∀ (t : Fmt) (c mode bits : Nat), t ∈ [fp32, fp16, bf16, e4m3, e5m2, e2m1] → c < 2 * t.sign → t.val c ≠ .nan → (t = e2m1 → c ≠ 8) →
    t.round (t.val c) mode bits = c

/-- R174, R175, R176: VCMP writes the whole triple, with a bit per acting lane; the special functions write a fixed
function of each element, every exact case of R176 is met, and any other result lies among the codes within the bound of R175. -/
def Obligations.CompareAndFunctions : Prop :=
  ∀ (k : BitVec 3) (f : Head) (s : State) (fa fb : Nat → Word) (bad : Lanes),
    let w := if f.ty.toNat = 0 then 32 else 16
    let fn := fun (i : Instr) (n : Nat) =>
      ready s i = true → sources s (some f.a) none = .go fa fb bad →
        exec i s = .next (laneDone s
          (laneResult s f.d (acting s bad) (fun i => gather w fun e => BitVec.ofNat w (sfu n f.ty.toNat (elem w (fa i) e).toNat)) 12) i bad)
    (ready s (.vcmp k f) = true → sources s (some f.a) (some f.b) = .go fa fb bad →
        ∃ m : Lanes, exec (.vcmp k f) s = .next (laneDone s (flyTriple s f.d.toNat m 4) (.vcmp k f) bad)
          ∧ ∀ i, i < 96 → m.getLsbD i = ((acting s bad).getLsbD i && vcmpCond k.toNat f.ty.toNat (fa i) (fb i)))
      ∧ fn (.vrcp f) 0 ∧ fn (.vrsq f) 1 ∧ fn (.vsqrt f) 2 ∧ fn (.vexp2 f) 3 ∧ fn (.vlog2 f) 4 ∧ fn (.vsin f) 5 ∧ fn (.vcos f) 6 ∧ fn (.vtanh f) 7
      ∧ let t := if f.ty.toNat = 0 then fp32 else fp16
        (∀ n c v, sfuExact t n c = some v → sfu n f.ty.toNat c = v)
          ∧ ∀ n c, let b := sfuBounds t n c
            sfuExact t n c = none → orderF t b.1 ≤ orderF t b.2 →
              orderF t b.1 ≤ orderF t (sfu n f.ty.toNat c) ∧ orderF t (sfu n f.ty.toNat c) ≤ orderF t b.2

/-- R177, R178, R180, R181, R141: conversions of one lane, the blocks of VQBLK with their three scale words, VDQBLK, and
the class bits. The stochastic count advances after an instruction with stochastic rounding. (The model's choice: that VQBLK's
element number is 0 and that a conversion keeps the bits of vD as they are at its issue, log 17; that an INT8 block clamps below to
-128, log 57.) -/
def Obligations.Conversions : Prop :=
  ∀ (k : BitVec 3) (f : Head) (x : Word) (s : State) (fa fb : Nat → Word) (bad : Lanes),
    let go := sources s (some f.a) none = .go fa fb bad
    let h := stochOf s
    let d := readV (me s) f.d.toNat
    let fmt := x.toNat % 8
    let w := if fmt = 3 then 4 else 8
    let pos := x.toNat / 8 % 8
    let block := fun (j : Nat) => mxQuantise
      ((List.range 32).map fun n => if (acting s bad).getLsbD (32 * j + n) then fp32.val (fa (32 * j + n)).toNat else .fin false 0 0)
      fmt f.ty.toNat (x.getLsbD 7) (x.getLsbD 6) fun n => h.bits (32 * j + n) 0
    let scale := fun (j : Nat) => if beatOf (acting s bad) j = 0 then 0 else scaleWord (block j).2.1 (block j).2.2
    (ready s (.vcvt k f) = true → go → exec (.vcvt k f) s = .next (laneDone s
        (countStoch
          (laneResult s f.d (acting s bad)
            (fun i => convert k.toNat f.ty.toNat (f.b.toNat / 2 % 4) (f.b.getLsbD 0) (h.bits i 0) (fa i) (d i)) 4) (f.ty == 3)) (.vcvt k f) bad))
      ∧ (ready s (.vqblk f x) = true → go → exec (.vqblk f x) s = .next (laneDone s
          (countStoch
            (flyS (flyS
                (laneResult s f.d (acting s bad) (fun i => putElem w pos (d i) ((block (i / 32)).1.getD (i % 32) 0)) 9)
                s.who.2 f.b.toNat (BitVec.ofNat 32 (scale 0 + 65536 * scale 1)) 9)
              s.who.2 (f.b.toNat + 1) (BitVec.ofNat 32 (scale 2)) 9) (f.ty == 3)) (.vqblk f x) bad))
      ∧ (ready s (.vdqblk f x) = true → go → exec (.vdqblk f x) s = .next (laneDone s
          (laneResult s f.d (acting s bad)
            (fun i => BitVec.ofNat 32 (fp32.round
              (mxValue ((fa i).toNat / 2 ^ (w * pos) % 2 ^ w) fmt ((pget s f.b).extractLsb' (16 * (i / 32)) 16).toNat) 0 0)) 9) (.vdqblk f x) bad))
      ∧ (ready s (.vfclass f) = true → go → exec (.vfclass f) s = .next (laneDone s
          (laneResult s f.d (acting s bad)
            (fun i => if f.ty = 0 then BitVec.ofNat 32 (classF fp32 (fa i).toNat)
              else gather 16 fun e => BitVec.ofNat 16 (classF fp16 (elem 16 (fa i) e).toNat)) 4) (.vfclass f) bad))

/-- R139, R140: constants and moves. VLANE to a scalar happens once for the split, whatever Active(g). R130, R141 to
R144: cross-lane moves take a lane by the sum, the exclusive or, or the index given, zero from a dead lane and from 96
up (of a queue entry, a lane outside Active(g) gives a free value: R328, log 4); VRED and VSCAN combine the acting lanes in
ascending order. -/
def Obligations.LaneMovesAndReductions : Prop :=
  (∀ (l : LHead) (k : BitVec 3) (f : Head) (x : Word) (s : State) (fa fb : Nat → Word) (bad : Lanes),
      let put := fun (d : Reg) (v : Nat → Word) (lat : Nat) => laneResult s d (acting s bad) v lat
      let n := (sget s f.b).toNat % 128
      let src := fun (j : Nat) => if 96 ≤ j ∨ (me s).dead.getLsbD j then (0 : Word) else fa j
      (ready s (.vli l) = true → exec (.vli l) s = .next (laneDone s (laneResult s l.d (acting s 0) (fun _ => l.imm.signExtend 32) 3) (.vli l) 0))
        ∧ (ready s (.vlix k f x) = true → exec (.vlix k f x) s = .next (laneDone s
            (laneResult s f.d (acting s 0)
              (fun _ => if k = 0 then x else if k = 1 then x.extractLsb' 0 16 ++ x.extractLsb' 0 16
                else x.extractLsb' 0 8 ++ x.extractLsb' 0 8 ++ x.extractLsb' 0 8 ++ x.extractLsb' 0 8) 3) (.vlix k f x) 0))
        ∧ (ready s (.vmov f) = true → sources s (some f.a) none = .go fa fb bad → exec (.vmov f) s = .next (laneDone s (put f.d fa 3) (.vmov f) bad))
        ∧ (ready s (.vsel f) = true → sources s (some f.a) none = .go fa fb bad →
            exec (.vsel f) s = .next (laneDone s
              (put f.d (fun i => if (tget s f.b).getLsbD i then fa i else readV (me s) f.d.toNat i) 3) (.vsel f) bad))
        ∧ (ready s (.vbcs f) = true → exec (.vbcs f) s = .next (laneDone s (laneResult s f.d (acting s 0) (fun _ => sget s f.a) 3) (.vbcs f) 0))
        ∧ (ready s (.vlaneId f) = true → exec (.vlaneId f) s = .next (laneDone s (laneResult s f.d (acting s 0) (fun i => BitVec.ofNat 32 i) 9) (.vlaneId f) 0))
        ∧ (ready s (.vlaneV f) = true → sources s (some f.a) none = .go fa fb bad →
            ∃ v : Nat → Word, exec (.vlaneV f) s = .next (laneDone s
                (laneResult { s with fresh := s.fresh + if 60 ≤ f.a.toNat then 96 else 0 } f.d (acting s bad) v 9) (.vlaneV f) bad)
              ∧ ((f.a.toNat < 60 ∨ 96 ≤ n ∨ (me s).dead.getLsbD n = true ∨ (active (me s) s.who.2).getLsbD n = true) → ∀ i, v i = src n))
        ∧ (ready s (.vlaneS f) = true → f.a.toNat < 60 →
            exec (.vlaneS f) s = .next (advance (flyS s s.who.2 f.d.toNat (crossV (me s) f.a.toNat n) 9) 4))
        ∧ (ready s (.vlaneS f) = true → 60 ≤ f.a.toNat → active (me s) s.who.2 = 0 →
            exec (.vlaneS f) s = .next (advance (flyS s s.who.2 f.d.toNat 0 9) 4))
        ∧ (ready s (.vlaneS f) = true → 60 ≤ f.a.toNat → active (me s) s.who.2 ≠ 0 →
            source s f.a 0 0 (active (me s) s.who.2 ||| laneBit n) (fun a b => .go a (fun _ => 0) b) = .go fa fb bad →
            exec (.vlaneS f) s = .next (takePops (advance (flyS s s.who.2 f.d.toNat (src n) 9) 4) (usesOf (.vlaneS f))
              (active (me s) s.who.2) (bad &&& active (me s) s.who.2))))
    ∧ (∀ (f : Head) (s : State) (fa fb : Nat → Word) (bad : Lanes),
      let src := fun (j : Nat) => if 96 ≤ j ∨ (me s).dead.getLsbD j then (0 : Word) else fa j
      let n := (sget s f.b).toNat
      let ls := lanesOf (acting s bad)
      let op := combine f.b.toNat
      let red := match ls with | [] => identityOf f.b.toNat | j :: js => js.foldl (fun acc j => op acc (fa j)) (fa j)
      let upTo := fun (i : Nat) => ls.takeWhile fun j => decide (j < i)
      let cross := fun (i : Instr) (b : Option Reg) (v : Nat → Word) =>
        ready s i = true → sources s (some f.a) b = .go fa fb bad →
          exec i s = .next (laneDone s (laneResult s f.d (acting s bad) v 9) i bad)
      let moved := fun (i : Instr) (b : Option Reg) (from_ : Nat → Nat) =>
        ready s i = true → sources s (some f.a) b = .go fa fb bad →
          ∃ v : Nat → Word, exec i s = .next (laneDone s
              (laneResult { s with fresh := s.fresh + if 60 ≤ f.a.toNat then 96 else 0 } f.d (acting s bad) v 9) i bad)
            ∧ ∀ j, (f.a.toNat < 60 ∨ 96 ≤ from_ j ∨ (me s).dead.getLsbD (from_ j) = true ∨ (active (me s) s.who.2).getLsbD (from_ j) = true) →
                v j = src (from_ j)
      moved (.vshfl f) (some f.b) (fun i => (fb i).toNat % 128)
        ∧ moved (.vrot f) none (fun i => if f.ty = 0 then (i + n) % 96 else 32 * (i / 32) + (i + n) % 32)
        ∧ moved (.vbln f) none (fun i => i ^^^ (n % 128))
        ∧ (f.ty ≠ 0 → cross (.vred f) none fun _ => red)
        ∧ (f.ty = 0 → ready s (.vred f) = true → sources s (some f.a) none = .go fa fb bad →
            exec (.vred f) s = .next (laneDone s (flyS s s.who.2 f.d.toNat red 9) (.vred f) bad))
        ∧ (ready s (.vscan f) = true → sources s (some f.a) none = .go fa fb bad →
            ∃ v : Nat → Word, exec (.vscan f) s = .next (laneDone s (laneResult s f.d (acting s bad) v 9) (.vscan f) bad)
              ∧ ∀ i ∈ ls, v i =
                let before := match upTo i with | [] => none | j :: js => some (js.foldl (fun acc j => op acc (fa j)) (fa j))
                if f.ty = 0 then (match before with | some w => op w (fa i) | none => fa i) else before.getD (identityOf f.b.toNat)))

/-- The frame of the lane arithmetic that has a vector destination, where no lane is poisoned: only the issuing group
and the next entry number and free value differ; of the group only vD in the acting lanes, the queues, results in flight and the
stream's position. -/
def Obligations.LaneFrame : Prop :=
  ∀ (f : Head) (h : Short) (l : LHead) (k : BitVec 3) (x : Word) (i : Instr) (d : Reg) (a b : Option Reg) (s t : State) (fa fb : Nat → Word),
    let two := fun (i : Instr) => (i, f.d, some f.a, some f.b)
    let one := fun (i : Instr) => (i, f.d, some f.a, none)
    let sh := fun (i : Instr) => (i, h.d, some h.d, some (h.b.setWidth 6))
    (i, d, a, b) ∈ [two (.vadd f), two (.vsub f), two (.vmul f), two (.vmulh f), two (.vmin f), two (.vmax f), one (.vabs f), two (.vmad f),
        two (.vand f), two (.vor f), two (.vxor f), two (.vshl f), two (.vshr f), two (.vsra f), one (.vpopc f), one (.vclz f)]
      ++ [one (.vaddImm f), one (.vsubImm f), one (.vmulImm f), one (.vmulhImm f), one (.vminImm f), one (.vmaxImm f), one (.vmadImm f),
        one (.vandImm f), one (.vorImm f), one (.vxorImm f), one (.vshlImm f), one (.vshrImm f), one (.vsraImm f)]
      ++ [two (.vfadd f), two (.vfsub f), two (.vfmul f), two (.vfma f), two (.vfmin f), two (.vfmax f), one (.vfabs f), one (.vfneg f)]
      ++ [one (.vrcp f), one (.vrsq f), one (.vsqrt f), one (.vexp2 f), one (.vlog2 f), one (.vsin f), one (.vcos f), one (.vtanh f)]
      ++ [one (.vmov f), one (.vsel f), one (.vlaneV f), one (.vfclass f), two (.vshfl f), one (.vrot f), one (.vbln f), one (.vscan f),
        one (.vdqblk f x), (.vbcs f, f.d, none, none), (.vlaneId f, f.d, none, none), (.vlix k f x, f.d, none, none), (.vli l, l.d, none, none)]
      ++ [sh (.vadd_16 h), sh (.vsub_16 h), sh (.vmul_16 h), sh (.vmin_16 h), sh (.vmax_16 h), sh (.vand_16 h), sh (.vor_16 h), sh (.vxor_16 h),
        sh (.vshl_16 h), sh (.vshr_16 h), sh (.vfadd_16 h), sh (.vfsub_16 h), sh (.vfmul_16 h), sh (.vfmin_16 h), sh (.vfmax_16 h),
        (.vmov_16 h, h.d, some (h.b.setWidth 6), none)] →
    ready s i = true → sources s a b = .go fa fb 0 → exec i s = .next t →
      t = { s with groups := t.groups, nextId := t.nextId, fresh := t.fresh } ∧ (∀ id, id ≠ s.who.1 → grp t id = grp s id)
        ∧ me t = { me s with vregs := (me t).vregs, fly := (me t).fly, q := (me t).q, sq := (me t).sq, splits := (me t).splits, aslice := (me t).aslice }
        ∧ KeepsScalars s t [] ∧ KeepsVectors s t [d.toNat] ∧ KeepsSplits s t ∧ KeepsBytes s t ∧ GoesOn s t (lenOf i)
        ∧ ∀ j, j < 96 → (acting s 0).getLsbD j = false → readV (me t) d.toNat j = readV (me s) d.toNat j

/-! ### Control and traps -/

/-- R87, R88, R34: the branches of major 0x08. A taken one goes to the segment's offset plus twice the signed field, or
traps FETCH outside 0 to the length − 2; CALL writes its link and SDBNZ its count. R60, R61, R89, R33, R34: JFNC, JMPR
and RET check the code address in order, write the link of JFNC only, and wait for a segment that is loading. -/
def Obligations.BranchesAndTransfers : Prop :=
  (∀ (f : JHead) (s : State) (seg : Seg),
      let g := me s
      let pc := pcOf g s.who.2
      let off : Int := ((pc.toNat % 4096 : Nat) : Int) + 2 * f.off.toInt
      let inside := 0 ≤ off ∧ off ≤ (seg.len : Int) - 2
      let target := (pc &&& 0xFFFFF000) ||| BitVec.ofNat 32 off.toNat
      let act := active g s.who.2
      let n := sget s f.s - 1
      let put := fun (v : Word) => updMe s fun g => writeS g s.who.2 f.s.toNat v
      let br := fun (i : Instr) (taken : Prop) (yes no : State) =>
        ready s i = true →
          (taken → ¬ inside → exec i s = .next (trapC s .fetch)) ∧ (taken → inside → exec i s = .next (goTo yes target))
            ∧ (¬ taken → exec i s = .next (advance no 4))
      segOf s g pc = some seg →
        br (.bra f) True s s ∧ br (.brz f) (sget s f.s = 0) s s ∧ br (.brnz f) (sget s f.s ≠ 0) s s
          ∧ br (.call f) True (scalResult s f.s.toNat (nextPc pc 4) 1) s
          ∧ br (.sdbnz f) (n ≠ 0) (put n) (put n)
          ∧ br (.bany f) (∃ i, i < 96 ∧ act.getLsbD i = true ∧ (tget s f.s).getLsbD i = true) s s
          ∧ br (.ball f) (∀ i, i < 96 → act.getLsbD i = true → (tget s f.s).getLsbD i = true) s s)
    ∧ (∀ (f : Head) (s : State) (seg : Seg) (k : Nat) (slot : Slot),
      let g := me s
      let t := sget s f.a
      let no := t.toNat / 4096 % 4096
      let bad := t.extractLsb' 24 8 ≠ 0 ∨ t.getLsbD 0 = true
      let found := slotFor s (coreOf s g) (ctxOf s g) seg.base
      let linked := scalResult s f.d.toNat (nextPc (pcOf g s.who.2) 4) 1
      let cases := fun (i : Instr) (u : State) =>
        ready s i = true →
          ((bad ∨ segOf s g t = none) → exec i s = .next (trapC s .fetch))
            ∧ (¬ bad → segOf s g t = some seg →
                (found = none → exec i s = .next (trap s { cause := .segnp, target := some no }))
                  ∧ (found = some (k, slot) →
                      (seg.len ≤ t.toNat % 4096 → exec i s = .next (trapC s .fetch))
                        ∧ (t.toNat % 4096 < seg.len → slot.st ≠ .loading → exec i s = .next (goTo u t))
                        ∧ (t.toNat % 4096 < seg.len → slot.st = .loading → exec i s = .next (block (goTo u t) (.segment no)))))
      cases (.jmpr f) s ∧ cases (.ret f) s ∧ cases (.jfnc f) linked)

/-- R93, R94: a divergent branch with no lane to send goes on; with all of them the whole split goes; else a new split
of the lowest free number takes them; with four splits the others are deferred on the token stack, or TOKEN traps. R95
to R98: JTOK pushes a token with the members of the split; VBRK parks lanes at the innermost token; JOIN without a token
or a partner goes on, and at its token's address waits or, once every lane of the token is there, lets all of them go on
behind it. -/
def Obligations.DivergentBranchesAndJoins : Prop :=
  (∀ (f : JHead) (s : State) (n : Nat) (target : Word) (want : Bool),
      let i : Instr := if want then .vbr f else .vbrn f
      let g := me s
      let p := split g n
      let c := active g (.split n) &&& (if want then tget s f.s else ~~~ tget s f.s)
      s.who.2 = .split n → ready s i = true →
        (c = 0 → exec i s = .next (advance s 4))
          ∧ (c ≠ 0 → branchTarget s g p.pc f.off = none → exec i s = .next (trapC s .fetch))
          ∧ (c ≠ 0 → branchTarget s g p.pc f.off = some target →
              (c = active g (.split n) → exec i s = .next (goTo s target))
                ∧ (c ≠ active g (.split n) →
                    (g.splits.length < 4 → mapGet g.splits (freeSplit g) = none → ∃ t, exec i s = .next t
                        ∧ split (me t) (freeSplit g) = { p with pc := target, members := c, am := c, ctr := 0, stall := 0, first := false, wait := none, clkHi := none, timeHi := none }
                        ∧ split (me t) n = { p with pc := nextPc p.pc 4, members := p.members &&& ~~~ c, am := p.am &&& ~~~ c, wait := none })
                      ∧ (4 ≤ g.splits.length → (innermost g n = none ∨ freeTok g = none) → exec i s = .next (trapC s .token))
                      ∧ (4 ≤ g.splits.length → innermost g n ≠ none → ∀ e, freeTok g = some e → ∃ t, exec i s = .next t
                          ∧ mapGet (me t).tokens e = some (.deferred n (nextPc p.pc 4) (p.members &&& ~~~ c) (p.am &&& ~~~ c))
                          ∧ split (me t) n = { p with pc := target, members := c, am := c, chain := e :: p.chain, wait := none }))))
    ∧ (∀ (f h : JHead) (s : State) (n : Nat),
      let g := me s
      let p := split g n
      let c := active g (.split n) &&& tget s f.s
      s.who.2 = .split n →
        (ready s (.jtok f) = true →
          (branchTarget s g p.pc f.off = none → exec (.jtok f) s = .next (trapC s .fetch))
            ∧ ∀ j, branchTarget s g p.pc f.off = some j →
              (freeTok g = none → exec (.jtok f) s = .next (trapC s .token))
                ∧ ∀ e, freeTok g = some e → ∃ t, exec (.jtok f) s = .next t
                  ∧ mapGet (me t).tokens e = some (.join j p.members 0 0 p.chain)
                  ∧ split (me t) n = { p with pc := nextPc p.pc 4, chain := e :: p.chain, wait := none })
          ∧ (ready s (.vbrk f) = true →
            (innermost g n = none → exec (.vbrk f) s = .next (trapC s .token))
              ∧ ∀ e, innermost g n = some e → exec (.vbrk f) s = .next (exitIfDone (updMe (advance s 4) fun g => checkToks
                  (settleSplit (updSplit (park g e c c) n fun p => { p with members := p.members &&& ~~~ c, am := p.am &&& ~~~ c }) n 9)) s.who.1))
          ∧ (ready s (.join h) = true →
            (g.splits = [(n, p)] → p.chain = [] → ∃ t, exec (.join h) s = .next t ∧ GoesOn s t 4
                ∧ (split (me t) n).members = p.members ∧ (split (me t) n).am = p.am)
              ∧ ∀ e l parked pam, g.splits = [(n, p)] → p.chain = [e] → g.tokens = [(e, .join p.pc l parked pam [])] → p.members ≠ 0 → e < 8 →
                  ∃ t, exec (.join h) s = .next t
                    ∧ (l &&& ~~~ (p.members ||| parked ||| g.exited ||| g.dead) ≠ 0 →
                        waitOf (me t) (.split n) = some (.join e) ∧ (split (me t) n).members = p.members)
                    ∧ (l &&& ~~~ (p.members ||| parked ||| g.exited ||| g.dead) = 0 →
                        (split (me t) n).pc = nextPc p.pc 4 ∧ (split (me t) n).members = p.members ||| parked
                          ∧ (split (me t) n).am = p.am ||| pam ∧ (me t).tokens = [])))

/-- R90, R92, R62: EXIT ends the split's members, which count as exited, or the address slice; TRAP and BKPT trap with
their number; NOPS holds the stream for the cycles it names and otherwise only goes on. -/
def Obligations.EndsAndTraps : Prop :=
  ∀ (f : Head) (s : State),
    let g := me s
    (ready s (.exit f) = true →
        (∀ n, s.who.2 = .split n → exec (.exit f) s = .next (exitIfDone (updMe s fun g => exitSplit g n) s.who.1)
            ∧ (exitSplit g n).exited = g.exited ||| (split g n).members)
          ∧ (s.who.2 = .aslice → exec (.exit f) s
              = .next (exitIfDone (updMe s fun g => { g with aslice := some { slice g with exited := true, wait := none } }) s.who.1)))
      ∧ (ready s (.trap f) = true → exec (.trap f) s = .next (trap s { cause := .swtrap, code := f.b.toNat }))
      ∧ (ready s (.bkpt f) = true → exec (.bkpt f) s = .next (trap s { cause := .bkpt, code := f.b.toNat }))
      ∧ (ready s (.nops f) = true → ∃ t, exec (.nops f) s = .next t ∧ OnlyMine s t ∧ GoesOn s t 4 ∧ KeepsScalars s t [] ∧ KeepsVectors s t []
          ∧ ∀ n, s.who.2 = .split n → (split (me t) n).stall = max (split g n).stall (nowOf s g + 1 + (f.b.toNat + f.sc.toNat)))

/-- R397, R401, R403, R404, R405: a trap stops the group at the instruction, which it names in TCAUSE and, but for four
causes, in CTXERR; its record goes to the trap ring and counts it on, or waits for room; no register of the stream and
no program counter moves. Stated of a group whose monitor is not armed: the save image may lie on the armed line. R405:
the layout of a trap record: 64 bytes with SEQ, and each field at its offset. -/
def Obligations.TrapEntry : Prop :=
  (∀ (s : State) (gid : Nat) (st : Stream) (info : TrapInfo),
      let g := grp s gid
      let cx := ctxOf s g
      let t := takeTrap s gid st info
      let bit : Word := 1 <<< codeOf info.cause
      let room := (ctx s cx).trapn - (ctx s cx).trapc
      g.monitor = none →
        (grp t gid).state = .stopped info st ∧ pcOf (grp t gid) st = pcOf g st
          ∧ (info.halt = false → (grp t gid).tcause = BitVec.ofNat 32 (codeOf info.cause + if st = .aslice then 256 else 0))
          ∧ (ctx t cx).ctxerr = (if info.cause ∈ [Cause.swtrap, .bkpt, .watch, .hintto] then (ctx s cx).ctxerr else (ctx s cx).ctxerr ||| bit)
          ∧ ((ctx s cx).recWait = [] → room.toNat < 2 ^ (ctx s cx).trapl → (ctx t cx).trapn = (ctx s cx).trapn + 1 ∧ (ctx t cx).recWait = [])
          ∧ (2 ^ (ctx s cx).trapl ≤ room.toNat → (ctx t cx).trapn = (ctx s cx).trapn
              ∧ ∃ r, (ctx t cx).recWait = (ctx s cx).recWait ++ [(gid, r)]))
    ∧ (∀ (s : State) (gid seq : Nat) (st : Stream) (info : TrapInfo) (area : Bool),
      let g := grp s gid
      let bs := leBytes seq 4 ++ recordBytes s gid st info area
      let field := fun (off n : Nat) => leNat ((bs.drop off).take n)
      bs.length = 64 ∧ field 0 4 = seq % 2 ^ 32 ∧ field 4 1 = codeOf info.cause
        ∧ field 5 1 = (if st = .aslice then 1 else 0) + (if info.lane.isSome then 2 else 0) + (if info.addr.isSome then 4 else 0)
            + (if info.halt then 8 else 0) + (if area then 16 else 0) + (if info.step then 32 else 0)
        ∧ field 6 1 = (match st with | .split n => n % 256 | .aslice => 0) ∧ field 7 1 = info.lane.getD 255 % 256
        ∧ field 8 4 = (pcOf g st).toNat ∧ field 12 4 = (info.code + 256 * info.reason + 4096 * info.kind) % 2 ^ 32
        ∧ field 16 8 = (info.addr.getD 0).toNat ∧ field 24 8 = (teamOf s g).launch % 2 ^ 64 ∧ field 32 4 = linOf s g % 2 ^ 32
        ∧ field 36 1 = g.gix % 256 ∧ field 38 2 = coreOf s g % 2 ^ 16 ∧ field 40 8 = g.stopTime.toNat
        ∧ field 48 8 = (match g.image with | some i => i.1.toNat | none => 0) ∧ field 56 8 = 0)

/-- R401, R406, R409, R416: RESUME and STEP let a stopped group on its core go on where R401 says for the cause, RESUME-NEXT
at the following instruction; a saved one, and one that is already in its image while its team is being saved (R411), waits for its
restore from there; a save image whose check word fails kills the group with ESTATE; KILL ends it, and KILL-LAUNCH ends every group
of its launch and marks the launch stopped (that mark is the model's choice: log 27); a group that is not stopped is left alone (the
model's choice: log 32). R406, R420 to R422: a STEP that has counted out and a HALT stop the group with cause BKPT, the one with STEP
set in its record and the other by a debugger (the cause of a HALT is the model's choice: log 14); a launch that is not the
partition's is left alone. When an engine has been frozen for 100 ms it goes on, and each halted context's CTXERR bit 0x16 is set;
before that the event changes nothing. -/
def Obligations.GroupCommands : Prop :=
  (∀ (s u : State) (p gid n len : Nat) (info : TrapInfo) (st : Stream),
      let g := grp s gid
      let on := fun (t : State) (skip : Nat) (steps : Option Nat) =>
        (grp t gid).state = .running ∧ (grp t gid).stepLeft = steps ∧ (grp t gid).recordDue = false ∧ (grp t gid).abandoned = []
          ∧ (waitOf (grp u gid) st = none → (∀ w ∈ (poolOf (teamOf u (grp u gid)) (grp u gid).quad).waiting, w.1 ≠ gid) →
              pcOf (grp t gid) st = if skip = 0 then pcOf (grp u gid) st else nextPc (pcOf (grp u gid) st) skip)
      let skip := if info.step ∨ info.halt then 0 else if info.cause = .swtrap ∨ info.cause = .bkpt then 4 else 0
      let there := match st with | .split k => (mapGet (grp u gid).splits k).isSome = true | .aslice => (grp u gid).aslice.isSome = true
      (isStopped s p gid = false → exec (.resume p gid) s = .next s ∧ exec (.resumeNext p gid) s = .next s ∧ exec (.kill p gid) s = .next s
          ∧ exec (.killLaunch p gid) s = .next s ∧ exec (.step p gid n) s = .next s)
        ∧ (isStopped s p gid = true → g.state = .stopped info st → goesOnNow s gid = true → readImage s gid = (u, true) → there →
            info.entry = none → info.target = none →
            (∃ t, exec (.resume p gid) s = .next t ∧ on t skip none)
              ∧ (1 ≤ n → n ≤ 255 → ∃ t, exec (.step p gid n) s = .next t ∧ on t skip (some n))
              ∧ (stoppedLen s gid info st = some len → ∃ t, exec (.resumeNext p gid) s = .next t ∧ on t len none)
              ∧ (stoppedLen s gid info st = none → exec (.resumeNext p gid) s = .next s))
        ∧ (isStopped s p gid = true → g.state = .stopped info st → goesOnNow s gid = true → readImage s gid = (u, false) →
            info.entry = none → info.target = none →
            exec (.resume p gid) s = .next (killGroup (requeueOps u gid) gid .estate (pcOf (grp (requeueOps u gid) gid) (.split 0))))
        ∧ (isStopped s p gid = true → g.state = .stopped info st → goesOnNow s gid = false → readImage s gid = (u, true) → there →
            ∃ t, exec (.resume p gid) s = .next t ∧ (grp t gid).state = .parked ∧ (grp t gid).recordDue = false ∧ (grp t gid).stepLeft = none
              ∧ (grp t gid).image = (grp u gid).image
              ∧ (waitOf (grp u gid) st = none → pcOf (grp t gid) st = if skip = 0 then pcOf (grp u gid) st else nextPc (pcOf (grp u gid) st) skip))
        ∧ (isStopped s p gid = true → g.state = .parked → readImage s gid = (u, true) →
            ∃ t, exec (.resume p gid) s = .next t ∧ (grp t gid).state = .parked ∧ (grp t gid).forced = false ∧ isStopped t p gid = false
              ∧ (grp t gid).image = (grp u gid).image ∧ pcOf (grp t gid) st = pcOf (grp u gid) st)
        ∧ (isStopped s p gid = true →
            (∃ t, exec (.kill p gid) s = .next t ∧ (grp t gid).state = .gone)
              ∧ ∃ t, exec (.killLaunch p gid) s = .next t ∧ (grp t gid).state = .gone ∧ (launch t (teamOf s g).launch).stopped = true))
    ∧ (∀ (s : State) (p gid id core : Nat),
      let g := grp s gid
      let st : Stream := match g.splits with | x :: _ => .split x.1 | [] => .aslice
      (g.state = .running → g.resident = true → g.stepLeft = some 0 →
          exec (.stepCountExpire gid) s = .next (takeTrap (updGrp s gid fun g => { g with stepLeft := none }) gid st { cause := .bkpt, step := true }))
        ∧ ((g.state ≠ .running ∨ g.stepLeft ≠ some 0) → exec (.stepCountExpire gid) s = .next s)
        ∧ (id ≠ 0 → (mapGet s.launches id = none ∨ (launch s id).part ≠ p) → exec (.halt p id 0 0xFFFFFFFF 0xFFFFFFFF) s = .next s)
        ∧ (id ≠ 0 → (mapGet s.launches id).isSome = true → (launch s id).part = p → groupsOf s id = [gid] → partOf s g = p → g.state = .running →
            exec (.halt p id 0 0xFFFFFFFF 0xFFFFFFFF) s = .next (takeTrap (newFreeze s) gid st { cause := .bkpt, halt := true }))
        ∧ (freezeOver s core = true → ∃ t, exec (.freezeTimeout core) s = .next t ∧ (Machine.core t core).thawed = true
            ∧ ∀ x ∈ freezers s core, (ctx t (ctxOf s (grp s x))).ctxerr.getLsbD 0x16 = true)
        ∧ (freezeOver s core = false → exec (.freezeTimeout core) s = .next s)
        ∧ (∀ at_, (Machine.core s core).frozenAt = some at_ →
            (freezeOver s core = true ↔ engineFrozen s core = true ∧ 100000000 ≤ (s.time - at_).toNat)))

/-- R292, R316, R261, R274, R424, R408, R412: WAITE goes on once its class has at most n operations; FENCE waits for the
slice's accesses, then writes back and drops what its TY and scope say; IDEM sets the split's restart point and frees
held entries; PHINT checks its operands, and is a save point where R412 says. (Which accesses a FENCE still waits for is
DEDUCED: log 7.) -/
def Obligations.SystemOps : Prop :=
  ∀ (f : Head) (x y : Word) (s : State),
    let g := me s
    let scope := f.b.toNat % 8
    let c := coreOf s g
    let size := (teamOf s g).spsize
    let past := fun (v : Word) => size < ((v.toNat % 65536) + v.toNat / 65536) * 64
    let live := fun (k : Nat) => if k < 32 then x.getLsbD k else y.getLsbD (k - 32)
    let high := ∃ k, k < 60 ∧ live k = true ∧ topReg g ≤ k
    let qmap := (∃ k, k < 5 ∧ f.d.getLsbD k = true) ∨ ∃ k, k < 4 ∧ y.getLsbD (28 + k) = true
    let empty := ∀ k, k < 4 → (f.d.getLsbD k = true ∨ opQ g k = []) ∧ (y.getLsbD (28 + k) = true ∨ stQ g k = [])
    let point := g.preempt = true ∧ g.splits.length = 1 ∧ empty ∧ (f.d.getLsbD 4 = true ∨ g.toks = [])
    let i : Instr := .phint f x y
    (ready s (.waite f) = true →
        (classCount g f.ty.toNat ≤ f.b.toNat → exec (.waite f) s = .next (advance s 4))
          ∧ (f.b.toNat < classCount g f.ty.toNat → exec (.waite f) s = .next (block s .retry)))
      ∧ (ready s (.fence f) = true →
        (accessesOut g s.who.2 = true → exec (.fence f) s = .next (block s .retry))
          ∧ (accessesOut g s.who.2 = false →
              (scope < 2 → exec (.fence f) s = .next (advance s 4))
                ∧ (2 ≤ scope → f.ty = 1 → exec (.fence f) s = .next (advance (writeBackAll s c) 4))
                ∧ (2 ≤ scope → f.ty = 2 → exec (.fence f) s = .next (advance (dropClean s c) 4))
                ∧ (2 ≤ scope → (f.ty = 0 ∨ f.ty = 3) → exec (.fence f) s
                    = .next (advance (dropClean (writeBackAll s c) (coreOf (writeBackAll s c) (me (writeBackAll s c)))) 4))))
      ∧ (∀ n, s.who.2 = .split n → (mapGet g.splits n).isSome = true → ready s (.idem f) = true → ∃ t, exec (.idem f) s = .next t
          ∧ OnlyMine s t ∧ GoesOn s t 4 ∧ KeepsScalars s t [] ∧ KeepsVectors s t []
          ∧ (split (me t) n).restart = nextPc (split g n).pc 4 ∧ (split (me t) n).restartable = true ∧ (split (me t) n).tries = 0
          ∧ (me t).idem = true ∧ ∀ k, k < 4 → ∀ e ∈ opQ (me t) k, e.held = false)
      ∧ (ready s i = true →
        ((past (sget s f.a) ∨ past (sget s f.b)) → exec i s = .next (trapC s .spbnd))
          ∧ (¬ past (sget s f.a) → ¬ past (sget s f.b) →
              (high → exec i s = .next (trapC s .rfover))
                ∧ (¬ high → g.aslice = none → qmap → exec i s = .next (trapC s .quse))
                ∧ (¬ high → (g.aslice = none → ¬ qmap) → ¬ point → exec i s = .next (advance s 12))
                ∧ (¬ high → (g.aslice = none → ¬ qmap) → point → ∃ t, exec i s = .next t ∧ (me t).state = .parked
                    ∧ (me t).preempt = false ∧ (me t).hintRegs = some ((List.range 60).filter live))))

/-! ### Memory -/

/-- R113, R263, R264, R258, R291: SLD and VLD form their addresses, check them, wait while class 0 holds 63 operations,
and bring what the core sees there, extended as the minor says, as a result that returns later; a lane that reads poison
dies instead. Nothing else of the group moves, and every byte stays. (What a load brings is read as it issues: log 7.)
-/
def Obligations.Loads : Prop :=
  ∀ (k : BitVec 3) (f : Head) (s : State) (fa fb : Nat → Word) (bad : Lanes) (at_ : List (Nat × Nat × Bool)) (pa : Nat) (uc : Bool),
    let g := me s
    let c := coreOf s g
    let st := s.who.2
    let word := fun (a n : Nat) => BitVec.ofNat 32 (leNat ((List.range n).map fun j => seen s c (a + j)))
    let loaded := fun (u : State) (p : Pend) =>
      me u = { g with pend := g.pend ++ [p], classes := (me u).classes } ∧ (∀ x, x ≠ s.who.1 → grp u x = grp s x) ∧ u.who = s.who
        ∧ p.op = some p.id ∧ p.stream = st ∧ classCount (me u) 0 = classCount g 0 + 1
        ∧ KeepsBytes s u ∧ (∀ a, seen u c a = seen s c a) ∧ u.poison = s.poison
    let sld := fun (i : Instr) (size : Nat) =>
      let ea := pget s f.a + (if f.ty = 0 then BitVec.ofNat 64 (f.b.toNat * size) else (sget s f.b).setWidth 64)
      let put := fun (r : Nat) (v : Word) => ({ isV := false, reg := r, vals := cellSet [] 0 v, stream := st } : RegWrite)
      ready s i = true →
        (63 ≤ classCount g 0 → exec i s = .next (block s .retry))
          ∧ (classCount g 0 < 63 → ea.toNat % size ≠ 0 → exec i s = .next (trap s { cause := .align, addr := some ea }))
          ∧ (classCount g 0 < 63 → checkAccesses s [(96, ea)] size 0 noRefusal = .ok [(96, pa, uc)] →
              (coreBad s c pa size = true → exec i s
                  = .next (laneDeath (advance (countDone s 0) 4) s.who.1 (match st with | .split n => (split g n).members | .aslice => livingLanes g) 2))
                ∧ (coreBad s c pa size = false → ∃ u p, exec i s = .next (advance u 4) ∧ loaded u p
                    ∧ p.writes = (List.range (size / 4)).map fun j => put (f.d.toNat + j) (word (pa + 4 * j) 4)))
    let size := if k.toNat < 2 then 1 else if k.toNat < 4 then 2 else if k = 5 then 8 else if k = 6 then 16 else 4
    let n := if k = 5 then 2 else if k = 6 then 4 else 1
    let ea := fun (i : Nat) => pget s f.b + (if f.ty = 0 then (fa i).setWidth 64 else if f.ty = 1 then (fa i).signExtend 64 else (fa i).setWidth 64 * 4)
    let lanes := acting s bad
    let value := fun (a j : Nat) => if k = 1 then ((word a 1).setWidth 8).signExtend 32 else if k = 3 then ((word a 2).setWidth 16).signExtend 32
      else word (a + 4 * j) (min size 4)
    let i : Instr := .vld k f
    sld (.sld_32 f) 4 ∧ sld (.sld_64 f) 8
      ∧ (ready s i = true → sources s (some f.a) none = .go fa fb bad →
          (lanes = 0 → exec i s = .next (laneDone s s i bad))
            ∧ (lanes ≠ 0 → 63 ≤ classCount g 0 → exec i s = .next (block s .retry))
            ∧ (classCount g 0 < 63 → ∀ x, x < 96 → lanes.getLsbD x = true → (ea x).toNat % size ≠ 0 →
                (∀ y, y < x → lanes.getLsbD y = true → (ea y).toNat % size = 0) →
                exec i s = .next (trap s { cause := .align, lane := some x, addr := some (ea x) }))
            ∧ (lanes ≠ 0 → classCount g 0 < 63 →
                checkAccesses s ((lanesOf lanes).map fun x => (x, ea x)) size 0 noRefusal = .ok at_ →
                ∃ u p dead, exec i s = .next (takePops (advance u 4) (usesOf i) (active g st) (bad ||| dead)) ∧ loaded u p
                  ∧ (∀ x, dead.getLsbD x = true ↔ ∃ e ∈ at_, e.1 = x ∧ coreBad s c e.2.1 size = true)
                  ∧ p.writes.map (fun w => (w.isV, w.reg, w.mask)) = ((List.range n).map fun j => (true, f.d.toNat + j, lanes &&& ~~~ dead))
                  ∧ ∀ j, j < n → ∀ e ∈ at_, coreBad s c e.2.1 size = false →
                      ∃ w ∈ p.writes, w.reg = f.d.toNat + j ∧ cellGet w.vals e.1 = value e.2.1 j))

/-- R113, R248, R249, R263, R264: SST and VST store the low bytes of their registers, lanes ascending, into the core's
L1 where it caches the line, which leaves memory as it was, and to the destination where it does not. Every other byte
reads as before, and only monitors move in any group. (A store is performed as it issues: log 7.) -/
def Obligations.Stores : Prop :=
  ∀ (k : BitVec 3) (f : Head) (s : State) (fa fb : Nat → Word) (bad : Lanes) (at_ : List (Nat × Nat × Bool)) (pa : Nat) (uc : Bool),
    let g := me s
    let c := coreOf s g
    let quiet := ∀ e ∈ s.groups, e.2.monitor = none
    let stays := fun (u : State) => u.who = s.who ∧ (quiet → me u = { g with classes := (me u).classes } ∧ ∀ x, x ≠ s.who.1 → grp u x = grp s x)
    let lands := fun (nt : Bool) (size : Nat) (e : Nat × Nat × Bool) =>
      (cached s e.2.1 = true ∧ e.2.2 = false ∧ nt = false) ∨ (downIn s e.2.1 size = false ∧ refusedOutside s e.2.1 size = false)
    let sst := fun (i : Instr) (size v : Nat) =>
      let ea := pget s f.a + (if f.ty = 0 then BitVec.ofNat 64 (f.b.toNat * size) else (sget s f.b).setWidth 64)
      let inside := fun (a : Nat) => pa ≤ a ∧ a < pa + size
      ready s i = true →
        (63 ≤ classCount g 0 → exec i s = .next (block s .retry))
          ∧ (classCount g 0 < 63 → ea.toNat % size ≠ 0 → exec i s = .next (trap s { cause := .align, addr := some ea, kind := 1 }))
          ∧ (classCount g 0 < 63 → checkAccesses s [(96, ea)] size 1 noRefusal = .ok [(96, pa, uc)] → lands false size (96, pa, uc) →
              ∃ u, exec i s = .next (advance u 4) ∧ stays u
                ∧ (∀ a, seen u c a = if inside a then BitVec.ofNat 8 (v / 256 ^ (a - pa)) else seen s c a)
                ∧ (cached s pa = true → uc = false → KeepsBytes s u)
                ∧ ((cached s pa = false ∨ uc = true) →
                    ∀ a, cellGet u.mem a = if inside a then BitVec.ofNat 8 (v / 256 ^ (a - pa)) else cellGet s.mem a))
    let size := if k = 0 then 1 else if k = 1 then 2 else if k = 3 then 8 else if k = 4 then 16 else 4
    let ea := fun (i : Nat) => pget s f.b + (if f.ty = 0 then (fa i).setWidth 64 else if f.ty = 1 then (fa i).signExtend 64 else (fa i).setWidth 64 * 4)
    let lanes := acting s bad
    let covers := fun (a : Nat) (e : Nat × Nat × Bool) => decide (e.2.1 ≤ a) && decide (a < e.2.1 + size)
    let byte := fun (e : Nat × Nat × Bool) (a : Nat) =>
      BitVec.ofNat 8 ((readV g (f.d.toNat + (a - e.2.1) / 4) e.1).toNat / 256 ^ ((a - e.2.1) % 4))
    let i : Instr := .vst k f
    sst (.sst_32 f) 4 (sget s f.d).toNat ∧ sst (.sst_64 f) 8 (pget s f.d).toNat
      ∧ (k.toNat < 6 → ready s i = true → sources s (some f.a) none = .go fa fb bad →
          (lanes = 0 → exec i s = .next (laneDone s s i bad))
            ∧ (lanes ≠ 0 → 63 ≤ classCount g 0 → exec i s = .next (block s .retry))
            ∧ (classCount g 0 < 63 → ∀ x, x < 96 → lanes.getLsbD x = true → (ea x).toNat % size ≠ 0 →
                (∀ y, y < x → lanes.getLsbD y = true → (ea y).toNat % size = 0) →
                exec i s = .next (trap s { cause := .align, lane := some x, addr := some (ea x), kind := 1 }))
            ∧ (lanes ≠ 0 → classCount g 0 < 63 → checkAccesses s ((lanesOf lanes).map fun x => (x, ea x)) size 1 noRefusal = .ok at_ →
                (∀ e ∈ at_, lands (k == 5) size e) →
                ∃ u, exec i s = .next (laneDone s u i bad) ∧ stays u
                  ∧ (∀ a, seen u c a = match (at_.filter (covers a)).getLast? with | some e => byte e a | none => seen s c a)
                  ∧ ((∀ e ∈ at_, cached s e.2.1 = true ∧ e.2.2 = false) → k ≠ 5 → KeepsBytes s u)
                  ∧ ∀ a, (∀ e ∈ at_, covers a e = false) → cellGet u.mem a = cellGet s.mem a))

/-- R266, R267, R258, R261, R262: ATOM releases, is performed at the home of its line in ascending lane order, each lane
getting the value before its own operation, and acquires; a lane whose line is poisoned dies and changes nothing. R269,
R272, R273, R161: an unordered FATOM adds at the home, lanes ascending, with one rounding each; an ordered one, and any
with REPRO = 1, is held under its key with no byte written, or waits and interrupts the runtime while the area is full.
-/
def Obligations.Atomics : Prop :=
  (∀ (k : BitVec 3) (f : Head) (t : Word) (s : State) (fa fb : Nat → Word) (bad : Lanes) (at_ : List (Nat × Nat × Bool)),
      let g := me s
      let c := coreOf s g
      let i : Instr := .atom k f t
      let ord := t.toNat / 2 ^ 29
      let scope := t.toNat / 2 ^ 26 % 8
      let rel := decide (2 ≤ ord ∧ ord ≤ 4)
      let acq := decide (ord = 1 ∨ ord = 3 ∨ ord = 4)
      let wide := decide (2 ≤ f.ty.toNat)
      let size := if wide then 8 else 4
      let form := t.toNat / 256 % 4
      let ea := fun (i : Nat) => pget s f.b + (if form = 0 then (fa i).setWidth 64 else if form = 1 then (fa i).signExtend 64 else (fa i).setWidth 64 * 4)
      let lanes := acting s bad
      let operand := fun (r i : Nat) => (readV g r i).toNat + (if wide then 2 ^ 32 * (readV g (r + 1) i).toNat else 0)
      let v := operand (t.toNat / 1024 % 64)
      let cmp := operand (t.toNat / 65536 % 64)
      let signed := f.ty = 0 ∨ f.ty = 2
      let num := fun (x : Nat) => if signed then (BitVec.ofNat (8 * size) x).toInt else (x : Int)
      let new := fun (lane old : Nat) => match k.toNat with
        | 0 => (old + v lane) % 2 ^ (8 * size)
        | 1 => if num (v lane) < num old then v lane else old
        | 2 => if num old < num (v lane) then v lane else old
        | 3 => old &&& v lane | 4 => old ||| v lane | 5 => old ^^^ v lane | 6 => v lane
        | _ => if old = cmp lane then v lane else old
      let lines := at_.map fun e => e.2.1 / 64
      let s0 := if rel && decide (2 ≤ scope) then writeBackAll s c else s
      let s1 := yieldLines (if acq && t.getLsbD 25 then promote s0 c lines else s0) c lines
      let hurt := fun (e : Nat × Nat × Bool) => poisoned s1 e.2.1 size
      let old := fun (es : List (Nat × Nat × Bool)) (a : Nat) =>
        es.foldl (fun x e => if e.2.1 = a ∧ hurt e = false then new e.1 x else x) (leNat (homeRead s1 a size))
      ready s i = true → sources s (some f.a) none = .go fa fb bad → lanes ≠ 0 → (classCount g 0 < 63 →
          checkAccesses s ((lanesOf lanes).map fun x => (x, ea x)) size 2 (hostAtomic s k.toNat) = .ok at_ →
          ∃ u dead, exec i s = .next (takePops (advance u 8) (usesOf i) (active g s.who.2) (bad ||| dead))
            ∧ (∀ x, dead.getLsbD x = true ↔ ∃ e ∈ at_, e.1 = x ∧ hurt e = true)
            ∧ (∀ e ∈ at_, leNat (homeRead u e.2.1 size) = old at_ e.2.1)
            ∧ (∀ a, (∀ e ∈ at_, ¬ (e.2.1 ≤ a ∧ a < e.2.1 + size)) → cellGet u.mem a = cellGet s1.mem a)
            ∧ (t.getLsbD 22 = true → (me u).pend = (me s1).pend)
            ∧ (t.getLsbD 22 = false → ∃ p, (me u).pend = (me s1).pend ++ [p] ∧ p.op = some p.id
                ∧ p.writes.map (fun w => (w.isV, w.reg, w.mask)) = ((List.range (size / 4)).map fun j => (true, f.d.toNat + j, lanes &&& ~~~ dead))
                ∧ ∀ j, j < size / 4 → ∀ n, (h : n < at_.length) → hurt at_[n] = false →
                    ∃ w ∈ p.writes, w.reg = f.d.toNat + j ∧ (cellGet w.vals at_[n].1).toNat = old (at_.take n) at_[n].2.1 / 2 ^ (32 * j) % 2 ^ 32))
        ∧ (63 ≤ classCount g 0 → exec i s = .next (block s .retry)))
    ∧ (∀ (k : BitVec 3) (f : Head) (s : State) (fa fb : Nat → Word) (bad : Lanes) (at_ : List (Nat × Nat × Bool)),
      let g := me s
      let i : Instr := .fatom k f
      let lanes := acting s bad
      let ord := k ≠ 2 ∨ g.repro.getLsbD 0 = true
      let l := (teamOf s g).launch
      let p := partOf s g
      let size := if k = 1 then 2 else 4
      let ea := fun (i : Nat) => pget s f.b + (if f.ty = 0 then (fa i).setWidth 64 else if f.ty = 1 then (fa i).signExtend 64 else (fa i).setWidth 64 * 4)
      let refuse := fun (pa : Nat) => if ord then (if cached s pa then none else some 9) else if regionOf s pa = .host then some 8 else none
      let s1 := yieldLines s (coreOf s g) (at_.map fun e => e.2.1 / 64)
      let hurt := fun (e : Nat × Nat × Bool) => poisoned s1 e.2.1 4
      let sum := fun (a : Nat) =>
        at_.foldl (fun x e => if e.2.1 = a ∧ hurt e = false then addF fp32 x (readV g f.d.toNat e.1).toNat else x) (leNat (homeRead s1 a 4))
      let mine := fun (lane : Nat) => ((launch s l).contribs.filter fun x => x.lin == linOf s g && x.gix == g.gix && x.lane == lane).length
      ready s i = true → sources s (some f.a) none = .go fa fb bad →
        (lanes = 0 → exec i s = .next (laneDone s s i bad))
          ∧ (lanes ≠ 0 → 63 ≤ classCount g 0 → exec i s = .next (block s .retry))
          ∧ (lanes ≠ 0 → classCount g 0 < 63 → checkAccesses s ((lanesOf lanes).map fun x => (x, ea x)) size 2 refuse = .ok at_ →
              (¬ ord → ∃ u dead, exec i s = .next (takePops (advance u 4) (usesOf i) (active g s.who.2) (bad ||| dead))
                  ∧ (∀ x, dead.getLsbD x = true ↔ ∃ e ∈ at_, e.1 = x ∧ hurt e = true)
                  ∧ (∀ e ∈ at_, leNat (homeRead u e.2.1 4) = sum e.2.1 % 2 ^ 32)
                  ∧ (∀ a, (∀ e ∈ at_, ¬ (e.2.1 ≤ a ∧ a < e.2.1 + 4)) → cellGet u.mem a = cellGet s1.mem a))
                ∧ (ord → 16 * (heldIn s p + at_.length) ≤ (part s p).addSize → ∃ u, exec i s = .next (laneDone s u i bad) ∧ KeepsBytes s u
                    ∧ (launch u l).contribs = (launch s l).contribs ++ at_.map fun e =>
                        { pa := e.2.1, bf16 := k == 1, lin := linOf s g, gix := g.gix, lane := e.1, k := mine e.1
                          val := if k = 1 then (readV g f.d.toNat e.1) &&& 0xFFFF else readV g f.d.toNat e.1 })
                ∧ (ord → (part s p).addSize < 16 * (heldIn s p + at_.length) → ∃ t, exec i s = .next t
                    ∧ waitOf (me t) s.who.2 = some .retry ∧ (launch t l).areaWait = true ∧ (launch t l).contribs = (launch s l).contribs
                    ∧ (part t p).addFull = true ∧ t.interrupts = s.interrupts ++ if (part s p).addFull then [] else [.systemAll p 1])))

/-- R50, R264, R291, R252 to R257, R248: a load's return writes its registers in the living lanes and completes its
operation; the end of the walks a stream waits for lets it issue again, has it wait for a page to be zeroed, or traps
for the first failing access; an evicted line's dirty bytes reach their home. (The model's choice: the room and the replacement of
translations, log 9, and the order of checks around a walk, log 39.) -/
def Obligations.MemoryEvents : Prop :=
  ∀ (s : State) (gid id n c l : Nat) (p : Pend) (w : RegWrite) (reqs pre post : List (Nat × Addr × Nat)) (r : Nat × Addr × Nat) (reason : Nat)
      (line : Line),
    let g := grp s gid
    let found := g.pend.find? fun p => p.id == id
    let st : Stream := if n = 4 then .aslice else .split n
    let core := coreOf s g
    let cx := ctxOf s g
    let s1 := reqs.foldl (fun s r => tlbFill s core cx r.2.1) s
    let res := fun (r : Nat × Addr × Nat) => match xlateTlb s1 core cx r.2.1 r.2.2 with | .miss => xlateWalk s1 cx r.2.1 r.2.2 | x => x
    let out := Instr.l1Eviction c l
    (found = none → exec (.loadReturn gid id) s = .next s)
      ∧ (found = some p → g.image = none → g.hintRegs = none → p.writes = [w] → ∃ t, exec (.loadReturn gid id) s = .next t ∧ KeepsBytes s t
          ∧ (grp t gid).pend = g.pend.filter (fun q => q.id != id)
          ∧ (∀ op, p.op = some op → (grp t gid).classes = (classDone g 0 op).classes)
          ∧ (w.isV = true → ∀ k i, i < 96 → readV (grp t gid) k i
              = if k = w.reg ∧ w.mask.getLsbD i = true ∧ g.dead.getLsbD i = false then cellGet w.vals i else readV g k i)
          ∧ (w.isV = false → 1 ≤ w.reg → w.reg ≤ 60 → readS (grp t gid) w.stream w.reg = cellGet w.vals 0
              ∧ ∀ k, k ≠ w.reg → readS (grp t gid) w.stream k = readS g w.stream k))
      ∧ ((∀ x, waitOf g st ≠ some (.xlate x)) → exec (.translationCheckDone gid n) s = .next s)
      ∧ (waitOf g st = some (.xlate reqs) →
          (reqs = pre ++ r :: post → (∀ x ∈ pre, ∀ y, res x ≠ .fail y) → res r = .fail reason →
              exec (.translationCheckDone gid n) s = .next (takeTrap (updGrp s1 gid fun g => setWait g st none) gid st
                { cause := if reason ≤ 2 then .xlate else .prot, lane := if r.1 < 96 then some r.1 else none, addr := some r.2.1, kind := r.2.2
                  reason := reason }))
            ∧ ((∀ x ∈ reqs, ∀ y, res x ≠ .fail y) → ∃ t, exec (.translationCheckDone gid n) s = .next t ∧ KeepsBytes s t
                ∧ pcOf (grp t gid) st = pcOf g st
                ∧ ((∀ x ∈ reqs, res x ≠ .zero) → waitOf (grp t gid) st = none
                    ∧ (reqs.length ≤ 256 → ∀ x ∈ reqs, xlateTlb t core cx x.2.1 x.2.2 ≠ .miss))
                ∧ ((∃ x ∈ reqs, res x = .zero) → waitOf (grp t gid) st
                    = some (.zero ((reqs.filter fun x => res x == .zero).map fun x => x.2.1)))))
      ∧ (mapGet (Machine.core s c).l1 l = none → ∃ t, exec out s = .next t ∧ KeepsBytes s t ∧ mapGet (Machine.core t c).l1 l = none)
      ∧ (mapGet (Machine.core s c).l1 l = some line → downIn s (64 * l) 64 = false → refusedOutside s (64 * l) 64 = false →
          ∃ t, exec out s = .next t ∧ mapGet (Machine.core t c).l1 l = none
            ∧ (∀ i, i < 64 → cellGet t.mem (64 * l + i) = if line.dirty.getLsbD i then line.bytes.getD i 0 else cellGet s.mem (64 * l + i))
            ∧ ∀ a, a < 64 * l ∨ 64 * l + 64 ≤ a → cellGet t.mem a = cellGet s.mem a)

/-- R222, R225 to R228: VLDS, VSTS and ATOMS check every lane's alignment and bound before any effect, act on the team's
scratchpad in ascending lane order, kill the lanes that read a poisoned sector, and pay for their bank cycles; an
uncorrectable error poisons its sector. A bank loses no more than eight cycles to the other requesters of R224, and none where none
of them is at work. (Only distinct stripes count towards C, and how many cycles are lost is a free value: log 10.) -/
def Obligations.Scratchpad : Prop :=
  ∀ (f : Head) (k : BitVec 3) (x : Word) (s : State) (fa fb : Nat → Word) (bad : Lanes) (team off : Nat),
    let g := me s
    let c := coreOf s g
    let tid := g.team
    let lanes := acting s bad
    let sp := fun (s : State) (a : Nat) => cellGet (Machine.team s tid).sp a
    let word := fun (a : Nat) => BitVec.ofNat 32 (leNat ((List.range 4).map fun j => sp s (a + j)))
    let free := fun (a : Nat) => 16 * f.b.toNat + (fa a).toNat
    let quiet := ∀ e ∈ s.groups, e.2.monitor = none
    let traps := fun (i : Instr) (at_ : Nat → Nat) (size kind : Nat) =>
      ∀ y, y < 96 → lanes.getLsbD y = true →
        (at_ y % size ≠ 0 → (∀ z, z < y → lanes.getLsbD z = true → at_ z % size = 0) → exec i s
            = .next (trap s { cause := .align, lane := some y, addr := some (BitVec.ofNat 64 (at_ y)), kind := kind }))
          ∧ ((∀ z, z < 96 → lanes.getLsbD z = true → at_ z % size = 0) → (teamOf s g).spsize < at_ y + size →
              (∀ z, z < y → lanes.getLsbD z = true → at_ z + size ≤ (teamOf s g).spsize) → exec i s
                = .next (trap s { cause := .spbnd, lane := some y, addr := some (BitVec.ofNat 64 (at_ y)), kind := kind }))
    let fits := fun (at_ : Nat → Nat) (size : Nat) =>
      ∀ z, z < 96 → lanes.getLsbD z = true → at_ z % size = 0 ∧ at_ z + size ≤ (teamOf s g).spsize
    let lose := fun (lost : Nat) => lost ≤ 8 ∧ (banksShared (Machine.core s c) = false → lost = 0)
    let pays := fun (u : State) (cost : Nat) => (quad (core u c) g.quad).owed = (quad (core s c) g.quad).owed + (min cost 11 - 3)
    let words := fun (at_ : Nat → Nat) (n : Nat) => (lanesOf lanes).flatMap fun y => (List.range n).map fun j => at_ y + 4 * j
    let ends := fun (i : Instr) (u : State) (dead : Lanes) =>
      exec i s = .next (takePops (advance u (lenOf i)) (usesOf i) (active g s.who.2) (bad ||| dead))
        ∧ KeepsBytes s u ∧ u.who = s.who ∧ (quiet → (me u).sregs = g.sregs ∧ (me u).vregs = g.vregs)
    let write := fun (w : RegWrite) (reg : Nat) (mask : Lanes) (val : Nat → Word) =>
      w.isV = true ∧ w.reg = reg ∧ w.mask = mask ∧ ∀ y, y < 96 → mask.getLsbD y = true → cellGet w.vals y = val y
    let vlds := fun (i : Instr) (n : Nat) => ready s i = true → sources s (some f.a) none = .go fa fb bad →
      traps i free (4 * n) 0
        ∧ (fits free (4 * n) → ∃ u dead lost, ends i u dead ∧ sp u = sp s ∧ lose lost ∧ pays u (bankCost (words free n) + lost)
            ∧ (∀ y, y < 96 → (dead.getLsbD y = true ↔ lanes.getLsbD y = true ∧ spBad s tid (free y) (4 * n) = true))
            ∧ (bankCost (words free n) + lost ≤ 11 → ∀ j, j < n → ∃ e ∈ (me u).fly, e.due = nowOf s g + 10
                ∧ write e.w (f.d.toNat + j) (lanes &&& ~~~ dead) fun y => word (free y + 4 * j))
            ∧ (11 < bankCost (words free n) + lost → ∃ p, (me u).pend = g.pend ++ [p] ∧ p.op = none
                ∧ ∀ j, j < n → ∃ w ∈ p.writes, write w (f.d.toNat + j) (lanes &&& ~~~ dead) fun y => word (free y + 4 * j)))
    let vsts := fun (i : Instr) (n : Nat) => ready s i = true → sources s (some f.a) none = .go fa fb bad →
      let over_ := fun (o y : Nat) => decide (free y ≤ o) && decide (o < free y + 4 * n)
      traps i free (4 * n) 1
        ∧ (fits free (4 * n) → ∃ u lost, ends i u 0 ∧ lose lost ∧ pays u (bankCost (words free n) + lost) ∧ (me u).pend = g.pend
            ∧ (∀ o, sp u o = match ((lanesOf lanes).filter (over_ o)).getLast? with
                | some y => BitVec.ofNat 8 ((readV g (f.d.toNat + (o - free y) / 4) y).toNat / 256 ^ ((o - free y) % 4))
                | none => sp s o)
            ∧ ∀ q, q ∈ (Machine.team u tid).spPoison ↔ q ∈ (Machine.team s tid).spPoison
                ∧ ∃ b, b < 32 ∧ ∀ y, y < 96 → lanes.getLsbD y = true → over_ (32 * q + b) y = false)
    let i : Instr := .atoms k f x
    let at_ := fun (y : Nat) => (fa y).toNat + 4 * (x.toNat % 1024)
    let cmp := fun (y : Nat) => readV g (x.toNat / 65536 % 64) y
    let hurt := fun (y : Nat) => spBad s tid (at_ y) 4
    let num := fun (v : Word) => if f.ty = 0 then v.toInt else (v.toNat : Int)
    let new := fun (y : Nat) (old : Word) =>
      if f.ty = 2 then BitVec.ofNat 32 (if k = 0 then addF fp32 old.toNat (fb y).toNat else if k = 1 then minF fp32 old.toNat (fb y).toNat
        else maxF fp32 old.toNat (fb y).toNat)
      else match k.toNat with
        | 0 => old + fb y
        | 1 => if num (fb y) < num old then fb y else old
        | 2 => if num old < num (fb y) then fb y else old
        | 3 => old &&& fb y | 4 => old ||| fb y | 5 => old ^^^ fb y | 6 => fb y
        | _ => if old = cmp y then fb y else old
    let old := fun (ys : List Nat) (a : Nat) => ys.foldl (fun v y => if at_ y = a ∧ hurt y = false then new y v else v) (word a)
    vlds (.vlds_32 f) 1 ∧ vlds (.vlds_64 f) 2 ∧ vlds (.vlds_128 f) 4 ∧ vsts (.vsts_32 f) 1 ∧ vsts (.vsts_64 f) 2 ∧ vsts (.vsts_128 f) 4
      ∧ (ready s i = true → sources s (some f.a) (some f.b) = .go fa fb bad →
          traps i at_ 4 2
            ∧ (fits at_ 4 → ∃ u dead lost, ends i u dead ∧ lose lost ∧ pays u (bankCost (words at_ 1) + lost)
                ∧ (∀ y, y < 96 → (dead.getLsbD y = true ↔ lanes.getLsbD y = true ∧ hurt y = true))
                ∧ (∀ a j, a % 4 = 0 → j < 4 → sp u (a + j) = BitVec.ofNat 8 ((old (lanesOf lanes) a).toNat / 256 ^ j))
                ∧ ((x.getLsbD 22 = true ∨ lanes = 0) → (me u).pend = g.pend)
                ∧ (x.getLsbD 22 = false → lanes ≠ 0 → ∃ p, (me u).pend = g.pend ++ [p] ∧ p.op = none
                    ∧ ∃ w ∈ p.writes, write w f.d.toNat (lanes &&& ~~~ dead) fun y => old ((lanesOf lanes).filter fun z => decide (z < y)) (at_ y))))
      ∧ ∃ t, exec (.scratchEccError team off) s = .next t ∧ (Machine.team t team).sp = (Machine.team s team).sp
          ∧ ∀ q, q ∈ (Machine.team t team).spPoison ↔ q = off / 32 ∨ q ∈ (Machine.team s team).spPoison

/-! ### Barriers, monitors and queues -/

/-- R232, R234, R236, R237: the barrier instructions: an unallotted barrier and each listed misuse trap BARUSE;
arrivals, transaction bytes and the count change the barrier as R236 says; a phase completes once every arrival is
counted and no byte is owed; its waiters in BARW go on, and those in BRED with the contributions combined in key order, or a
stopped group's once it goes on (R397). -/
def Obligations.Barriers : Prop :=
  ∀ (f : Head) (s : State),
    let g := me s
    let tid := g.team
    let sp := decide (f.ty = 1)
    let n := f.a.toNat
    let k := (launchOf s g).kernel
    let x := barOf s tid sp n
    let c := sget s f.b
    let lim := if sp then 256 else 32
    let wrong := c.toNat % 512 = 0 ∨ lim < c.toNat % 512 ∨ 10 < c.toNat / 4096 % 16 ∨ c.toNat / 65536 ≠ 0 ∨ c.toNat / 512 % 8 ≠ 0 ∨ x.arr ≠ 0
    let here := barKey s g ∈ x.arrived
    let set := fun (h : Barrier → Barrier) => updBar s tid sp n h
    let live := ((barGroups s tid sp).filter fun id => (grp s id).state != .gone).length
    let put := fun (v : Word) => updMe s fun g => writeS g s.who.2 f.d.toNat v
    let allotted := n < if sp then k.nsbar else k.nbar
    let done := fun (i : Instr) (t : State) => ready s i = true → allotted → exec i s = .next (advance t 4)
    (∀ i ∈ [Instr.bari f, .bara f, .barw f, .barx f, .bred f, .barq f, .barinv f], ready s i = true → ¬ allotted →
        exec i s = .next (trapC s .baruse))
      ∧ (wrong → ready s (.bari f) = true → allotted → exec (.bari f) s = .next (trapC s .baruse))
      ∧ (¬ wrong → done (.bari f) (checkBar (set fun x => { x with exp := c.toNat % 512, op := c.toNat / 4096 % 16 }) tid sp n))
      ∧ (∀ i ∈ [Instr.bara f, .bred f], here → ready s i = true → allotted → exec i s = .next (trapC s .baruse))
      ∧ (¬ here → done (.bara f) (arrive (put x.ph) s.who.1 sp n none))
      ∧ (¬ here → ready s (.bred f) = true → allotted →
          exec (.bred f) s = .next (arrive (block s (.bred sp n x.ph f.d)) s.who.1 sp n (some c)))
      ∧ (x.ph = c → ready s (.barw f) = true → allotted → exec (.barw f) s = .next (block s (.barw sp n x.ph)))
      ∧ (x.ph ≠ c → done (.barw f) (if sp then dropClean s (coreOf s g) else s))
      ∧ (2 ^ 31 - 1 < x.tx.toInt + c.toNat → ready s (.barx f) = true → allotted → exec (.barx f) s = .next (trapC s .baruse))
      ∧ (x.tx.toInt + c.toNat ≤ 2 ^ 31 - 1 → done (.barx f) (checkBar (set fun y => { y with tx := x.tx + c }) tid sp n))
      ∧ (f.b = 0 → done (.barq f) (put (BitVec.ofNat 9 x.exp ++ BitVec.ofNat 9 x.arr ++ x.ph.extractLsb' 0 14)))
      ∧ (f.b = 1 → done (.barq f) (put x.tx)) ∧ (f.b = 2 → done (.barq f) (put x.ph))
      ∧ (f.b = 3 → done (.barq f) (put (BitVec.ofNat 32 x.op)))
      ∧ done (.barinv f) (set fun x => { x with arr := 0, arrived := [], payload := [], tx := 0, op := 0, exp := live, epoch := x.epoch + 1 })
      ∧ (∀ (u : State) (gid : Nat) (v : Option Word),
          let h := grp u gid
          let y := barOf u h.team sp n
          let z := { y with arrived := y.arrived ++ [barKey u h], arr := y.arr + 1
                            payload := match v with | some w => mapPut y.payload (barKey u h) w | none => y.payload }
          barOf (arrive u gid sp n v) h.team sp n
            = if z.exp ≤ z.arr ∧ z.tx = 0 then { z with ph := z.ph + 1, arr := 0, arrived := [], payload := [] } else z)
      ∧ ∀ (u : State) (gid t m : Nat) (p : Split) (d : Reg),
          let y := barOf u t sp n
          let h := grp (checkBar u t sp n) gid
          y.exp ≤ y.arr → y.tx = 0 → gid ∈ barGroups u t sp → (grp u gid).splits = [(m, p)] →
            (p.wait = some (.barw sp n y.ph) → (grp u gid).state = .running → split h m = { p with pc := nextPc p.pc 4, wait := none })
              ∧ (p.wait = some (.bred sp n y.ph d) → (grp u gid).state ≠ .running →
                  split h m = { p with wait := some (.woken [(d.toNat, combineAll y.op (y.payload.map (·.2)))]) })
              ∧ (p.wait = some (.bred sp n y.ph d) → (grp u gid).state = .running → 1 ≤ d.toNat → d.toNat ≤ 60 →
                  readS h (.split m) d.toNat = combineAll y.op (y.payload.map (·.2))
                    ∧ split h m = { p with pc := nextPc p.pc 4, wait := none })

/-- R238 to R241: MON arms the group's monitor on the 64-byte line of a checked address; MWAIT returns 3 unarmed and 0
with the latch set, and else waits; a write to the line sets the latch and returns the waiting splits with 0, MCLR with
2, and an elapsed timeout its split with 1 and the others with 2 (log 20), each disarming the monitor. Of a stopped group only
the latch is set (R397). -/
def Obligations.Monitors : Prop :=
  ∀ (f : Head) (s : State) (gid n pa : Nat) (uc : Bool) (r : Nat) (m : Monitor) (d : Reg),
    let g := me s
    let h := grp s gid
    let va := pget s f.a
    let a := (sget s f.a).toNat
    let arms := fun (sp : Bool) (line : Nat) =>
      ∃ t, exec (.mon f) s = .next t ∧ (me t).monitor = some { sp := sp, line := line, latch := false } ∧ GoesOn s t 4
        ∧ OnlyMine s t ∧ KeepsScalars s t [] ∧ KeepsVectors s t []
    let put := fun (v : Word) => updMe s fun g => writeS g s.who.2 f.d.toNat v
    let asleep := fun (h : Group) => ∃ x d, waitOf h (.split n) = some (.mwait x d)
    let wakes := fun (h t : Group) (status : Word) =>
      t.monitor = none ∧ ∀ k x d, waitOf h (.split k) = some (.mwait x d) →
        d.toNat ≤ 60 → split t k = { split h k with pc := nextPc (split h k).pc 4, wait := none }
          ∧ (1 ≤ d.toNat → readS t (.split k) d.toNat = status)
    let lineMet := fun (a k : Nat) => a < m.line + 64 ∧ m.line < a + k
    (ready s (.mon f) = true →
        (f.ty = 0 → xlateAccess s g 0 noRefusal va = .ok pa uc → arms false (pa / 64 * 64))
          ∧ (f.ty = 0 → xlateAccess s g 0 noRefusal va = .fail r →
              exec (.mon f) s = .next (trap s { cause := if r ≤ 2 then .xlate else .prot, addr := some va, reason := r }))
          ∧ (f.ty = 0 → (xlateAccess s g 0 noRefusal va = .miss ∨ xlateAccess s g 0 noRefusal va = .zero) →
              exec (.mon f) s = .next (block s (.xlate [(96, va, 0)])))
          ∧ (f.ty ≠ 0 → (teamOf s g).spsize ≤ a → exec (.mon f) s = .next (trap s { cause := .spbnd, addr := some (BitVec.ofNat 64 a) }))
          ∧ (f.ty ≠ 0 → a < (teamOf s g).spsize → arms true (a / 64 * 64)))
      ∧ (ready s (.mwait f) = true →
          (g.monitor = none → exec (.mwait f) s = .next (advance (put 3) 4))
            ∧ (g.monitor = some { m with latch := true } →
                exec (.mwait f) s = .next (advance (updMe (put 0) fun g => { g with monitor := none }) 4))
            ∧ (g.monitor = some { m with latch := false } → exec (.mwait f) s
                = .next (block s (.mwait (if sget s f.b = 0 then none else some (s.time + (sget s f.b).setWidth 64)) f.d))))
      ∧ (ready s (.mclr f) = true →
          (∀ k x d, waitOf g (.split k) ≠ some (.mwait x d)) → ∃ t, exec (.mclr f) s = .next t ∧ GoesOn s t 4
            ∧ me t = { bump g s.who.2 4 with monitor := none })
      ∧ (ready s (.mclr f) = true → s.who.2 ≠ .split n → g.state = .running → asleep g → ∃ t, exec (.mclr f) s = .next t ∧ (me t).monitor = none
          ∧ pcOf (me t) (.split n) = nextPc (pcOf g (.split n)) 4 ∧ waitOf (me t) (.split n) = none)
      ∧ (∀ x, n ≠ 4 → h.state = .running → waitOf h (.split n) = some (.mwait (some x) d) → x ≤ s.time → 1 ≤ d.toNat → d.toNat ≤ 60 →
          (∀ k y e, k ≠ n → waitOf h (.split k) = some (.mwait y e) → e ≠ d ∧ e.toNat ≤ 60) → ∃ t, exec (.mwaitTimeout gid n) s = .next t
            ∧ (grp t gid).monitor = none ∧ readS (grp t gid) (.split n) d.toNat = 1
            ∧ split (grp t gid) n = { split h n with pc := nextPc (split h n).pc 4, wait := none }
            ∧ ∀ k y e, k ≠ n → waitOf h (.split k) = some (.mwait y e) → 1 ≤ e.toNat → readS (grp t gid) (.split k) e.toNat = 2
              ∧ split (grp t gid) k = { split h k with pc := nextPc (split h k).pc 4, wait := none })
      ∧ (n ≠ 4 → (h.state ≠ .running ∨ ∀ x e, waitOf h (.split n) = some (.mwait (some x) e) → s.time < x) → ∃ t, exec (.mwaitTimeout gid n) s = .next t ∧ grp t gid = h)
      ∧ (h.monitor = none → ∃ t, exec (.latchSetWithNoWrite gid) s = .next t ∧ grp t gid = h)
      ∧ (h.monitor = some m → (∀ k x e, waitOf h (.split k) ≠ some (.mwait x e)) →
          (∃ t, exec (.latchSetWithNoWrite gid) s = .next t ∧ grp t gid = { h with monitor := some { m with latch := true } })
            ∧ (m.sp = false → lineMet pa 1 → downIn s pa 1 = false → refusedOutside s pa 1 = false → ∀ b,
                grp (homePut s pa [b]) gid = { h with monitor := some { m with latch := true } }))
      ∧ (h.monitor = some m → h.state = .running → asleep h → ∃ t, exec (.latchSetWithNoWrite gid) s = .next t ∧ wakes h (grp t gid) 0)
      ∧ (h.monitor = some m → h.state ≠ .running → ∃ t, exec (.latchSetWithNoWrite gid) s = .next t
          ∧ grp t gid = { h with monitor := some { m with latch := true } })

/-- R324 to R327, R330, R331, R334, R337 to R341, R80: the queue instructions: a full queue or a running stream makes a
push wait; QLD notes each lane's value, fault or poison; QST stores the head's valid lanes, ascending, or traps with the
entry left; tokens, QDRN, QSTAT and QAFF; the fill of an entry and the end of a pop's freeze. R128, R131, R328, R332,
R338: a vector source that names a queue pops its head: an absent or pending entry makes the instruction wait, or trap
QUSE where none can come; the lowest faulted active lane traps with the entry left in place; a poisoned active lane
dies. With no active lane nothing is popped. After an IDEM popped entries are held. (The model's choice: that entries popped
before any IDEM are not held, log 14, and when a stream is ready, log 50.) -/
def Obligations.Queues : Prop :=
  (∀ (f : Head) (x : Word) (s : State) (gid n id : Nat) (info : TrapInfo) (a : Affine),
      let g := me s
      let c := coreOf s g
      let k := f.d.toNat
      let st := s.who.2
      let stall := streaming g k = true ∨ 8 ≤ (opQ g k).length ∨ g.slip.toNat ≤ (opQ g 0).length + (opQ g 1).length + (opQ g 2).length + (opQ g 3).length
      let waits := fun (i : Instr) => exec i s = .next (block s .retry)
      let goes := fun (i : Instr) (h : Group → Group) => exec i s = .next (advance (updMe s h) 4)
      let d : LoadDesc := { kind := f.ty.toNat, base := if f.ty = 2 then (sget s f.a).setWidth 64 else pget s f.a, stride := (sget s f.b).signExtend 64 }
      let chk := fun (kind i : Nat) => checkLane s s.who.1 d kind i
      let lanes := loadLanes g
      let word := fun (a : Nat) => BitVec.ofNat 32 (leNat ((List.range 4).map fun j => seen s c (a + j)))
      let spWord := fun (a : Nat) => BitVec.ofNat 32 (leNat ((List.range 4).map fun j => cellGet (teamOf s g).sp (a + j)))
      let h := grp s gid
      let t96 : Lanes := BitVec.allOnes 96
      (ready s (.qpush f) = true →
          (stall → waits (.qpush f))
            ∧ (¬ stall → ∃ t e, exec (.qpush f) s = .next t ∧ GoesOn s t 4 ∧ opQ (me t) k = opQ g k ++ [e] ∧ e.pending = false ∧ e.faults = []
                ∧ e.poison = 0 ∧ e.mask = t96 ∧ ∀ i, i < 96 → cellGet e.vals i = sget s f.a))
        ∧ (ready s (.qld f) = true →
          (stall → waits (.qld f))
            ∧ (¬ stall → ∀ va, loadWaits s s.who.1 d lanes = some va → exec (.qld f) s = .next (block s (.zero [va])))
            ∧ (¬ stall → loadWaits s s.who.1 d lanes = none → ∃ t e, exec (.qld f) s = .next t ∧ GoesOn s t 4 ∧ KeepsBytes s t
                ∧ (∀ j, j ≠ k → opQ (me t) j = opQ g j) ∧ opQ (me t) k = opQ g k ++ [e] ∧ e.pending = true ∧ e.desc = some d
                ∧ ∀ i, i < 96 →
                  (lanes.getLsbD i = false → cellGet e.vals i = 0 ∧ mapGet e.faults i = none ∧ e.poison.getLsbD i = false)
                    ∧ (lanes.getLsbD i = true → match chk 0 i with
                      | .fail info => mapGet e.faults i = some info
                      | .sp a => if spBad s g.team a 4 then e.poison.getLsbD i = true else cellGet e.vals i = spWord a ∧ mapGet e.faults i = none
                      | .mem pa _ => if coreBad s c pa 4 then e.poison.getLsbD i = true else cellGet e.vals i = word pa ∧ mapGet e.faults i = none
                      | .zero _ => True)))
        ∧ (ready s (.qst f) = true →
          (stQ g k = [] → exec (.qst f) s = .next (if computeGone g then trapC s .quse else block s .retry))
            ∧ ∀ e rest, stQ g k = e :: rest →
              ((nowOf s g < e.due ∨ 63 ≤ classCount g 0) → waits (.qst f))
                ∧ (e.due ≤ nowOf s g → classCount g 0 < 63 →
                  (∀ i, i < 96 → e.mask.getLsbD i = true → chk 1 i = .fail info →
                      (∀ j, j < i → e.mask.getLsbD j = true → ∀ y, chk 1 j ≠ .fail y) → exec (.qst f) s = .next (trap s info))
                    ∧ let whole := fun (ok : LaneCheck → Prop) => ∀ i, i < 96 → e.mask.getLsbD i = true → ok (chk 1 i)
                      let last := fun (a : Nat) (at_ : LaneCheck → Nat) =>
                        ((lanesOf e.mask).filter fun i => decide (at_ (chk 1 i) ≤ a) && decide (a < at_ (chk 1 i) + 4)).getLast?
                      let byte := fun (a b i : Nat) => BitVec.ofNat 8 ((cellGet e.vals i).toNat / 256 ^ (a - b))
                      let spAt := fun (y : LaneCheck) => match y with | .sp a => a | _ => 0
                      let memAt := fun (y : LaneCheck) => match y with | .mem pa _ => pa | _ => 0
                      (whole (fun y => ∃ a, y = .sp a) → ∃ t, exec (.qst f) s = .next t ∧ KeepsBytes s t ∧ stQ (me t) k = rest
                          ∧ ∀ a, cellGet (team t g.team).sp a = match last a spAt with
                            | some i => byte a (spAt (chk 1 i)) i
                            | none => cellGet (team s g.team).sp a)
                        ∧ (whole (fun y => ∃ pa uc, y = .mem pa uc
                              ∧ ((cached s pa = true ∧ uc = false ∧ f.ty = 0) ∨ (downIn s pa 4 = false ∧ refusedOutside s pa 4 = false))) →
                            ∃ t, exec (.qst f) s = .next t ∧ stQ (me t) k = rest
                              ∧ (∀ a, seen t c a = match last a memAt with
                                | some i => byte a (memAt (chk 1 i)) i
                                | none => seen s c a))))
        ∧ (ready s (.qtok f) = true →
          (16 ≤ g.toks.length → waits (.qtok f)) ∧ (g.toks.length < 16 → goes (.qtok f) fun g => { g with toks := g.toks ++ [sget s f.a] }))
        ∧ (ready s (.qwtok f) = true →
          (∀ v rest, g.toks = v :: rest → goes (.qwtok f) fun g => writeS { g with toks := rest, qwCounted := false } st f.d.toNat v)
            ∧ (g.toks = [] → computeGone g = true → exec (.qwtok f) s = .next (trapC s .quse))
            ∧ (g.toks = [] → computeGone g = false → g.qwCounted = true → waits (.qwtok f))
            ∧ (g.toks = [] → computeGone g = false → g.qwCounted = false → ∃ t, exec (.qwtok f) s = .next t ∧ waitOf (me t) st = some .retry
                ∧ pcOf (me t) st = pcOf g st ∧ (me t).qwCounted = true
                ∧ ((me t).qloss.toNat % 2 ^ 31 = (g.qloss.toNat % 2 ^ 31 + 1) % 2 ^ 31)
                ∧ ((me t).qloss.getLsbD 31 = true
                    ↔ g.qloss.getLsbD 31 = true ∨ (g.qlossAt ≠ s.clk.toNat + 1 ∧ g.qloss.toNat % 2 ^ 31 = 2 ^ 31 - 1))))
        ∧ (ready s (.qdrn f) = true → ∃ t, exec (.qdrn f) s = .next t ∧ GoesOn s t 4 ∧ KeepsBytes s t
            ∧ (∀ j, j < 4 → opQ (me t) j = if f.ty = 0 ∧ f.b.getLsbD j = true then (opQ g j).filter (fun e => e.held) else opQ g j)
            ∧ (∀ j, j < 4 → stQ (me t) j = if f.ty = 1 ∧ f.b.getLsbD j = true then [] else stQ g j)
            ∧ (f.ty ≠ 0 → (me t).affine = g.affine) ∧ (f.ty = 0 → (me t).affine = g.affine.filter fun a => !f.b.getLsbD a.q)
            ∧ (me t).toks = if f.ty = 0 ∨ f.ty = 1 then g.toks else [])
        ∧ (ready s (.qstat f) = true →
            let fly := (opQ g 0).length + (opQ g 1).length + (opQ g 2).length + (opQ g 3).length
            let reads := fun (aff bad : Bool) (filled occ : Nat) => ∃ t, exec (.qstat f) s = .next t ∧ OnlyMine s t ∧ GoesOn s t 4
              ∧ Arrives s t f.d.toNat
                  (BitVec.ofNat 32 (2 ^ 24 * fly + (if aff then 2 ^ 17 else 0) + (if bad then 2 ^ 16 else 0) + 2 ^ 8 * filled + occ)) 2
            let j := f.b.toNat
            (j < 4 → reads (streaming g j) (match unpopped (opQ g j) with | e :: _ => !e.pending && !e.faults.isEmpty | [] => false)
                ((opQ g j).countP fun e => !e.pending && e.faults.isEmpty) (opQ g j).length)
              ∧ (4 ≤ j → j < 8 → reads false false ((stQ g (j - 4)).countP fun e => decide (e.due ≤ nowOf s g)) (stQ g (j - 4)).length)
              ∧ (8 ≤ j → reads false false g.toks.length g.toks.length))
        ∧ (ready s (.qaff f x) = true →
            let kind := x.toNat / 2 ^ 20 % 4
            goes (.qaff f x) fun g => { g with affine := g.affine ++
              [{ q := k, kind := kind, base := if kind = 2 then (sget s f.a).setWidth 64 else pget s f.a, stride := (sget s f.b).signExtend 64
                 step := (readS (me s) st (f.b.toNat + 1)).signExtend 64, left := x.toNat / 256 % 4096 }] })
        ∧ (h.affine = [a] → ∃ e, opQ (grp (pushStream s gid a) gid) a.q = opQ h a.q ++ [e] ∧ e.desc = some { kind := a.kind, base := a.base, stride := a.stride }
            ∧ (grp (pushStream s gid a) gid).affine = if a.left ≤ 1 then [] else [{ a with base := a.base + a.step, left := a.left - 1 }])
        ∧ (∃ t, exec (.queueEntryFill gid n id) s = .next t
            ∧ opQ (grp t gid) n = (opQ h n).map (fun e => if e.id = id then { e with pending := false } else e)
            ∧ ∀ j, j ≠ n → opQ (grp t gid) j = opQ h j)
        ∧ (n < 4 → ∃ t, exec (.popFreezeExpire gid n) s = .next t
            ∧ (waitOf h (.split n) = some .pop → grp t gid = updSplit h n fun p => { p with wait := some .late })
            ∧ (waitOf h (.split n) ≠ some .pop → grp t gid = h)))
    ∧ (∀ (f : Head) (s : State) (e : QEntry) (rest : List QEntry) (i : Instr) (t : State),
      let g := me s
      let k := f.a.toNat - 60
      let act := active g s.who.2
      let held := (opQ g k).length - (unpopped (opQ g k)).length
      let full := 8 ≤ held ∨ (0 < heldCount g ∧ g.slip.toNat ≤ heldCount g)
      let over_ := sources s (some f.a) none
      (i ∈ [Instr.vadd f, .vsub f, .vmul f, .vmin f, .vmax f, .vand f, .vor f, .vxor f, .vshl f, .vshr f, .vfadd f, .vfmul f, .vfma f] →
          ready s i = true → sources s (some f.a) (some f.b) = .stop t → exec i s = .next t)
        ∧ (60 ≤ f.a.toNat → act = 0 → over_ = .go (fun _ => 0) (fun _ => 0) 0)
        ∧ (60 ≤ f.a.toNat → act ≠ 0 →
          (unpopped (opQ g k) = [] →
              (((slice g).exited = true ∧ streaming g k = false) ∨ full → over_ = .stop (trapC s .quse))
                ∧ ((slice g).exited = false ∨ streaming g k = true → ¬ full → over_ = .stop (block s .pop)))
            ∧ (unpopped (opQ g k) = e :: rest →
              (e.pending = true → over_ = .stop (block s .pop))
                ∧ (e.pending = false → (e.faults.map (·.1)).Pairwise (· < ·) → ∀ n info, (n, info) ∈ e.faults → act.getLsbD n = true →
                    (∀ x ∈ e.faults, act.getLsbD x.1 = true → n ≤ x.1) →
                    over_ = .stop (trap s { info with lane := some n, entry := some (k, e.id) }))
                ∧ (e.pending = false → (∀ x ∈ e.faults, act.getLsbD x.1 = false) →
                    over_ = .go (fun i => if e.poison.getLsbD i then 0 else cellGet e.vals i) (fun _ => 0) (e.poison &&& act)))
            ∧ (opQ g k = e :: rest → (∀ x ∈ opQ g k, x.held = false) →
                opQ (me (popHead s k)) k = if g.idem then { e with held := true } :: rest else rest)))

/-! ### Estates, tensors and the delta directory -/

/-- R187, R188, R190, R191, R194, R200, R209 to R212: a zero namespace traps ESTATE; EBEQ stores a pending estate per
active lane; ECLM starts a claim; EDROP frees and counts; EQRY reads; EPIN pins and unpins. An estate that a claim moves, or that
a lease's close has taken, is none of theirs. (What EDROP leaves of a key and EPIN's status without a free line: log 28.) -/
def Obligations.Estates : Prop :=
  ∀ (f : Head) (x : Word) (s : State) (fa ids : Nat → Word) (bad : Lanes) (y : Nat),
    let g := me s
    let c := coreOf s g
    let cx := ctxOf s g
    let l := (teamOf s g).launch
    let ns := sget s f.a
    let tags := readS g s.who.2 (f.a.toNat + 1)
    let regs := (List.range 32).filter fun k => x.getLsbD k
    let lanes := acting s bad
    let go := sources s none (some f.b) = .go fa ids bad
    let es := (ctx s cx).estates
    let done := fun (i : Instr) (t : State) => exec i s = .next (laneDone s t i bad)
    let found := fun (y : Nat) => findOpen s cx l ns (ids y)
    (ns = 0 → (∀ i ∈ [Instr.ebeq f x, .eclm f x, .eqry f x, .epin f x], ready s i = true → go → exec i s = .next (trapC s .estate))
        ∧ (ready s (.edrop f x) = true → (f.ty = 0 → go) → exec (.edrop f x) s = .next (trapC s .estate)))
      ∧ (ns ≠ 0 → ready s (.ebeq f x) = true → go → hayUsed s c + (lanesOf lanes).length ≤ 4096 →
          (∀ z, z < 96 → lanes.getLsbD z = true → findPending s cx l ns (ids z) = none) →
          ((lanesOf lanes).map ids).Nodup → ∃ t new, done (.ebeq f x) t ∧ (ctx t cx).estates = es ++ new ∧ KeepsBytes s t
            ∧ (new.map fun e => (e.ns, e.ident, e.regs, e.isOpen, e.lost, e.launch, e.lin, e.gix, e.lane, e.core))
              = ((lanesOf lanes).map fun z => (ns, ids z, regs.map fun k => readV g k z, false, false, l, linOf s g, g.gix, z, some c))
            ∧ ∀ e ∈ new, ∀ j, j < 8 → e.tags.toNat / 16 ^ j % 16
                = if j < regs.length ∧ tags.toNat / 16 ^ j % 16 < 10 then tags.toNat / 16 ^ j % 16 else 0)
      ∧ (∀ (u : State) (cx : Nat) (e old : Estate), findPending u cx e.launch e.ns e.ident = some old → e.isOpen = false → e.moving = false →
          let t := storeEstate u cx e
          let wins := old.lin < e.lin ∨ (old.lin = e.lin ∧ old.gix ≤ e.gix)
          (launch t e.launch).repl = (launch u e.launch).repl + 1
            ∧ (wins → e ∈ (ctx t cx).estates) ∧ (¬ wins → (ctx t cx).estates = (ctx u cx).estates))
      ∧ (ns ≠ 0 → ready s (.eclm f x) = true → go → (lanes = 0 → done (.eclm f x) s)
          ∧ (lanes ≠ 0 → ∃ t k, done (.eclm f x) t ∧ OnlyGroups s { t with nextId := s.nextId } ∧ me t = { g with claims := g.claims ++ [k] }
              ∧ k.todo = (lanesOf lanes).map (fun z => (z, ids z)) ∧ k.ns = ns ∧ k.tags = tags ∧ k.regs = regs ∧ k.vs = f.d.toNat
              ∧ k.mask = lanes ∧ k.heir = false ∧ k.moving = none))
      ∧ (ns ≠ 0 → f.ty = 0 → ready s (.edrop f x) = true → go → ∃ t v, done (.edrop f x) (laneResult t f.d lanes v 1)
          ∧ (∀ z, z < 96 → lanes.getLsbD z = true → v z
              = if (found z).isSome = true ∧ ∀ w, w < z → lanes.getLsbD w = true → ids w ≠ ids z then 1 else 0)
          ∧ ∀ e, e ∈ (ctx t cx).estates ↔ e ∈ es ∧ ¬ (e.moving = false ∧ e.closing = none ∧ e.ns = ns ∧ ∃ z, z < 96 ∧ lanes.getLsbD z = true ∧ e.ident = ids z
              ∧ if e.isOpen then (found z).isSome = true else e.launch = l ∧ (findPending s cx l ns (ids z)).isSome = true))
      ∧ (ns ≠ 0 → f.ty ≠ 0 → ready s (.edrop f x) = true →
          let mine := fun (e : Estate) => e.ns == ns && !e.moving && e.closing.isNone && if e.isOpen then has (launch s l).after e.launch else e.launch == l
          ∃ t, exec (.edrop f x) s = .next (advance (updMe t fun g => writeS g s.who.2 f.d.toNat (BitVec.ofNat 32 (es.countP mine))) 8)
            ∧ (ctx t cx).estates = es.filter (fun e => !mine e) ∧ t.groups = s.groups ∧ t.who = s.who)
      ∧ (ns ≠ 0 → ready s (.eqry f x) = true → go → done (.eqry f x) (laneResult s f.d lanes (fun z => match found z with
          | none => 1
          | some e => BitVec.ofNat 32 ((if e.lost then 5 else 0) + 16 * e.regs.length
              + 256 * (match e.core with | some k => if k = c then 0 else 1 | none => 2) + if e.pinned then 1024 else 0)) 1))
      ∧ (ns ≠ 0 → ready s (.epin f x) = true → go → lanes = laneBit y → y < 96 →
          (found y = none → done (.epin f x) (laneResult s f.d lanes (fun _ => 1) 1))
            ∧ ∀ e, found y = some e →
              (f.ty = 1 → ∃ t, done (.epin f x) (laneResult t f.d lanes (fun _ => 0) 1)
                  ∧ ∃ k, findOpen t cx l ns (ids y) = some k ∧ k = { e with pinned := false })
                ∧ (f.ty ≠ 1 → e.core = some c → e.pinned = true → done (.epin f x) (laneResult s f.d lanes (fun _ => 0) 1))
                ∧ (f.ty ≠ 1 → ¬ (e.core = some c ∧ e.pinned = true) → 1024 ≤ pinnedLines s c →
                    done (.epin f x) (laneResult s f.d lanes (fun _ => 2) 1))
                ∧ (f.ty ≠ 1 → ¬ (e.core = some c ∧ e.pinned = true) → pinnedLines s c < 1024 → (e.core = some c ∨ hayUsed s c < 4096) →
                    ∃ t, done (.epin f x) (laneResult t f.d lanes (fun _ => 0) 1)
                      ∧ ∃ k, findOpen t cx l ns (ids y) = some k ∧ k.pinned = true ∧ k.core = some c ∧ k.regs = e.regs ∧ k.ident = e.ident))

/-- R204, R205, R206, R213: PHEND's checks in their order, and the queued phase it leaves: started afresh at its tail
with the members and carry of the group, ready at once without a barrier, and with one once its current phase completes.
R133, R187, R195 to R197, R199, R206 to R208, R217: a claim's lanes are served one by one, each with the first status
that applies and its registers, and consume the estate, which moves first where another core holds it; after the last
lane all registers are written together. A ready phase resumes where there is room; a record's fetch ends; the oldest
write-out of a Hayloft ends, and its lines are free; a record that found no room is written out once its phase area has room. (When
a write-out's lines come free and when such a record is tried again is the model's choice, and so is the order of the records that
are not ready: log 21; what a claim's delivery does to a register changed meanwhile: log 38.) -/
def Obligations.ClaimsAndPhases : Prop :=
  (∀ (f : Head) (x : Word) (s : State),
      let g := me s
      let gid := s.who.1
      let c := coreOf s g
      let k := (launchOf s g).kernel
      let i : Instr := .phend f x
      let n := f.b.toNat
      let sp := decide (f.ty = 2)
      let b := barOf s g.team sp f.a.toNat
      let members := unionOf (g.splits.map fun e => e.2.members)
      let form := k.phased = true ∧ k.slices2 = false ∧ g.splits.length ≤ 1 ∧ g.tokens = []
      let free := hayUsed s c + (5 + 6 * n) ≤ 4096
      let barBad := f.ty ≠ 0 ∧ ((if sp then k.nsbar else k.nbar) ≤ f.a.toNat ∨ barKey s g ∈ b.arrived)
      ready s i = true →
        (¬ form → exec i s = .next (trapC s .estate))
          ∧ (form → g.rbase + 4 * g.rext < n → exec i s = .next (trapC s .rfover))
          ∧ (form → n ≤ g.rbase + 4 * g.rext →
              ((g.pend ≠ [] ∨ g.claims ≠ [] ∨ ∃ w ∈ g.fly, w.lock = true) → exec i s = .next (block s .retry))
                ∧ (g.pend = [] → g.claims = [] → (∀ w ∈ g.fly, w.lock = false) →
                    (barBad → exec i s = .next (trapC s .baruse))
                      ∧ (¬ barBad → free → (poolOf (teamOf s g) g.quad).waiting = [] → g.monitor = none → (teamOf s g).placed = true → ∃ t, exec i s = .next t ∧ t.who = s.who
                          ∧ (me t).state = .phase ∧ (me t).resident = false ∧ (me t).carry = n
                          ∧ (me t).splits = [(0, { pc := x, members := members, am := members, restart := x })]
                          ∧ (me t).rext = (if n ≤ g.rbase then 0 else (n - g.rbase + 3) / 4)
                          ∧ (∀ r, 1 ≤ r → r ≤ 60 → readS (me t) (.split 0) r = readS (landAll g) (.split 0) r)
                          ∧ (∀ r z, z < 96 → readV (me t) r z = if r < n then readV (landAll g) r z else 0)
                          ∧ (me t).classes = g.classes ∧ gid ∈ (Machine.core t c).paddock
                          ∧ (f.ty = 0 → gid ∈ (Machine.core t c).ready ∧ (me t).phaseWait = none)
                          ∧ (f.ty ≠ 0 → gid ∈ barGroups s g.team sp →
                              (b.exp ≤ b.arr + 1 → b.tx = 0 → gid ∈ (Machine.core t c).ready ∧ (barOf t g.team sp f.a.toNat).ph = b.ph + 1)
                                ∧ ((b.arr + 1 < b.exp ∨ b.tx ≠ 0) → (me t).phaseWait = some { span := sp, n := f.a.toNat, phase := b.ph }
                                  ∧ (barOf t g.team sp f.a.toNat).arr = b.arr + 1))))))
    ∧ (∀ (s : State) (gid id i core : Nat) (ident : Word) (rest : List (Nat × Word)) (c : Claim) (e : Estate) (q slot : Nat),
      let g := grp s gid
      let cx := ctxOf s g
      let l := (teamOf s g).launch
      let here := g.claims.find? (fun c => c.id == id) = some c
      let m := c.regs.length
      let tag := fun (w : Word) (j : Nat) => w.toNat / 16 ^ j % 16
      let status := fun (e : Estate) => if e.lost then 5 else if e.regs.length < m then 2 else if m < e.regs.length then 3
        else if ∃ j, j < m ∧ tag c.tags j ≠ tag e.tags j ∧ tag c.tags j ≠ 0 ∧ tag e.tags j ≠ 0 then 4 else 0
      let value := fun (e : Estate) (j : Nat) => if e.lost then 0 else e.regs.getD j 0
      let next := fun (t : State) (st : Word) (v : Nat → Word) => ∃ d, (grp t gid).claims.find? (fun c => c.id == id) = some d
        ∧ d.todo = c.todo.filter (fun x => x.1 != i) ∧ d.moving = none ∧ d.mask = c.mask ∧ d.regs = c.regs ∧ cellGet d.status i = st
        ∧ (∀ z, z ≠ i → cellGet d.status z = cellGet c.status z) ∧ (∀ j, j < m → cellGet d.vals (96 * j + i) = v j)
        ∧ ∀ j z, z < 96 → z ≠ i → cellGet d.vals (96 * j + z) = cellGet c.vals (96 * j + z)
      let deliver_ := Instr.claimDeliver gid id
      let arrive_ := Instr.estateMigrateArrive gid id
      (g.claims.find? (fun c => c.id == id) = none → exec deliver_ s = .next s ∧ exec arrive_ s = .next s)
        ∧ (here → c.moving ≠ none → exec deliver_ s = .next s) ∧ (here → c.moving = none → exec arrive_ s = .next s)
        ∧ (here → c.moving = none → c.todo = (i, ident) :: rest → i < 96 →
            (findOpen s cx l c.ns ident = none → ∃ t, exec deliver_ s = .next t ∧ (ctx t cx).estates = (ctx s cx).estates ∧ next t 1 fun _ => 0)
              ∧ (findOpen s cx l c.ns ident = some e → (e.core = some (coreOf s g) ∨ (e.core = none ∧ e.slot = none)) →
                  ∃ t, exec deliver_ s = .next t ∧ findOpen t cx l c.ns ident = none ∧ next t (status e) (value e))
              ∧ (findOpen s cx l c.ns ident = some e → e.core ≠ some (coreOf s g) → (e.core ≠ none ∨ e.slot ≠ none) →
                  ∃ t, exec deliver_ s = .next t ∧ findOpen t cx l c.ns ident = none
                    ∧ (grp t gid).claims.find? (fun c => c.id == id) = some { c with moving := some (i, ident) }))
        ∧ (here → c.moving = some (i, ident) → i < 96 → hayUsed s (coreOf s g) < 4096 →
            (ctx s cx).estates.find? (fun e => e.moving && e.mover == id) = some e →
            ∃ t, exec arrive_ s = .next t ∧ next t (status e) (value e)
              ∧ (ctx t cx).estates = (ctx s cx).estates.filter fun e => !(e.moving && e.mover == id))
        ∧ (here → c.moving = none → c.todo = [] → c.lost = [] → g.image = none → g.hintRegs = none → c.regs.Nodup → c.vs ∉ c.regs →
            ∃ t, exec deliver_ s = .next t ∧ (grp t gid).claims = g.claims.filter (fun k => k.id != id) ∧ KeepsBytes s t
              ∧ ∀ z, z < 96 → c.mask.getLsbD z = true → g.dead.getLsbD z = false →
                  readV (grp t gid) c.vs z = cellGet c.status z
                    ∧ ∀ j, (h : j < m) → readV (grp t gid) c.regs[j] z = cellGet c.vals (96 * j + z))
        ∧ ((phaseReady s gid = false ∨ recordHere s gid = false ∨ resumePlace s gid = none) → exec (.paddockResume gid) s = .next s)
        ∧ (phaseReady s gid = true → recordHere s gid = true → resumePlace s gid = some (q, slot) → g.recErr = 0 → g.failDue = none → ∃ t, exec (.paddockResume gid) s = .next t
            ∧ (grp t gid).state = .running ∧ (grp t gid).resident = true ∧ (grp t gid).quad = q ∧ (grp t gid).slot = slot
            ∧ (grp t gid).claimed = true ∧ (grp t gid).claims.length = g.claims.length + (if g.claimed then 0 else (launchOf s g).kernel.heirs.length)
            ∧ (grp t gid).splits = g.splits ∧ (grp t gid).sregs = g.sregs ∧ (grp t gid).vregs = g.vregs
            ∧ gid ∉ (Machine.core t (coreOf s g)).paddock ∧ gid ∉ (Machine.core t (coreOf s g)).ready)
        ∧ (phaseReady s gid = true → recordHere s gid = false → (resumePlace s gid).isSome = true →
            ∃ t, exec (.phaseRecordFetchDone gid) s = .next t ∧ recordHere t gid = true ∧ t.groups = s.groups ∧ KeepsBytes s t
              ∧ (Machine.core t (coreOf s g)).phaseOut = (Machine.core s (coreOf s g)).phaseOut
              ∧ (Machine.core t (coreOf s g)).ready = (Machine.core s (coreOf s g)).ready)
        ∧ ((phaseReady s gid = false ∨ recordHere s gid = true ∨ resumePlace s gid = none) → exec (.phaseRecordFetchDone gid) s = .next s)
        ∧ (∃ t, exec (.hayloftWriteOutDone core) s = .next t ∧ (Machine.core t core).outgoing = (Machine.core s core).outgoing.drop 1
            ∧ hayUsed t core + (Machine.core s core).outgoing.headD 0 = hayUsed s core ∧ KeepsBytes s t ∧ t.groups = s.groups ∧ t.ctxs = s.ctxs)
        ∧ (keysOf s.cores = [core] → (paddockOrder s core).filter (fun z => (grp s z).recordDue && groupCtx s z == groupCtx s gid) = [gid] →
            320 + 384 * g.carry ≤ (ctx s (groupCtx s gid)).phss → (ctx s (groupCtx s gid)).phased = [] →
            let t := retryRecords s (groupCtx s gid)
            (grp t gid).recordDue = false ∧ gid ∈ (Machine.core t core).phaseOut
              ∧ (Machine.core t core).outgoing = (Machine.core s core).outgoing ++ [recordLines g]))

/-- R344, R346, R349: TIDQ reads the selected word of an entry, which arrives 4 cycles later; TIDLD makes its checks in order and
writes the entry of an accepted descriptor, and its stream waits until no core holds the old one; every violation that
R346 lists is refused. -/
def Obligations.TensorIds : Prop :=
  ∀ (f : Head) (s : State) (bs : List Byte) (info : TrapInfo) (p : Addr) (gid n : Nat),
    let g := me s
    let cx := ctxOf s g
    let c := coreOf s g
    let q := (sget s f.a).toNat
    let e := tidOf s cx q
    let half := fun (v : Addr) (k : Nat) => BitVec.ofNat 32 (v.toNat / 2 ^ (32 * k))
    let sel := f.b.toNat
    let word : Word :=
      if sel < 2 then half e.base sel else if sel < 4 then half e.sbase (sel - 2) else if sel < 6 then half e.back (sel - 4)
      else if sel = 6 then BitVec.ofNat 32 (e.fmt + 256 * e.pl + 65536 * e.rank
        + 2 ^ 24 * ((if e.valid then 1 else 0) + (if e.mx then 2 else 0) + if e.delta then 4 else 0))
      else if sel = 7 then BitVec.ofNat 32 e.res else if sel = 8 then BitVec.ofNat 32 (e.xnum + if e.expert then 65536 else 0)
      else if sel = 9 then e.wver else if sel = 10 then e.pad else if sel < 32 then BitVec.ofNat 32 (e.dims.getD (sel - 16) 0)
      else half (BitVec.ofInt 64 (e.strides.getD ((sel - 32) / 2) 0)) ((sel - 32) % 2)
    let i : Instr := .tidld f
    let t := (sget s f.d).toNat
    let va := pget s f.a
    let open_ := t < 1024 ∧ (ctx s cx).ctlw.getLsbD 0 = true ∧ va.toNat % 64 = 0
    let field := fun (off n : Nat) => leNat ((bs.drop off).take n)
    let dim := fun (k : Nat) => field (48 + 4 * k) 4
    let stride := fun (k : Nat) => field (96 + 8 * k) 8
    let st : Stream := if n = 4 then .aslice else .split n
    (ready s (.tidq f) = true →
        (1024 ≤ q → exec (.tidq f) s = .next (trapC s .tensor))
          ∧ (q < 1024 → ∃ u, exec (.tidq f) s = .next u ∧ OnlyMine s u ∧ GoesOn s u 4 ∧ KeepsScalars s u [] ∧ KeepsVectors s u []
              ∧ Arrives s u f.d.toNat word 4))
      ∧ (ready s i = true →
        (1024 ≤ t → exec i s = .next (trapC s .tensor))
          ∧ (t < 1024 → (ctx s cx).ctlw.getLsbD 0 = false → exec i s = .next (trapC s .priv))
          ∧ (t < 1024 → (ctx s cx).ctlw.getLsbD 0 = true → va.toNat % 64 ≠ 0 → exec i s = .next (trap s { cause := .align, addr := some va }))
          ∧ (open_ → checkRange s cx va 256 0 = .trap info → exec i s = .next (trap s info))
          ∧ (open_ → checkRange s cx va 256 0 = .zero p → exec i s = .next (block s (.zero [p])))
          ∧ (open_ → checkRange s cx va 256 0 = .ok →
              (((readLines s c cx va 4).2 = true ∨ descriptorOk (readLines s c cx va 4).1 = false) → exec i s = .next (trapC s .tensor))
                ∧ (readLines s c cx va 4 = (bs, false) → descriptorOk bs = true → ∃ u, exec i s = .next u
                    ∧ waitOf (me u) s.who.2 = some (.tidld t) ∧ pcOf (me u) s.who.2 = pcOf g s.who.2
                    ∧ let d := tidOf u cx t
                      d.valid = true ∧ d.wver = (tidOf s cx t).wver + 1 ∧ d.res = (tidOf s cx t).res ∧ d.base.toNat = field 0 8
                        ∧ d.sbase.toNat = field 8 8 ∧ d.back.toNat = field 16 8 ∧ d.fmt = field 24 1 ∧ d.pl = field 25 1
                        ∧ d.rank = field 26 1 ∧ (d.mx = true ↔ field 27 1 / 2 % 2 = 1) ∧ (d.delta = true ↔ field 27 1 / 4 % 2 = 1)
                        ∧ d.xnum = field 32 4 % 65536 ∧ d.pad.toNat = field 40 4 ∧ d.dims = (List.range d.rank).map dim
                        ∧ d.strides = (List.range d.rank).map fun k => (BitVec.ofNat 64 (stride k)).toInt)))
      ∧ ((8 ≤ field 24 1 ∨ field 26 1 = 0 ∨ 12 < field 26 1 ∨ (∃ k, k < 12 ∧ k < field 26 1 ∧ dim k = 0)
            ∨ (∃ k, k < 12 ∧ field 26 1 ≤ k ∧ (dim k ≠ 0 ∨ stride k ≠ 0)) ∨ field 29 3 ≠ 0 ∨ 2 ^ 17 ≤ field 32 4 ∨ field 44 4 ≠ 0
            ∨ (field 27 1 / 2 % 2 = 1 ∧ (field 24 1 ∉ [3, 4, 5, 7] ∨ field 8 8 = 0 ∨ dim 0 % 32 ≠ 0))
            ∨ (field 24 1 = 7 ∧ field 27 1 / 2 % 2 = 0) ∨ ((field 24 1 = 6 ∨ field 24 1 = 7) ∧ stride 0 ≠ 1)
            ∨ (∃ k, 1 ≤ k ∧ k < 12 ∧ (field 24 1 = 6 ∨ field 24 1 = 7) ∧ stride k % 2 = 1) ∨ (field 27 1 / 4 % 2 = 1 ∧ field 0 8 = 0)) →
          descriptorOk bs = false)
      ∧ (∃ u, exec (.tidldComplete gid n) s = .next u
          ∧ ((∀ x, waitOf (grp s gid) st ≠ some (.tidld x)) → grp u gid = grp s gid)
          ∧ ∀ x, waitOf (grp s gid) st = some (.tidld x) →
              ((grp s gid).state = .running → pcOf (grp u gid) st = nextPc (pcOf (grp s gid) st) 4 ∧ waitOf (grp u gid) st = none)
                ∧ ((grp s gid).state ≠ .running → pcOf (grp u gid) st = pcOf (grp s gid) st ∧ waitOf (grp u gid) st = some (.woken [])))

/-- R373, R376, R377, R388, R390, R393 to R395: DBIND makes its checks, ends the group's binding, finds or makes the
entry of its key with the status R390 gives, and records the binding; DREF, DINV and DQRY mark, free and read entries;
ending a binding clears BUSY and frees a dead or never formed entry. (The entry a new key takes among free ones: log
14.) -/
def Obligations.DeltaDirectory : Prop :=
  ∀ (f : Head) (s : State) (n : Nat) (e : DEntry) (gid : Nat) (b : Binding) (c : Ctx),
    let g := me s
    let cx := ctxOf s g
    let r := fun (k : Nat) => readS g s.who.2 (f.a.toNat + k)
    let wid := (r 2).toNat % 1024
    let gran := (r 2).toNat / 65536 % 256
    let ks := (r 3).toNat % 512
    let x := r 5 ++ r 4
    let y := r 7 ++ r 6
    let w := tidOf s cx wid
    let bad := r 0 = 0 ∨ (r 2).toNat / 1024 % 64 ≠ 0 ∨ (r 2).toNat / 2 ^ 24 ≠ 0 ∨ (r 3).toNat / 512 ≠ 0 ∨ ks = 0 ∨ 256 < ks ∨ 191 < gran
    let skew := x.toNat % 64 ≠ 0 ∨ y.toNat % 64 ≠ 0
    let unloaded := w.valid = false ∨ w.delta = false
    let u := dropClean (endBinding s s.who.1) (coreOf s g)
    let v := (tidOf u cx wid).wver
    let dir := ctx u cx
    let i : Instr := .dbind f
    let stat := fun (st gen idx : Nat) => BitVec.ofNat 32 (st * 2 ^ 29 + gran * 2 ^ 20 + gen * 2 ^ 13 + idx)
    let late := fun (i : Instr) (t : State) (v : Word) => ∃ p, p.op = none
      ∧ p.writes = [{ isV := false, reg := f.d.toNat, vals := cellSet [] 0 v, stream := s.who.2 }]
      ∧ exec i s = .next (advance (updMe { t with nextId := t.nextId + 1 } fun g => { g with pend := g.pend ++ [p] }) 4)
    let bound := fun (st gen idx : Nat) (b : Option Binding) (h : DEntry → DEntry) => ∃ t, late i t (stat st gen idx)
      ∧ (me t).dstat = stat st gen idx ∧ (me t).binding = b ∧ (st < 4 → (ctx t cx).ddir = mapPut dir.ddir idx (h (mapGetD dir.ddir idx {})))
      ∧ (4 ≤ st → (ctx t cx).ddir = dir.ddir)
    let record := fun (idx gen : Nat) => some ({ entry := idx, gen := gen, wid := wid, steps := ks, xaddr := x, yaddr := y, wver := v } : Binding)
    let clean := ¬ bad ∧ ¬ skew ∧ ¬ unloaded
    let old := mapGetD dir.ddir n {}
    let key := r 0
    let strm := r 1
    let here := findKey (ctx s cx) (sget s f.a) (r 1)
    let at_ := mapGetD (ctx s cx).ddir n {}
    let free := fun (m : Nat) => (mapGetD c.ddir m {}).used = false
    let same := at_.wseen = (tidOf s cx at_.wid).wver
    (ready s i = true →
        (bad → exec i s = .next (trapC s .delta)) ∧ (¬ bad → skew → exec i s = .next (trapC s .align))
          ∧ (¬ bad → ¬ skew → unloaded → exec i s = .next (trapC s .tensor))
          ∧ (clean → findKey dir key strm = none → takeEntry dir = none → bound 5 0 0 none id)
          ∧ (clean → findKey dir key strm = none → takeEntry dir = some n →
              let gen := if old.used then (old.gen + 1) % 128 else old.gen
              bound 0 gen n (record n gen) fun _ => { tag := key, strm := strm, ctx := cx, used := true, busy := true, gen := gen })
          ∧ (clean → findKey dir key strm = some n →
              let eq := old.wid = wid ∧ old.ks = ks ∧ old.xaddr = x ∧ old.yaddr = y ∧ old.wseen = v
              let due := (me u).dri.toNat ≤ old.cnt ∨ old.refnext = true ∨ old.drift = true
              (old.busy = true → bound 4 0 0 none id)
                ∧ (old.busy = false → bound (if ¬ eq then 2 else if due then 3 else 1) old.gen n (record n old.gen) fun e => { e with busy := true })))
      ∧ (∀ m, takeEntry c = some m →
          ((∃ j, j < 8192 ∧ free j) → free m ∧ m < 8192 ∧ ∀ j, j < m → ¬ free j)
            ∧ ((∀ j, j < 8192 → ¬ free j) → ∃ e, (m, e) ∈ c.ddir ∧ e.busy = false ∧ ∀ z ∈ c.ddir, z.2.busy = false → e.last.toNat ≤ z.2.last.toNat))
      ∧ (ready s (.dref f) = true →
          (here = none → late (.dref f) s 0)
            ∧ (here = some n → late (.dref f) (updCtx s cx fun c => { c with ddir := mapPut c.ddir n { at_ with refnext := true } }) 1))
      ∧ (ready s (.dinv f) = true →
          let hit := fun (e : DEntry) => e.used = true ∧ (f.ty = 0 → e.tag = sget s f.a ∧ e.strm = r 1) ∧ (f.ty = 1 → e.tag = sget s f.a)
          ∃ t, late (.dinv f) t (BitVec.ofNat 32 ((ctx s cx).ddir.countP fun e => decide (hit e.2)))
            ∧ (ctx t cx).ddir = (ctx s cx).ddir.map fun e => if hit e.2 then (e.1, if e.2.busy then { e.2 with dead := true }
                else { e.2 with used := false, busy := false, dead := false, refnext := false, drift := false, gen := (e.2.gen + 1) % 128 }) else e)
      ∧ (ready s (.dqry f) = true →
          let reads := fun (k : Nat) (v : Word) => f.b.toNat = k → late (.dqry f) s v
          (here = none → late (.dqry f) s 0)
            ∧ (here = some n →
              reads 0 (if at_.busy then 4 else if ¬ same then 2 else if g.dri.toNat ≤ at_.cnt ∨ at_.refnext = true ∨ at_.drift = true then 3 else 1)
                ∧ reads 1 (BitVec.ofNat 32 at_.cnt) ∧ reads 2 at_.wseen ∧ reads 3 (BitVec.ofNat 32 (at_.wid + 65536 * at_.ks))
                ∧ reads 4 (at_.xaddr.extractLsb' 0 32) ∧ reads 5 (at_.xaddr.extractLsb' 32 32) ∧ reads 6 (at_.yaddr.extractLsb' 0 32)
                ∧ reads 7 (at_.yaddr.extractLsb' 32 32)
                ∧ reads 8 (BitVec.ofNat 32 ((if at_.used then 1 else 0) + (if at_.busy then 2 else 0) + (if at_.drift then 4 else 0)
                    + (if at_.refnext then 8 else 0) + if at_.dead then 16 else 0))
                ∧ reads 9 (tidOf s cx at_.wid).wver))
      ∧ ((grp (endBinding s gid) gid).binding = none ∧ (grp (endBinding s gid) gid).dstat = 0xE0000000
          ∧ let h := grp s gid
            let st := h.dstat.toNat / 2 ^ 29
            h.binding = some b → st < 4 → mapGet (ctx s (ctxOf s h)).ddir b.entry = some e → ∃ z,
              mapGet (ctx (endBinding s gid) (ctxOf s h)).ddir b.entry = some z
                ∧ ((e.dead = true ∨ (st = 0 ∧ h.dstat.getLsbD 28 = false)) → z.used = false ∧ z.busy = false ∧ z.gen = (e.gen + 1) % 128)
                ∧ (e.dead = false → (st ≠ 0 ∨ h.dstat.getLsbD 28 = true) → z = { e with busy := false }))

/-! ### Copies -/

/-- R293, R300, R302, R305, R306, R308 to R313: a full engine or class makes the instruction wait; its checks are made
in R302's order, the first that fails traps, and nothing is issued; else one operation with the operands read now enters
the engine behind the others and counts in its class; a further participant of a team collective joins it. At a ring's table entry
in a page that waits to be zeroed the split waits (R255). The coordinates of CPYT and CPYP are read as R50 and R52 say of any
register. A CFETCH of a resident segment, and one that finds no slot, have their status from the start (R31). (That a CFETCH with a bad
ring and a bad code address traps COPY is the model's choice: log 42.) (So are these, log 14: a BSP without a BAR names no
barrier, and an MX collective whose count is not a multiple of 32 traps COPY.) -/
def Obligations.CopyIssue : Prop :=
  ∀ (f : Head) (t : Word) (s u : State) (k : CopyChecks) (o : CopyOp) (home : Nat) (seg : Seg),
    let g := me s
    let c := coreOf s g
    let kern := (launchOf s g).kernel
    let full := fun (cls : Nat) => 128 ≤ (Machine.core s c).copies.length ∨ 63 ≤ classCount g cls
    let bar := if t.getLsbD 18 then some (t.getLsbD 17, t.toNat / 2048 % 64) else none
    let barBad : Bool := match bar with | some (sp, n) => decide ((if sp then kern.nsbar else kern.nbar) ≤ n) | none => false
    let ringBad_ := t.getLsbD 10 = true ∧ (g.cring.getLsbD 4 = false ∨ ringEntry s (ctxOf s g) (g.cring.toNat % 16) = none)
    let out := fun (r : Int × Nat) => r.2 ≠ 0 ∧ (r.1 < 0 ∨ ((teamOf s g).spsize : Int) < r.1 + r.2)
    let base := fun (kind ty : Nat) (coll : Bool) =>
      ({ id := s.nextId, coll := coll, min := kind, ty := ty, group := s.who.1, team := g.team, ctx := ctxOf s g, tag := t.toNat / 2 ^ 24
         bar := bar.map fun b => (b.1, b.2, (barOf s g.team b.1 b.2).epoch), ring := if t.getLsbD 10 then some (g.cring.toNat % 16) else none
         ringGix := g.gix, repro := g.repro.getLsbD 0, issued := [s.who.1] } : CopyOp)
    let enters := fun (i : Instr) (cls : Nat) (o : CopyOp) => ∃ u, exec i s = .next (advance u 8)
      ∧ (Machine.core u c).copies = (Machine.core s c).copies ++ [o] ∧ (me u).classes = (classStart g cls o.id).classes
    let waits := fun (i : Instr) (cls : Nat) => ready s i = true → full cls → exec i s = .next (block s .retry)
    let checked := fun (i : Instr) (cls : Nat) (k : CopyChecks) => ready s i = true → ¬ full cls → copyFails s t k = some u → exec i s = .next u
    let gets := fun (i : Instr) (cls : Nat) (k : CopyChecks) (o : CopyOp) => ready s i = true → ¬ full cls → copyFails s t k = none → enters i cls o
    let both := fun (i : Instr) (cls : Nat) (k : CopyChecks) (o : CopyOp) => waits i cls ∧ checked i cls k ∧ gets i cls k o
    let np := t.toNat / 2 ^ 19 % 32
    let toMem := f.ty = 0 ∨ f.ty = 2
    let fromMem := f.ty = 0 ∨ f.ty = 1
    let dst := if toMem then pget s f.d else (sget s f.d).setWidth 64
    let src := if fromMem then pget s f.a else (sget s f.a).setWidth 64
    let n := (sget s f.b).toNat
    let zdst := if f.ty = 0 then pget s f.d else (sget s f.d).setWidth 64
    let cpyOk : CopyChecks :=
      { copy := decide (np < g.gix ∧ np ≠ 0)
        align := decide (f.ty ≠ 0 ∧ ((¬ toMem ∧ dst.toNat % 4 ≠ 0) ∨ (¬ fromMem ∧ src.toNat % 4 ≠ 0) ∨ n % 4 ≠ 0))
        sp := (if fromMem then [] else [((src.toNat : Int), n)]) ++ (if toMem then [] else [((dst.toNat : Int), n)])
        mem := (if fromMem then [(src, n, 0)] else []) ++ if toMem then [(dst, n, 1)] else [] }
    let zeroOk : CopyChecks :=
      { copy := decide (np < g.gix ∧ np ≠ 0), align := decide (f.ty ≠ 0 ∧ (zdst.toNat % 4 ≠ 0 ∨ n % 4 ≠ 0))
        sp := if f.ty = 0 then [] else [((zdst.toNat : Int), n)], mem := if f.ty = 0 then [(zdst, n, 1)] else [] }
    let v := sget s f.a
    let tt := tidOf s (ctxOf s g) (v.toNat % 1024)
    let x := tidOf s (ctxOf s g) (v.toNat / 65536 % 1024)
    let cs := (List.range tt.rank).map fun k => (readS g s.who.2 (f.b.toNat + k)).toInt
    let late := (List.range tt.rank).any fun k => pendsS g s.who.2 (f.b.toNat + k)
    let early := scores s g && readsEarly g s.who.2 { sr := spanRegs f.b tt.rank }
    let here := late = false ∧ early = false
    let ringAt := g.cring.toNat % 16
    let ringZp := t.getLsbD 10 = true ∧ g.cring.getLsbD 4 = true ∧ ringZero s (ctxOf s g) ringAt = true
    let badPair := decide (v.toNat / 1024 % 64 ≠ 0 ∨ v.toNat / 2 ^ 26 ≠ 0)
    let beyond := coordsBeyond s f.b.toNat tt.rank
    let unfit := !tt.valid || !x.valid || tt.rank != x.rank || tt.fmt != x.fmt
    let blocks := (x.dims.foldl (· * ·) 1) / 32
    let planes := t.toNat % 32
    let reg := fun (k : Nat) => readS g s.who.2 k
    let pbase := if f.ty = 1 then some (reg (f.d.toNat + 3) ++ reg (f.d.toNat + 2)) else none
    let r := 4 * (t.toNat % 1024 + 1)
    let count := (reg (f.b.toNat + 1)).toNat
    let rows := fun (mem sp : Reg) (kind : Nat) => ({
      align := decide (n % 4 ≠ 0 ∨ (sget s sp).toNat % 4 ≠ 0)
      sp := [((n : Int), 4 * count), (((sget s sp).toNat : Int), r * count)], mem := [(pget s mem, count, kind)] } : CopyChecks)
    let row := v.toNat % 512
    let eng := v.toNat / 512 % 2
    let w := mapGetD (teamOf s g).windows g.gix (0, 0)
    let accOk : CopyChecks :=
      { copy := decide (v.toNat / 1024 ≠ 0 ∨ n = 0 ∨ 512 < row + n), align := decide (¬ toMem ∧ dst.toNat % 4 ≠ 0)
        sp := if toMem then [] else [((dst.toNat : Int), 256 * n)]
        awin := decide (¬ (w.1 ≤ row ∧ row + n ≤ w.2 ∧ row + n ≤ (teamOf s g).accn))
        mem := if toMem then [(dst, 256 * n, if f.ty = 0 then 1 else 0)] else [] }
    let fmt := t.toNat % 8
    let set := (reg (f.b.toNat + 1)).toNat
    let col := fun (i : Instr) (kind : Nat) => both i 3 { copy := decide (2 ≤ fmt ∧ fmt ≤ 5 ∧ n % 32 ≠ 0) }
      { base kind f.ty.toNat true with dst := pget s f.d, src := pget s f.a, len := n, arg := fmt, aux := set % 256 + 256 * (set / 256 % 1024) }
    let word := fun (r : Reg) (mem : Prop) [Decidable mem] => if mem then [(pget s r).extractLsb' 0 32, (pget s r).extractLsb' 32 32] else [sget s r]
    let cpyVals := [f.ty.setWidth 32, t] ++ word f.d toMem ++ word f.a fromMem ++ [sget s f.b]
    let zeroVals := [f.ty.setWidth 32, t] ++ word f.d (f.ty = 0) ++ [sget s f.b]
    let cpyOp := { base 0 f.ty.toNat false with dst := dst, src := src, len := n, np := np, values := cpyVals, started := decide (np = 0) }
    let zeroOp := { base 6 f.ty.toNat false with dst := zdst, len := n, np := np, values := zeroVals, started := decide (np = 0) }
    let alone := fun (kind : Nat) => np = 0 ∨ openCollective s kind = none
    let joins := fun (i : Instr) (kind : Nat) (k : CopyChecks) (vals : List Word) =>
      ready s i = true → np ≠ 0 → openCollective s kind = some (home, o) →
        (full 1 → exec i s = .next (block s .retry)) ∧ (¬ full 1 → copyFails s t k = some u → exec i s = .next u)
          ∧ (¬ full 1 → copyFails s t k = none → ∃ u, exec i s = .next (advance u 8)
        ∧ (me u).classes = (classStart g 1 o.id).classes ∧ KeepsBytes s u
        ∧ (Machine.core u home).copies = (Machine.core s home).copies.map fun q => if q.id = o.id then
            { q with issued := q.issued ++ [s.who.1], clash := q.clash || q.values != vals, ringGix := min g.gix q.ringGix
                     ring := if g.gix < q.ringGix then (if t.getLsbD 10 then some (g.cring.toNat % 16) else none) else q.ring } else q)
    let a := sget s f.a
    let fetch := { base 5 0 false with arg := a.toNat / 4096 % 4096 }
    let i : Instr := .cfetch f t
    (copyFails s t k = if barBad then some (trapC s .baruse) else if k.copy = true then some (trapC s .copy)
        else if ringZp then some (block s (.zero [ringAddr s (ctxOf s g) ringAt])) else if ringBad_ then some (trapC s .copy)
        else if k.tensor then some (trapC s .tensor) else if k.align then some (trapC s .align) else if ∃ r ∈ k.sp, out r then some (trapC s .spbnd)
        else if k.awin then some (trapC s .awin)
        else k.mem.findSome? fun m => match checkRange s (ctxOf s g) m.1 (min 1 m.2.1) m.2.2 with
          | .trap t => some (trap s t) | .zero p => some (block s (.zero [p])) | .ok => none)
      ∧ (alone 0 → both (.cpy f t) 1 cpyOk cpyOp) ∧ (alone 6 → both (.cpyz f t) 1 zeroOk zeroOp)
      ∧ joins (.cpy f t) 0 cpyOk cpyVals ∧ joins (.cpyz f t) 6 zeroOk zeroVals
      ∧ (late = true → ready s (.cpyt f t) = true → exec (.cpyt f t) s = .next (block s .retry))
      ∧ (late = true → ready s (.cpyp f t) = true → exec (.cpyp f t) s = .next (block s .retry))
      ∧ (∀ i ∈ [Instr.cpyt f t, .cpyp f t], late = false → early = true → ready s i = true → exec i s = .next (trapC s .scount))
      ∧ (here → both (.cpyt f t) 1
          { copy := badPair || beyond, tensor := unfit, sp := [boxRange (sget s f.d).toNat tt.fmt x], mem := (boxFirst tt x tt.base cs f.ty.toNat).take 1 }
          { base 1 f.ty.toNat false with dst := (sget s f.d).setWidth 64, tensor := some tt, box := some x, coords := cs })
      ∧ (here → both (.cpyp f t) 1
          { copy := badPair || beyond || (tt.valid && x.valid
              && (decide (x.dims.getD 0 0 % 32 ≠ 0) || (tt.mx && decide (cs.getD 0 0 % 32 ≠ 0)) || !planesOk tt planes))
            tensor := unfit, align := decide ((sget s f.d).toNat % 4 ≠ 0)
            sp := [(((sget s f.d).toNat : Int), 4 * (planesFor tt planes).getD 0 * blocks), (((reg (f.d.toNat + 1)).toNat : Int), blocks)]
            mem := boxFirst tt x (pbase.getD tt.base) cs 0 }
          { base 4 f.ty.toNat false with dst := (sget s f.d).setWidth 64, aux := (reg (f.d.toNat + 1)).toNat, base := pbase, arg := planes
                                         tensor := some tt, box := some x, coords := cs })
      ∧ both (.cpyg f t) 1 (rows f.a f.d 0)
          { base 2 f.ty.toNat false with src := pget s f.a, dst := (sget s f.d).setWidth 64, len := count, arg := r, aux := n }
      ∧ both (.cpys f t) 1 (rows f.d f.a 1)
          { base 3 f.ty.toNat false with dst := pget s f.d, src := (sget s f.a).setWidth 64, len := count, arg := r, aux := n }
      ∧ waits (.cpya f t) 1 ∧ checked (.cpya f t) 1 accOk
      ∧ (ready s (.cpya f t) = true → ¬ full 1 → copyFails s t accOk = none → 2 ≤ f.ty.toNat → rowsOwned s c g.team eng row n = true →
          exec (.cpya f t) s = .next (block s .retry))
      ∧ (¬ (2 ≤ f.ty.toNat ∧ rowsOwned s c g.team eng row n = true) →
          gets (.cpya f t) 1 accOk { base 7 f.ty.toNat false with dst := dst, len := n, arg := 512 * eng + row })
      ∧ waits i 1 ∧ checked i 1 {}
      ∧ (ready s i = true → ¬ full 1 → copyFails s t {} = none →
          ((a.toNat / 2 ^ 24 ≠ 0 ∨ segOf s g a = none) → exec i s = .next (trapC s .fetch))
            ∧ (a.toNat / 2 ^ 24 = 0 → segOf s g a = some seg →
                (∀ n sl, slotFor s c (ctxOf s g) seg.base = some (n, sl) → sl.st = .resident → enters i 1 { fetch with aux := n, src := seg.base, ended := some { status := 0 } })
                  ∧ (∀ n sl, slotFor s c (ctxOf s g) seg.base = some (n, sl) → sl.st ≠ .resident → enters i 1 { fetch with aux := n, src := seg.base })
                  ∧ (slotFor s c (ctxOf s g) seg.base = none → chooseSlot s c = none → enters i 1 { fetch with src := seg.base, ended := some { status := 4 } })
                  ∧ (∀ n, slotFor s c (ctxOf s g) seg.base = none → chooseSlot s c = some n → ∃ u, exec i s = .next (advance u 8)
                      ∧ (Machine.core u c).copies = (Machine.core s c).copies ++ [{ fetch with aux := n, src := seg.base, len := seg.len }]
                      ∧ (me u).classes = (classStart g 1 s.nextId).classes
                      ∧ slotAt u c n = { st := .loading, ctx := ctxOf s g, base := seg.base, len := seg.len
                                         snap := snapSegment s (ctxOf s g) seg.base seg.len })))
      ∧ col (.colg f t) 0 ∧ col (.cols f t) 1 ∧ col (.colr f t) 2 ∧ col (.colb f t) 3

/-- R284, R296, R299 to R301, R303, R305, R422: a copy that is not ready stays; one that ends leaves the engine, is
counted in its class for every participant, credits its barrier with N unless that was invalidated or has gone with its team or
span,
and writes its 32-byte record and the next SEQ; a page that is not present stops it for service, a fault sets
CTXERR.COPY. A team collective starts once every participant has issued or is gone, as a release. (A copy is carried out
in one step: log 6; which bytes a segment's load reads, and when: log 42.) A record whose ring's table entry waits to be zeroed
waits (R255). R294, R305, R307 to R311: what each kind of copy writes, where no byte is poisoned and every page
translates: CPY moves its range and CPYZ zeroes it; CPYT loads a box, out-of-range elements as the pad, and stores only
in-range ones; CPYG gathers rows, zeros for skipped ones, and CPYS scatters them; CPYA moves accumulator rows; CPYP
writes each block's plane words and exponent byte (a block wholly out of range of an MX format has any exponent but 255:
log 22). -/
def Obligations.Copies : Prop :=
  (∀ (s : State) (c id : Nat) (op : CopyOp) (data : Arrival) (va : Addr) (reason kind k log seq : Nat) (base : Addr) (e : Ended),
      let found := findCopy s c id = some op
      let run := match op.min with
        | 1 => runCpyt op c { s := s } | 2 | 3 => runRows op c { s := s } | 4 => runCpyp op c { s := s } | 7 => runCpya op c { s := s }
        | _ => runCpy op c { s := s }
      let i := Instr.copyComplete c id
      let due := found ∧ op.coll = false ∧ op.min ≠ 5 ∧ op.started = true ∧ op.service = none ∧ accBlocked s c op = false
      let leaves := fun (t : State) => (core t c).copies = (core s c).copies.filter (fun o => o.id != id)
        ∧ ∀ gid ∈ op.issued, (grp t gid).classes = (classDone (grp s gid) 1 id).classes
      let credits := fun (t : State) => ∀ sp n epoch, op.bar = some (sp, n, epoch) →
        let x := barOf s op.team sp n
        let y := { x with tx := x.tx - BitVec.ofNat 32 (nominal op) }
        barOf t op.team sp n = if barGone s op.team sp = true ∨ x.epoch ≠ epoch then x
          else if y.exp ≤ y.arr ∧ y.tx = 0 then { y with ph := y.ph + 1, arr := 0, arrived := [], payload := [] } else y
      let same := fun (t u : State) => t.mem = u.mem ∧ ∀ tid, (team t tid).sp = (team u tid).sp ∧ (team t tid).acc = (team u tid).acc
        ∧ (team t tid).accPoison = (team u tid).accPoison ∧ (team t tid).spPoison = (team u tid).spPoison
      let elems := ((op.box.getD {}).dims).foldl (· * ·) 1
      let bytes := recordOf s op e seq
      let field := fun (off n : Nat) => leNat ((bytes.drop off).take n)
      let there := (team s op.team).groups.all fun gid => decide (op.np < (grp s gid).gix) || has op.issued gid || (grp s gid).state == .gone
      let slot := base + BitVec.ofNat 64 (32 * (seq % 2 ^ log))
      let next := writeVa (countEvent s c 9 0) c op.ctx ((ctx s op.ctx).ringt + BitVec.ofNat 64 (16 * k) + 12) (leBytes (seq + 1) 4) op.group
      (findCopy s c id = none → ∀ i ∈ [i, .cfetchDone c id, .collectiveComplete c id data, .collectiveCopyStart c id], exec i s = .next s)
        ∧ (found → (op.coll = true ∨ op.min = 5 ∨ op.started = false ∨ op.service ≠ none ∨ accBlocked s c op = true) → exec i s = .next s)
        ∧ (found → (op.coll = true ∨ op.min ≠ 5) → exec (.cfetchDone c id) s = .next s)
        ∧ (found → op.coll = false → exec (.collectiveComplete c id data) s = .next s)
        ∧ (due → op.clash = true → engineFrozen s c = true → exec i s = .next s)
        ∧ (due → op.clash = false → run.halt = none → engineFrozen s c = false → op.ring = none → ∃ t, exec i s = .next t ∧ leaves t
            ∧ same t run.s ∧ credits t)
        ∧ (due → op.clash = true → engineFrozen s c = false → op.ring = none → ∃ t, exec i s = .next t ∧ leaves t ∧ same t s ∧ credits t)
        ∧ (due → op.clash = false → run.halt = some (.service va) →
            exec i s = .next (updCopy s c id fun o => { o with service := some va }))
        ∧ (due → op.clash = false → run.halt = some (.fault va reason kind) → engineFrozen s c = false → op.ring = none → ∃ t,
            exec i s = .next t ∧ leaves t ∧ same t run.s ∧ credits t ∧ (ctx t op.ctx).ctxerr.getLsbD 22 = true)
        ∧ (due → op.clash = true → engineFrozen s c = false → op.bar = none → op.ring = some k → ringZero s op.ctx k = true → exec i s = .next s)
        ∧ (due → op.clash = true → engineFrozen s c = false → op.bar = none → op.ring = some k → ringZero s op.ctx k = false →
            ringEntry s op.ctx k = some (base, log, seq) → (pieces next op slot 32 1).2 = none → ∃ t, exec i s = .next t ∧ leaves t
              ∧ t.mem = (writeVa (writeBackAll next c) c op.ctx slot (recordOf s op { status := 3 } seq) op.group).mem)
        ∧ (due → op.clash = true → engineFrozen s c = false → op.bar = none → op.ring = some k → ringZero s op.ctx k = false →
            ringEntry s op.ctx k = none →
            ∃ t, exec i s = .next t ∧ leaves t ∧ same t s ∧ (ctx t op.ctx).ctxerr.getLsbD 22 = true)
        ∧ (bytes.length = 32 ∧ field 0 4 = seq % 2 ^ 32 ∧ field 4 1 = e.status % 256 ∧ field 5 1 = op.tag % 256
            ∧ field 6 1 = (op.min + (if op.coll then 8 else 0) + 16 * op.ty + if e.reread then 64 else 0) % 256 ∧ field 7 1 = e.fcode % 256
            ∧ field 8 8 = e.bytes % 2 ^ 64 ∧ field 16 8 = e.faddr.toNat ∧ field 24 8 = s.time.toNat)
        ∧ (op.min = 0 ∨ op.min = 6 → nominal op = op.len) ∧ (op.min = 2 ∨ op.min = 3 → nominal op = op.len * op.arg)
        ∧ (op.min = 7 → nominal op = 256 * op.len) ∧ (op.min = 1 → nominal op = (elems * elemBits (op.tensor.getD {}).fmt + 7) / 8)
        ∧ (found → there = false → exec (.collectiveCopyStart c id) s = .next s)
        ∧ (found → there = true → exec (.collectiveCopyStart c id) s
            = .next (updCopy (writeBackAll (writeBackAll s c) (team s op.team).core) c id fun o => { o with started := true }))
        ∧ (let idle := op.service = none ∧ engineFrozen s c = false ∧ op.ring = none ∧ op.bar = none
          let sl := slotAt s c k
          let devs := mapGetD (part s (ctx s op.ctx).part).sets (op.aux % 256) []
          let rank := (devs.idxOf? s.device).getD devs.length
          let each := sentBytes op devs.length
          let own := readPlace s op (.mem op.src) each
          let all := colResult op devs.length rank (setAt (cut each data.bytes) rank own.bytes)
          let dst := pieces s op op.dst all.length 1
          (found → op.min = 5 → op.coll = false → idle → op.ended = some e → ∃ t, exec (.cfetchDone c id) s = .next t ∧ leaves t)
            ∧ (sl.st = .resident → ∃ t, exec (.imemError c k) s = .next t ∧ (slotAt t c k).st = .loading)
            ∧ (∀ bs, sl.st = .loading → sl.service = none → engineFrozen s c = false → segmentBytes s sl.ctx sl.base sl.len sl.snap sl.failed = (bs, none) →
                ∃ t, exec (.segmentLoadDone c k) s = .next t ∧ (slotAt t c k).st = .resident)
            ∧ (found → op.coll = true → op.min = 0 → idle → (∀ d ∈ devs, d = s.device ∨ s.reaches d = true) → data.differ = false → data.bad = [] →
                rank < devs.length → data.bytes.length = each * devs.length → own.halt = none → own.bad = [] → dst.2 = none →
                (∀ e ∈ dst.1, downIn s e.2.1 e.2.2 = false ∧ refusedOutside s e.2.1 e.2.2 = false) → ∃ t, exec (.collectiveComplete c id data) s = .next t
                  ∧ (core t c).copies.map (·.id) = ((core s c).copies.map (·.id)).filter (· != id)
                  ∧ t.mem = dst.1.foldl (fun m e => setBytes m e.2.1 ((all.drop e.1).take e.2.2)) s.mem)))
    ∧ (∀ (s : State) (c : Nat) (op : CopyOp),
      let start : Run := { s := s }
      let sp := fun (s : State) => (team s op.team).sp
      let spDst := op.dst.toNat
      let clear := fun (p : Place) (n : Nat) => (readPlace s op p n).halt = none ∧ (readPlace s op p n).bad = []
      let got := fun (p : Place) (n : Nat) => (readPlace s op p n).bytes
      let open_ := fun (va : Addr) (n : Nat) => (pieces s op va n 1).2 = none
        ∧ ∀ e ∈ (pieces s op va n 1).1, downIn s e.2.1 e.2.2 = false ∧ refusedOutside s e.2.1 e.2.2 = false
      let put := fun (va : Addr) (bs : List Byte) =>
        (pieces s op va bs.length 1).1.foldl (fun m e => setBytes m e.2.1 ((bs.drop e.1).take e.2.2)) s.mem
      let src : Place := if op.ty ≤ 1 then .mem op.src else .sp op.src.toNat
      let t := op.tensor.getD {}
      let x := op.box.getD {}
      let w := elemBits t.fmt / 8
      let at_ := fun (e : List Nat) => shifted op.coords e
      let far := fun (e : List Nat) => Place.mem (elemAddr t.base t.fmt (elemIndex (at_ e) t.strides))
      let near := fun (e : List Nat) => (elemAddr op.dst t.fmt (elemIndex (asInts e) x.strides)).toNat
      let idx := fun (j : Nat) => leNat (got (.sp (op.aux + 4 * j)) 4)
      let whole := ∀ j, j < op.len → clear (.sp (op.aux + 4 * j)) 4
      let skip := fun (j : Nat) => op.ty = 1 ∧ idx j = 0xFFFFFFFF
      let row := fun (b : Addr) (j : Nat) => b + BitVec.ofNat 64 (idx j * op.arg)
      let p := (planesFor t op.arg).getD 2
      let bs := blocksOf ((positions x.dims).map at_)
      let elems := fun (b : Nat) => (bs.getD b []).map (readElem s op t)
      let conv := fun (b : Nat) => convertBlock t p ((Config.freeByte (s.fresh + b)).toNat % 255) (elems b)
      (op.min = 0 → clear src op.len →
          ((op.ty = 1 ∨ op.ty = 3) → (runCpy op c start).halt = none ∧ (runCpy op c start).s.mem = s.mem
              ∧ sp (runCpy op c start).s = setBytes (sp s) spDst (got src op.len))
            ∧ ((op.ty = 0 ∨ op.ty = 2) → open_ op.dst op.len → (runCpy op c start).halt = none ∧ sp (runCpy op c start).s = sp s
              ∧ (runCpy op c start).s.mem = put op.dst (got src op.len)))
        ∧ (op.min = 6 → (op.ty ≠ 0 → (runCpy op c start).halt = none ∧ (runCpy op c start).s.mem = s.mem
              ∧ sp (runCpy op c start).s = setBytes (sp s) spDst (List.replicate op.len 0))
            ∧ (op.ty = 0 → open_ op.dst op.len → (runCpy op c start).halt = none ∧ (runCpy op c start).s.mem = put op.dst (List.replicate op.len 0)))
        ∧ (op.min = 1 → op.ty = 0 → 1 ≤ w → (∀ e ∈ positions x.dims, inRange t (at_ e) = true → clear (far e) w) →
            (runCpyt op c start).halt = none ∧ (runCpyt op c start).s.mem = s.mem
              ∧ sp (runCpyt op c start).s = (positions x.dims).foldl (fun m e =>
                  setBytes m (near e) (if inRange t (at_ e) then got (far e) w else leBytes t.pad.toNat w)) (sp s))
        ∧ (op.min = 1 → op.ty = 1 → 1 ≤ w → ∀ e, positions x.dims = [e] →
            (inRange t (at_ e) = false → (runCpyt op c start).s = s ∧ (runCpyt op c start).halt = none)
              ∧ (inRange t (at_ e) = true → clear (.sp (near e)) w → ∀ va, far e = .mem va → open_ va w →
                  (runCpyt op c start).halt = none ∧ (runCpyt op c start).s.mem = put va (got (.sp (near e)) w)))
        ∧ (op.min = 2 → whole → (∀ j, j < op.len → ¬ skip j → clear (.mem (row op.src j)) op.arg) →
            (runRows op c start).halt = none ∧ (runRows op c start).s.mem = s.mem
              ∧ sp (runRows op c start).s = (List.range op.len).foldl (fun m j =>
                  setBytes m (spDst + j * op.arg) (if skip j then List.replicate op.arg 0 else got (.mem (row op.src j)) op.arg)) (sp s))
        ∧ (op.min = 3 → whole → op.len = 1 →
            (skip 0 → (runRows op c start).s = s)
              ∧ (¬ skip 0 → clear (.sp op.src.toNat) op.arg → open_ (row op.dst 0) op.arg → (runRows op c start).halt = none
                  ∧ (runRows op c start).s.mem = put (row op.dst 0) (got (.sp op.src.toNat) op.arg)))
        ∧ (op.min = 7 → op.ty = 1 → (∀ j, j < op.len → clear (.acc ((op.arg + j) * 256)) 256) → (runCpya op c start).halt = none
            ∧ (team (runCpya op c start).s op.team).acc = (team s op.team).acc
            ∧ sp (runCpya op c start).s = (List.range op.len).foldl (fun m j =>
                setBytes m (spDst + 256 * j) (got (.acc ((op.arg + j) * 256)) 256)) (sp s))
        ∧ (op.min = 7 → op.ty = 3 → (∀ j, j < op.len → clear (.sp (spDst + 256 * j)) 256) → (runCpya op c start).halt = none
            ∧ sp (runCpya op c start).s = sp s ∧ ∀ k, cellGet (team (runCpya op c start).s op.team).acc k
              = if 64 * op.arg ≤ k ∧ k < 64 * (op.arg + op.len)
                then BitVec.ofNat 32 (leNat (got (.sp (spDst + 4 * (k - 64 * op.arg))) 4)) else cellGet (team s op.team).acc k)
        ∧ (op.min = 4 → (∀ b, b < bs.length → ∀ e ∈ elems b, e.halt = none ∧ e.bad = none) → (runCpyp op c start).halt = none
            ∧ sp (runCpyp op c start).s = (List.range bs.length).foldl (fun m b =>
                setBytes (setBytes m (spDst + 4 * p * b) ((List.range p).flatMap fun j => leBytes (planeWord (conv b).2 j) 4))
                  (op.aux + b) [BitVec.ofNat 8 (conv b).1]) (sp s)))

/-- R29 to R33, R35, R305, R312 to R315: a fetch ends once its segment is resident, with its bytes or with poison; without a slot it
ends with status 4; a load that has its bytes makes its slot resident and lets those that wait go on, and one that fails empties it,
a group that waited for it traps FETCH, and a fetch that waited ends with status 2; an error in a slot reloads it; a collective ends
with what its ranks sent, combined in ascending rank, with status 3 where they disagree and 6 where a peer is lost; each status
stands in the record of R299 where the operation has a ring. A frozen engine loads nothing (R422). (What the other ranks sent comes
with the event: log 23; that a segment's bytes are read when its load starts is the model's choice: log 42.) -/
def Obligations.FetchesAndCollectives : Prop :=
  ∀ (s : State) (c id n : Nat) (op : CopyOp) (bs : List Byte) (sent : Arrival) (va : Addr) (r kind : Nat) (senders : List (List Byte)) (x : Nat),
    let data := sent.bytes
    let found := findCopy s c id = some op
    let sl := slotAt s c op.aux
    let still := engineFrozen s c = false ∧ op.bar = none
    let idle := op.service = none ∧ still ∧ op.ring = none
    let leaves := fun (t : State) (cls : Nat) => (core t c).copies.map (·.id) = ((core s c).copies.map (·.id)).filter (· != id)
      ∧ ∀ gid ∈ op.issued, (grp t gid).classes = (classDone (grp s gid) cls id).classes
    let noted := fun (u : State) (e : Ended) => countEvent (if e.status = 2 then setCtxErr u op.ctx 22 else u) c 9 e.bytes
    let records := fun (i : Instr) (cls : Nat) (u : State) (e : Ended) => ∀ (k log seq : Nat) (base : Addr),
      let slot := base + BitVec.ofNat 64 (32 * (seq % 2 ^ log))
      let next := writeVa (noted u e) c op.ctx ((ctx u op.ctx).ringt + BitVec.ofNat 64 (16 * k) + 12) (leBytes (seq + 1) 4) op.group
      op.ring = some k → engineFrozen u c = false → ringZero (noted u e) op.ctx k = false → ringEntry (noted u e) op.ctx k = some (base, log, seq) →
        (pieces next op slot 32 1).2 = none →
        ∃ t, exec i s = .next t ∧ (core t c).copies.map (·.id) = ((core u c).copies.map (·.id)).filter (· != id)
          ∧ (∀ gid ∈ op.issued, (grp t gid).classes = (classDone (grp u gid) cls id).classes)
          ∧ t.mem = (writeVa (writeBackAll next c) c op.ctx slot (recordOf next op e seq) op.group).mem
    let fetch := Instr.cfetchDone c id
    let load := Instr.segmentLoadDone c n
    let slot := slotAt s c n
    let loads := segmentBytes s slot.ctx slot.base slot.len slot.snap slot.failed
    let hurt := (readPlace s { id := 0, min := 5, ctx := slot.ctx } (.mem slot.base) bs.length).bad
    let joined := fun (o : CopyOp) => !o.coll && o.min == 5 && o.aux == n && o.ended.isNone && o.ctx == slot.ctx && o.src == slot.base
    let ends := fun (t : State) (e : CopyOp → Ended) =>
      (core t c).copies = (core s c).copies.map fun o => if joined o then { o with ended := some (e o) } else o
    let fails := fun (t : State) => slotAt t c n = {} ∧ (∀ m, m ≠ n → slotAt t c m = slotAt s c m) ∧ KeepsBytes s t
      ∧ ends t fun _ => { status := 2, fcode := if r ≤ 2 then 4 else 5, faddr := va }
    let waits := fun (g : Group) => coreOf s g = c ∧ g.state = .running ∧ waitingFor s slot g ≠ []
    let freed := fun (w : Option Wait) => match w with | some (.segment _) => none | w => w
    let devs := mapGetD (part s (ctx s op.ctx).part).sets (op.aux % 256) []
    let rank := (devs.idxOf? s.device).getD devs.length
    let rooted := op.min = 1 ∨ op.min = 3
    let each := sentBytes op devs.length
    let got := gotBytes op devs.length
    let all := Instr.collectiveComplete c id sent
    let up := ∀ d ∈ devs, d = s.device ∨ s.reaches d = true
    let own := readPlace s op (.mem op.src) each
    let sends := rooted → op.aux / 256 = rank
    let parts := if rooted then [if op.aux / 256 = rank then own.bytes else data] else setAt (cut each data) rank own.bytes
    let dst := pieces s op op.dst
    let put := fun (bs : List Byte) => (dst bs.length 1).1.foldl (fun m e => setBytes m e.2.1 ((bs.drop e.1).take e.2.2)) s.mem
    let open_ := fun (n : Nat) => (dst n 1).2 = none ∧ ∀ e ∈ (dst n 1).1, downIn s e.2.1 e.2.2 = false ∧ refusedOutside s e.2.1 e.2.2 = false
    let size := if op.arg = 0 then 4 else if op.arg = 1 then 2 else 1
    let wrote := putBytes op c { s := s } (.mem op.dst) (data.take got) false
    let differ := sent.differ = true ∨ devs.length ≤ rank ∨ (rooted ∧ devs.length ≤ op.aux / 256)
      ∨ data.length ≠ if rooted then each else each * devs.length
    (found → op.min = 5 → op.coll = false →
        (op.ended = none → sl.st = .loading → sl.ctx = op.ctx → sl.base = op.src → exec fetch s = .next s)
          ∧ ∀ z, op.ended = some z →
            (idle → ∃ t, exec fetch s = .next t ∧ leaves t 1 ∧ KeepsBytes s t ∧ (∀ m, slotAt t c m = slotAt s c m)
                ∧ (z.status = 2 → (ctx t op.ctx).ctxerr.getLsbD 22 = true))
              ∧ (still → records fetch 1 s z))
      ∧ (slot.st = .loading → (slot.service ≠ none ∨ engineFrozen s c = true) → exec load s = .next s)
      ∧ (slot.st = .loading → slot.service = none → engineFrozen s c = false →
        (loads = (bs, none) → ∃ t, exec load s = .next t ∧ (slotAt t c n).st = .resident
            ∧ (slotAt t c n).bytes = setBytes [] 0 bs ∧ KeepsBytes s t
            ∧ (ends t fun o => if o.len = 0 ∨ hurt = [] then { status := 0, bytes := o.len }
                else { status := 1, faddr := (slot.base + BitVec.ofNat 64 (hurt.headD (0, 0)).1) &&& ~~~ 31, bytes := o.len })
            ∧ ∀ gid k seg, (mapGet s.groups gid).isSome = true → coreOf s (grp s gid) = c → (launchOf s (grp s gid)).kernel.segs[k]? = some seg →
                ctxOf s (grp s gid) = slot.ctx → seg.base = slot.base → ∀ m, waitOf (grp s gid) (.split m) = some (.segment k) →
                  waitOf (grp t gid) (.split m) = none)
          ∧ (loads = (bs, some (.service va)) → ∃ t, exec load s = .next t ∧ slotAt t c n = { slot with service := some va } ∧ KeepsBytes s t)
          ∧ (loads = (bs, some (.fault va r kind)) → (∀ e ∈ s.groups, ¬ waits (grp s e.1)) → ∃ t, exec load s = .next t ∧ fails t)
          ∧ (loads = (bs, some (.fault va r kind)) → ∀ pre gid g st k ws, s.groups = pre ++ [(gid, g)] → (∀ e ∈ pre, e.1 ≠ gid ∧ ¬ waits (grp s e.1)) →
              coreOf s g = c → g.state = .running → waitingFor s slot g = (st, k) :: ws →
              ∃ u, exec load s = .next (takeTrap u gid st { cause := .fetch, addr := some va, kind := 3, reason := r, target := some k }) ∧ fails u
                ∧ grp u gid = { g with splits := g.splits.map fun p => (p.1, { p.2 with wait := freed p.2.wait })
                                       aslice := g.aslice.map fun a => { a with wait := freed a.wait } }))
      ∧ (slot.st ≠ .loading → missingSeg s c false = none → missingSeg s c true = none → exec load s = .next s)
      ∧ (slot.st = .resident → ∃ t, exec (.imemError c n) s = .next t ∧ KeepsBytes s t
          ∧ slotAt t c n = { slot with st := .loading, bytes := [], snap := snapSegment s slot.ctx slot.base slot.len })
      ∧ (slot.st ≠ .resident → exec (.imemError c n) s = .next s)
      ∧ (found → op.coll = true → op.service = none → still →
          (¬ up → (op.ring = none → open_ (min data.length got) → ∃ t, exec all s = .next t ∧ leaves t 3 ∧ t.mem = put (data.take got))
              ∧ (wrote.halt = none → records all 3 wrote.s { endOf wrote with status := 6, fcode := 0, faddr := 0 }))
            ∧ (up → differ → (op.ring = none → ∃ t, exec all s = .next t ∧ leaves t 3 ∧ KeepsBytes s t) ∧ records all 3 s { status := 3 })
            ∧ (up → op.ring = none → sent.differ = false → sent.bad = [] → rank < devs.length → (rooted → op.aux / 256 < devs.length) →
                data.length = (if rooted then each else each * devs.length) →
                (sends → own.halt = none ∧ own.bad = []) → open_ (colResult op devs.length rank parts).length →
                ∃ t, exec all s = .next t ∧ leaves t 3 ∧ t.mem = put (colResult op devs.length rank parts)))
      ∧ (op.arg ≤ 1 → op.min = 0 → (∀ b ∈ senders, b.length = size * op.len) → colResult op senders.length rank senders = senders.flatten)
      ∧ (op.arg ≤ 1 → op.min = 1 → colResult op n x [bs] = (bs.drop (size * op.len * x)).take (size * op.len))
      ∧ (op.min = 3 → colResult op n x [bs] = bs)
      ∧ (op.min = 2 → op.arg = 0 → senders ≠ [] → ∀ i, i < op.len →
          let v := fun (b : List Byte) => leNat ((b.drop (4 * i)).take 4)
          let f := if op.ty = 0 then addF fp32 else if op.ty = 1 then maxF fp32 else minF fp32
          leNat (((colResult op n x senders).drop (4 * i)).take 4) = ((senders.map v).tail.foldl f ((senders.map v).headD 0)) % 2 ^ 32)

/-! ### The matrix engine -/

/-- R356, R359, R360, R365, R366, R369: ACCZ, ACCRD, ACCWR and AWSET check their rows against the window, wait for the
rows that an operation owns, and read or write exactly the elements named; a lane that reads a poisoned row dies. -/
def Obligations.Accumulators : Prop :=
  ∀ (f : Head) (t : Word) (s : State) (fa fb : Nat → Word) (bad : Lanes),
    let g := me s
    let c := coreOf s g
    let k := teamOf s g
    let eng := if t.getLsbD 16 = true then 1 else 0
    let row := (sget s f.a).toNat
    let n := (sget s f.b).toNat
    let d := (sget s f.d).toNat
    let w := mapGetD k.windows g.gix (0, 0)
    let inside := fun (r n : Nat) => w.1 ≤ r ∧ r + n ≤ w.2 ∧ r + n ≤ k.accn
    let owned := fun (r n : Nat) => ∃ o ∈ engQ (core s c) eng, o.committed = false ∧ (grp s o.group).team = g.team ∧ o.row < r + n ∧ r < o.row + o.rows
    let act := active g s.who.2
    let line := fun (e r : Nat) => 512 * e + r
    let col := fun (y : Nat) => (if t.getLsbD 0 = true then 32 else 0) + y % 32
    let hurt := fun (y : Nat) => accBad k eng (row + y / 32) = true
    let z : Instr := .accz f t
    let r : Instr := .accrd f t
    let x : Instr := .accwr f t
    let a : Instr := .awset f t
    (ready s z = true →
        ((n = 0 ∨ 512 < n ∨ ¬ inside row n) → exec z s = .next (trapC s .awin))
          ∧ (n ≠ 0 → n ≤ 512 → inside row n → owned row n → exec z s = .next (block s .retry))
          ∧ (n ≠ 0 → n ≤ 512 → inside row n → ¬ owned row n → ∃ u, exec z s = .next (advance u 8) ∧ u = { s with teams := u.teams }
              ∧ ∀ e q y, y < 64 → let hit := line eng row ≤ line e q ∧ line e q < line eng row + n
                accGet (team u g.team) e q y = (if hit then 0 else accGet k e q y)
                  ∧ (accBad (team u g.team) e q = true ↔ ¬ hit ∧ accBad k e q = true)))
      ∧ (ready s r = true →
        (act = 0 → exec r s = .next (advance s 8)) ∧ (act ≠ 0 → ¬ inside row 3 → exec r s = .next (trapC s .awin))
          ∧ (act ≠ 0 → inside row 3 → ∃ u dead, exec r s = .next (laneDeath (advance u 8) s.who.1 dead 2) ∧ OnlyMine s u
              ∧ (∀ y, y < 96 → (dead.getLsbD y = true ↔ act.getLsbD y = true ∧ hurt y))
              ∧ ∃ e ∈ (me u).fly, e.due = nowOf s g + 12 ∧ e.w.isV = true ∧ e.w.reg = f.d.toNat ∧ e.w.mask = act &&& ~~~ dead
                ∧ ∀ y, y < 96 → e.w.mask.getLsbD y = true → cellGet e.w.vals y = accGet k eng (row + y / 32) (col y)))
      ∧ (ready s x = true → sources s none (some f.b) = .go fa fb bad →
        let lanes := acting s bad
        let waits := ∃ y, y < 96 ∧ lanes.getLsbD y = true ∧ owned (row + y / 32) 1
        (act = 0 → exec x s = .next (advance s 8)) ∧ (act ≠ 0 → ¬ inside row 3 → exec x s = .next (trapC s .awin))
          ∧ (act ≠ 0 → inside row 3 → waits → exec x s = .next (block s .retry))
          ∧ (act ≠ 0 → inside row 3 → ¬ waits → ∃ u, exec x s = .next (laneDone s u x bad) ∧ u = { s with teams := u.teams }
              ∧ (team u g.team).accPoison = k.accPoison
              ∧ (∀ y, y < 96 → lanes.getLsbD y = true → accGet (team u g.team) eng (row + y / 32) (col y) = fb y)
              ∧ ∀ e q m, m < 64 → (∀ y, y < 96 → lanes.getLsbD y = true → ¬ (line e q = line eng (row + y / 32) ∧ m = col y)) →
                accGet (team u g.team) e q m = accGet k e q m))
      ∧ (ready s a = true →
        let out := (launchOf s g).kernel.team ≤ d ∨ n < row ∨ k.accn < n
        (g.gix ≠ 0 → exec a s = .next (trapC s .priv)) ∧ (g.gix = 0 → out → exec a s = .next (trapC s .awin))
          ∧ (g.gix = 0 → ¬ out → ∃ u, exec a s = .next (advance u 8) ∧ u = { s with teams := u.teams }
              ∧ ∀ m, mapGetD (team u g.team).windows m (0, 0) = if m = d then (row, n) else mapGetD k.windows m (0, 0)))

/-- R363, R367, R368, R379, R392: MLOOP, MLOOPD and ACCDRN wait for room in their engine's queue, make their checks in
the order given with nothing enqueued, and then enter the queue and count in class 2, with every operand as it stands.
-/
def Obligations.MatrixIssue : Prop :=
  ∀ (f : Head) (t : Word) (s : State) (info : TrapInfo) (p : Addr),
    let g := me s
    let c := coreOf s g
    let k := teamOf s g
    let eng := if t.getLsbD 16 = true then 1 else 0
    let w := mapGetD k.windows g.gix (0, 0)
    let inside := fun (r n : Nat) => w.1 ≤ r ∧ r + n ≤ w.2 ∧ r + n ≤ k.accn
    let full := 8 ≤ ((engQ (core s c) eng).filter fun o => !o.committed).length ∨ 63 ≤ (classOps g 2).length
    let enters := fun (i : Instr) (told : MatOp → Prop) (stat : Word) => ∃ u o, exec i s = .next (advance u 8)
      ∧ engQ (core u c) eng = engQ (core s c) eng ++ [o] ∧ engQ (core u c) (1 - eng) = engQ (core s c) (1 - eng)
      ∧ classOps (me u) 2 = classOps g 2 ++ [(o.id, false)] ∧ o.id = s.nextId ∧ o.eng = eng ∧ o.group = s.who.1
      ∧ o.started = false ∧ o.committed = false ∧ o.ready = s.clk.toNat + 4 ∧ u.teams = s.teams ∧ u.mem = s.mem
      ∧ (me u).dstat = stat ∧ told o
    let reg := fun (n : Nat) => readS g s.who.2 (f.a.toNat + n)
    let row := (sget s f.d).toNat
    let steps := t.toNat % 256 + 1
    let pa := t.toNat / 256 % 16 + 1
    let pb := t.toNat / 4096 % 16 + 1
    let skew := (reg 0).toNat % 4 ≠ 0 ∨ (reg 2).toNat % 4 ≠ 0 ∨ (reg 4).toNat % 4 ≠ 0 ∨ (reg 5).toNat % 4 ≠ 0
    let beyond := ∃ j, j < steps ∧
      (k.spsize < (reg 0).toNat + j * ((reg 4).toNat % 65536) + 256 * pa ∨ k.spsize < (reg 1).toNat + j * ((reg 4).toNat / 65536) + 64
        ∨ k.spsize < (reg 2).toNat + j * ((reg 5).toNat % 65536) + 256 * pb ∨ k.spsize < (reg 3).toNat + j * ((reg 5).toNat / 65536) + 64)
    let loop := fun (i : Instr) (form : Form) (more : MatOp → Prop) (stat : Word) =>
      (¬ inside row 64 → exec i s = .next (trapC s .awin)) ∧ (inside row 64 → skew → exec i s = .next (trapC s .align))
        ∧ (inside row 64 → ¬ skew → beyond → exec i s = .next (trapC s .spbnd))
        ∧ (inside row 64 → ¬ skew → ¬ beyond → enters i (fun o => o.row = row ∧ o.rows = 64 ∧ o.form = form ∧ o.ovw = (f.ty == 1) ∧ o.steps = steps
            ∧ o.pa = pa ∧ o.pb = pb ∧ o.regs = (List.range 6).map reg ∧ o.drain = none ∧ more o) stat)
    let st := g.dstat.toNat / 2 ^ 29
    let formed := g.dstat.getLsbD 28
    let region := 4096 * (g.dstat.toNat / 2 ^ 20 % 256)
    let i : Instr := .mloopd f t
    let wrong := (sget s f.b ^^^ g.dstat) &&& 0xEFFFFFFF ≠ 0 ∨ st = 7 ∨ (st ≤ 3 ∧ g.binding.map (·.steps) ≠ some steps)
    let short := st ≤ 3 ∧ k.spsize < region + 6272 * steps
    let forms := st ≤ 3 ∧ formed = false
    let form : Form := if 4 ≤ st then .plain
      else if formed = false then (if st = 1 then .formDelta else .formFull st)
      else if st = 1 then .reuseDelta ((g.binding.map (·.dprec)).getD 1) else .reuseFull
    let j : Instr := .accdrn f t
    let v := sget s f.a
    let first := v.toNat % 512
    let n := v.toNat / 65536 % 1024
    let fmt := t.toNat % 8
    let mx := fmt < 4
    let sp := f.ty = 1
    let at_ := fun (r : Reg) => if sp then (sget s r).setWidth 64 else pget s r
    let size := n * (match fmt with | 3 => 32 | 4 => 128 | 5 => 256 | _ => 64)
    let badRows := v.toNat / 512 % 128 ≠ 0 ∨ v.toNat / 2 ^ 26 ≠ 0 ∨ n = 0 ∨ 512 < n ∨ ¬ inside first n
    let skewD := (at_ f.d).toNat % 4 ≠ 0 ∨ (mx ∧ (at_ f.b).toNat % 4 ≠ 0)
    let out := k.spsize < (at_ f.d).toNat + size ∨ (mx ∧ k.spsize < (at_ f.b).toNat + 4 * n)
    let drains := enters j (fun o => o.row = first ∧ o.rows = n ∧ o.form = .drain
      ∧ o.drain = some { fmt := fmt, rnd := t.toNat / 8 % 4, xopt := t.getLsbD 5, sat := t.getLsbD 6, zero := t.getLsbD 7
                         sp := f.ty == 1, dst := at_ f.d, sdst := at_ f.b }) g.dstat
    (ready s (.mloop f t) = true →
        (full → exec (.mloop f t) s = .next (block s .retry)) ∧ (¬ full → loop (.mloop f t) .plain (fun _ => True) g.dstat))
      ∧ (ready s i = true →
        (full → exec i s = .next (block s .retry))
          ∧ (¬ full → wrong → exec i s = .next (trapC s .delta)) ∧ (¬ full → ¬ wrong → short → exec i s = .next (trapC s .spbnd))
          ∧ (¬ full → ¬ wrong → ¬ short → loop i form (fun o => o.region = region ∧ o.dprec = g.dprec.toNat ∧ o.bind = g.binding)
              (if forms then g.dstat ||| 0x10000000 else g.dstat)))
      ∧ (ready s j = true →
        (full → exec j s = .next (block s .retry)) ∧ (¬ full → badRows → exec j s = .next (trapC s .awin))
          ∧ (¬ full → ¬ badRows → skewD → exec j s = .next (trapC s .align))
          ∧ (¬ full → ¬ badRows → ¬ skewD → sp → out → exec j s = .next (trapC s .spbnd))
          ∧ (¬ full → ¬ badRows → ¬ skewD → sp → ¬ out → drains)
          ∧ (¬ full → ¬ badRows → ¬ skewD → ¬ sp →
              (checkRange s (ctxOf s g) (at_ f.d) size 1 = .trap info → exec j s = .next (trap s info))
                ∧ (checkRange s (ctxOf s g) (at_ f.d) size 1 = .zero p → exec j s = .next (block s (.zero [p])))
                ∧ (checkRange s (ctxOf s g) (at_ f.d) size 1 = .ok →
                    (mx → checkRange s (ctxOf s g) (at_ f.b) (4 * n) 1 = .trap info → exec j s = .next (trap s info))
                      ∧ (mx → checkRange s (ctxOf s g) (at_ f.b) (4 * n) 1 = .zero p → exec j s = .next (block s (.zero [p])))
                      ∧ ((mx → checkRange s (ctxOf s g) (at_ f.b) (4 * n) 1 = .ok) → drains))))

/-- R351, R357, R358, R360, R363, R368, R380 to R383: the next operation of an engine begins once the steps of those before it are over
and none of them owns a row of its own; it takes its rows' committed values then, and each step reads its A side as it begins and
settles then which planes it skips (none under REPRO); its commit replaces the rows at once by the product of its steps, poisoned where
it read anything poisoned, updates a living entry of its binding, and holds back every operation that shares a row until the cycle
behind it; a drain's commit ends its ownership, and its completion writes every element, rounded. (That a step's reads are made in its
first cycle: log 10. The generation that guards the entry, and the old poison that MLOOP.ovw drops: the model's choice, log 14.) -/
def Obligations.MatrixOperations : Prop :=
  ∀ (s : State) (c e : Nat) (o : MatOp) (d : Drain) (b : Binding) (j : Nat),
    let tid := (grp s o.group).team
    let k := team s tid
    let ops := engQ (core s c) e
    let head := ops.find? fun x => !x.committed
    let next := ops.find? fun x => !x.committed && !x.started
    let retires := fun (u : State) => (engQ (core u c) e).map (·.id) = ((ops.filter fun x => x.id != o.id).map (·.id))
      ∧ (o.id, false) ∉ classOps (grp u o.group) 2
    let shares := fun (x : MatOp) => (grp s x.group).team = tid ∧ x.row < o.row + o.rows ∧ o.row < x.row + x.rows
    let behind := fun (u : State) => ∀ x ∈ engQ (core u c) e, shares x → s.clk.toNat + 1 ≤ x.ready
    let line := fun (e r : Nat) => 512 * e + r
    let mine := fun (z q : Nat) => line o.eng o.row ≤ line z q ∧ line z q < line o.eng o.row + o.rows
    let xb := fun (j m : Nat) => blockAt s tid ((opReg o 0).toNat + j * ((opReg o 4).toNat % 65536) + 4 * o.pa * m) o.pa
      ((opReg o 1).toNat + j * ((opReg o 4).toNat / 65536) + m)
    let bb := fun (j n : Nat) => blockAt s tid ((opReg o 2).toNat + j * ((opReg o 5).toNat % 65536) + 4 * o.pb * n) o.pb
      ((opReg o 3).toNat + j * ((opReg o 5).toNat / 65536) + n)
    let formed := fun (j m : Nat) => formBlock o.dprec (xb j m) (blockAt s tid (regXp o j m) 16 (regXe o j m)) (xBad s tid o j m || prevBad s tid o j m)
    let stands := fun (j m : Nat) => match o.form with
      | .reuseDelta p => blockAt s tid (regDp o j m) p (regDe o j m)
      | .formDelta => (formed j m).1
      | _ => xb j m
    let ab := fun (j m : Nat) => match o.begun[j]? with | some r => r.a.getD m (0, []) | none => stands j m
    let drifts := fun (j : Nat) => match o.begun[j]? with | some r => r.drift = true | none => ∃ m, m < 64 ∧ (formed j m).2.2 = true
    let fresh := o.ovw = true ∧ o.form ≠ .formDelta
    let start := fun (m n : Nat) => if fresh then 0 else cellGet o.acc (accKey o.eng (o.row + m) n)
    let entry := mapGetD (ctx s (ctxOf s (grp s o.group))).ddir b.entry {}
    let elem := fun (j x : Nat) => cellGet o.acc (accKey o.eng (o.row + j) x)
    let bits := fun (j x : Nat) => if d.rnd = 3 then drainBits s o (o.row + j) x else 0
    let st := max o.ready s.clk.toNat
    (head = none → exec (.matrixCommit c e) s = .next s) ∧ (canStart s c e = false → exec (.matrixOpStart c e) s = .next s)
      ∧ (next = none → canStart s c e = false)
      ∧ (next = some o →
        (canStart s c e = true ↔ waitsForming s c o = false ∧ ∀ x ∈ ops, x.committed = false → x.started = true →
            (x.drain ≠ none ∨ x.steps ≤ x.begun.length) ∧ x.due ≤ s.clk.toNat + 16 ∧ ¬ shares x)
          ∧ (canStart s c e = true → ∃ (u : State) (x : MatOp), exec (.matrixOpStart c e) s = .next u
              ∧ engQ (core u c) e = ops.map (fun y => if y.id = o.id then x else y)
              ∧ x = { o with started := true, begun := [readStep s tid o 0], next := st + stepCycles s tid o 0, due := st + opCycles s tid o + 16
                             acc := x.acc, accBad := x.accBad }
              ∧ (∀ r y, o.row ≤ r → r < o.row + o.rows → y < 64 → cellGet x.acc (accKey o.eng r y) = accGet k o.eng r y)
              ∧ (∀ r, r ∈ x.accBad ↔ o.row ≤ r ∧ r < o.row + o.rows ∧ accBad k o.eng r = true)
              ∧ u.teams = s.teams ∧ u.groups = s.groups ∧ u.mem = s.mem))
      ∧ (let r := readStep s tid o j
        (∀ m, m < 64 → r.a[m]? = some (stands j m) ∧ (o.form = .formDelta → r.xrec[m]? = some (formed j m).2.1)
            ∧ ∀ p, o.form = .formFull p → r.xrec[m]? = some (xb j m))
          ∧ (∀ p, p ∈ r.skip ↔ o.repro = false ∧ p < productPlanes o ∧ ∀ m, m < 64 → zeroPlane p (productPlanes o) (stands j m) = true)
          ∧ (r.drift = true ↔ o.form = .formDelta ∧ ∃ m, m < 64 ∧ (formed j m).2.2 = true))
      ∧ ((ops.filter fun x => !x.committed && x.started).getLast? = some o → o.drain = none → o.begun.length < o.steps →
          engQ (core (nextStep s c e) c) e = ops.map fun y => if y.id = o.id then
            { y with begun := y.begun ++ [readStep s tid y y.begun.length], next := o.next + stepCycles s tid y y.begun.length
                     due := o.next + cyclesFrom s tid y y.begun.length + 16 } else y)
      ∧ (head = some o →
        (o.started = false → exec (.matrixCommit c e) s = .next s)
          ∧ (o.started = true → o.drain = none → ∃ u, exec (.matrixCommit c e) s = .next u ∧ retires u ∧ behind u
              ∧ (∀ m n, m < 64 → n < 64 → accGet (team u tid) o.eng (o.row + m) n
                  = (List.range o.steps).foldl (fun v j => stepElem v (ab j m) (bb j n)) (start m n))
              ∧ (∀ z q n, n < 64 → ¬ (line o.eng o.row ≤ line z q ∧ line z q < line o.eng o.row + 64) →
                  accGet (team u tid) z q n = accGet k z q n)
              ∧ (∀ m, m < 64 → (accBad (team u tid) o.eng (o.row + m) = true ↔
                  operandBad s tid o = true ∨ (¬ fresh ∧ o.accBad ≠ [])))
              ∧ (o.bind = some b → entry.used = true → entry.dead = false → entry.gen = b.gen →
                  let now := mapGetD (ctx u (ctxOf s (grp s o.group))).ddir b.entry {}
                  (o.form = .formDelta → now = { entry with cnt := min (entry.cnt + 1) 255, last := s.time, drift := now.drift }
                      ∧ (now.drift = true ↔ entry.drift = true ∨ ∃ j, j < o.steps ∧ drifts j))
                    ∧ ∀ st, o.form = .formFull st → now = { entry with cnt := 0, wseen := b.wver, wid := b.wid, ks := b.steps, xaddr := b.xaddr
                                                                       yaddr := b.yaddr, drift := false, refnext := false, last := s.time }))
          ∧ (o.started = true → o.drain = some d → ∃ u, exec (.matrixCommit c e) s = .next u ∧ behind u
              ∧ (∀ x ∈ engQ (core u c) e, x.id = o.id → x.committed = true) ∧ u.groups = s.groups ∧ u.mem = s.mem
              ∧ ∀ z q n, n < 64 → accGet (team u tid) z q n = if d.zero = true ∧ mine z q then 0 else accGet k z q n))
      ∧ ((ops.find? fun x => x.committed) = none → exec (.accdrnComplete c e) s = .next s)
      ∧ ((ops.find? fun x => x.committed) = some o → o.drain = some d → ∃ u, exec (.accdrnComplete c e) s = .next u ∧ retires u
          ∧ (d.sp = true → d.fmt = 4 ∨ d.fmt = 5 → ∀ j x, j < o.rows → x < 64 →
              let w := if d.fmt = 4 then 2 else 4
              spRead u tid (d.dst.toNat + (64 * j + x) * w) w
                = leBytes ((if d.fmt = 4 then bf16 else fp32).round (fp32.val (elem j x).toNat) d.rnd (bits j x)) w))

/-! ### Experts and work -/

/-- R446 to R449: WPOP returns the oldest record, the closed or the empty status, or sleeps; WPUSH appends its record,
or hands it to the oldest sleeper, whose stream goes on; WROOM reads the room left; a feed is created with its capacity,
and closing an empty one wakes its sleepers. (What each creation checks against scheduler memory: log 25.) (That a closed feed
which holds no record may be created again is the model's choice: log 34.) -/
def Obligations.WorkFeeds : Prop :=
  ∀ (f : Head) (s : State) (n cx cap p : Nat) (y : Nat × Stream × Reg) (ws : List Word) (rest : List (List Word)),
    let g := me s
    let q := partOf s g
    let late := fun (i : Instr) (u : State) (vs : List Word) => ∃ e, e.op = none
      ∧ e.writes = (List.range vs.length).map (fun j => { isV := false, reg := f.d.toNat + j, vals := cellSet [] 0 (vs.getD j 0), stream := s.who.2 })
      ∧ exec i s = .next (advance (updMe { u with nextId := u.nextId + 1 } fun g => { g with pend := g.pend ++ [e] }) 4)
    let at_ := fun (s : State) (p n : Nat) => mapGetD (part s p).feeds n {}
    let ab := 64 * f.a.toNat + f.b.toNat
    let db := 64 * f.d.toNat + f.b.toNat
    let x := at_ s q ab
    let z := at_ s q db
    let usable := fun (x : Feed) => x.created = true ∧ x.ctx = ctxOf s g
    let words := (List.range 16).map fun j => readS g s.who.2 (f.a.toNat + j)
    let open_ := usable z ∧ (readS g s.who.2 f.a.toNat).getLsbD 31 = false ∧ z.closed = false
    let wakes := fun (u : State) => waitOf (grp u y.1) y.2.1 = none
      ∧ (y.1 ≠ s.who.1 → pcOf (grp u y.1) y.2.1 = nextPc (pcOf (grp s y.1) y.2.1) 4)
    let w := at_ s p n
    (ready s (.wpop f) = true →
        (¬ usable x → exec (.wpop f) s = .next (trapC s .feed))
          ∧ (usable x → x.recs = ws :: rest → ∃ u, late (.wpop f) u ws ∧ at_ u q ab = { x with recs := rest }
              ∧ (∀ m, m ≠ ab → at_ u q m = at_ s q m) ∧ u.groups = s.groups ∧ u.mem = s.mem)
          ∧ (usable x → x.recs = [] → x.closed = true → late (.wpop f) s [0xC0000000])
          ∧ (usable x → x.recs = [] → x.closed = false → f.ty = 1 → late (.wpop f) s [0x80000000])
          ∧ (usable x → x.recs = [] → x.closed = false → f.ty ≠ 1 → ∃ u, exec (.wpop f) s = .next (block u (.wpop ab f.d))
              ∧ u.groups = s.groups ∧ (at_ u q ab).sleepers.getLast? = some (s.who.1, s.who.2, f.d) ∧ (at_ u q ab).recs = []))
      ∧ (ready s (.wpush f) = true →
        (¬ open_ → exec (.wpush f) s = .next (trapC s .feed))
          ∧ (open_ → z.cap ≤ z.recs.length → exec (.wpush f) s = .next (block s .retry))
          ∧ (open_ → z.recs.length < z.cap → z.sleepers.find? (asleep s db) = none → ∃ u, exec (.wpush f) s = .next (advance u 4)
              ∧ (at_ u q db).recs = z.recs ++ [words] ∧ (at_ u q db).closed = false ∧ ∀ m, m ≠ db → at_ u q m = at_ s q m)
          ∧ (open_ → z.recs.length < z.cap → z.sleepers.find? (asleep s db) = some y → (grp s y.1).state = .running →
              (grp s y.1).image = none → (grp s y.1).hintRegs = none → 1 ≤ y.2.2.toNat → y.2.2.toNat + 15 ≤ 60 →
              ∃ u, exec (.wpush f) s = .next (advance u 4) ∧ (at_ u q db).recs = z.recs ∧ wakes u
                ∧ ∀ j, j < 16 → readS (grp u y.1) y.2.1 (y.2.2.toNat + j) = words.getD j 0))
      ∧ (ready s (.wroom f) = true →
        (¬ usable x → exec (.wroom f) s = .next (trapC s .feed))
          ∧ (usable x → late (.wroom f) s [if x.closed = true then 0 else BitVec.ofNat 32 (x.cap - x.recs.length)]))
      ∧ (let good := n < 256 ∧ (ctx s cx).live = true ∧ (ctx s cx).part = p ∧ (ctx s cx).dying = false ∧ (∃ k, k < 9 ∧ cap = 16 * 2 ^ k)
            ∧ (w.created = true → w.closed = true ∧ w.recs = []) ∧ schedUsed s p + 64 * cap ≤ schedSize (part s p)
        (¬ good → exec (.feedCreate p n cx cap) s = .next s)
          ∧ (good → ∃ u, exec (.feedCreate p n cx cap) s = .next u ∧ u = { s with parts := u.parts }
              ∧ at_ u p n = { created := true, ctx := cx, cap := cap } ∧ ∀ m, m ≠ n → at_ u p m = at_ s p m))
      ∧ (w.created = false → exec (.feedClose p n) s = .next s)
      ∧ (w.created = true → ∃ u, exec (.feedClose p n) s = .next u ∧ (at_ u p n).closed = true ∧ (at_ u p n).recs = w.recs
          ∧ (w.recs ≠ [] → at_ u p n = { w with closed := true } ∧ u = { s with parts := u.parts })
          ∧ (w.recs = [] → y ∈ w.sleepers → asleep s n y = true →
              ((grp s y.1).state = .running → waitOf (grp u y.1) y.2.1 = none)
                ∧ ((grp s y.1).state ≠ .running → ∃ ws, waitOf (grp u y.1) y.2.1 = some (.woken ws))))

/-- R427, R430 to R438, R454: XBIND counts its expert, answers its address and residency, and starts a migration where
XPOL, the residency and its form say so; a migration waits for a page that is still to be zeroed, and ends resident, or where
it fails as it was; CNTRD reads a counter as it stood before its cycle's increments and, with TY 1, clears it ahead of them.
(Which increments a read of a counter sees is the model's choice: log 57.) -/
def Obligations.Experts : Prop :=
  ∀ (f : Head) (s v : State) (p id : Nat) (m : Migration),
    let g := me s
    let cx := ctxOf s g
    let pt := partOf s g
    let q := part s pt
    let late := fun (i : Instr) (u : State) (vs : List Word) => ∃ e, e.op = none
      ∧ e.writes = (List.range vs.length).map (fun j => { isV := false, reg := f.d.toNat + j, vals := cellSet [] 0 (vs.getD j 0), stream := s.who.2 })
      ∧ exec i s = .next (advance (updMe { u with nextId := u.nextId + 1 } fun g => { g with pend := g.pend ++ [e] }) 4)
    let t := (sget s f.a).toNat
    let e := tidOf s cx t
    let i : Instr := .xbind f
    let named := t < 1024 ∧ e.valid = true
    let bound := named ∧ e.expert = true ∧ (e.res = 0 ∨ e.back ≠ 0)
    let starts := (e.res = 2 ∨ e.res = 3) ∧ f.ty = 0 ∧ q.xpol.getLsbD 0 = true ∧ q.migrations.length < q.xpol.toNat / 2 % 128
    let count := counterNow
    let plus := fun (v : Counter) (n : Nat) => { v with count := (v.count + n) % 2 ^ 48, ovf := v.ovf || decide (2 ^ 48 ≤ v.count + n), incs := v.incs + n }
    let addr := if e.res = 0 then e.base else e.back
    let c := (sget s f.a).toNat % 65536
    let old := count s pt c
    let before := (old.count + (2 ^ 48 - old.incs % 2 ^ 48)) % 2 ^ 48
    let over_ := if f.ty = 1 then old.was else old.ovf
    let ends := fun (i : Instr) (w : State) (res : Nat) => ∃ u, exec i s = .next u ∧ (tidOf u m.ctx m.tid).res = res ∧ u.mem = w.mem
      ∧ (part u p).migrations = (part w p).migrations.filter (fun x => x.id != id) ∧ (m.cls, false) ∉ classOps (grp u m.group) 3
    let found := (part s p).migrations.find? fun x => x.id == id
    let fails := if m.claimed = true then 0 else m.back
    (ready s i = true →
        (¬ named → exec i s = .next (trapC s .tensor)) ∧ (named → ¬ bound → exec i s = .next (trapC s .expert))
          ∧ (bound → starts → 63 ≤ (classOps g 3).length → exec i s = .next (block s .retry))
          ∧ (bound → (starts → (classOps g 3).length < 63) → ∃ u,
              late i u [addr.extractLsb' 0 32, addr.extractLsb' 32 32, BitVec.ofNat 32 (e.xnum * 65536 + (if starts then 8 else 0) + (if e.res = 0 then 0 else 4) + e.res)]
                ∧ count u pt e.xnum = plus (count s pt e.xnum) 1
                ∧ (∀ x, x ≠ e.xnum → count u pt x = count s pt x) ∧ u.mem = s.mem
                ∧ (¬ starts → (tidOf u cx t).res = e.res ∧ (part u pt).migrations = q.migrations
                    ∧ ((count s pt e.xnum).count + 1 < 2 ^ 48 → u.groups = s.groups))
                ∧ (starts → (tidOf u cx t).res = 1 ∧ ∃ k, (part u pt).migrations = q.migrations ++ [k] ∧ k.ctx = cx ∧ k.tid = t ∧ k.back = e.res ∧ k.entry = some e
                    ∧ k.group = s.who.1 ∧ k.claimed = false ∧ classOps (me u) 3 = classOps g 3 ++ [(k.cls, false)])))
      ∧ (ready s (.cntrd f) = true → ∃ u, late (.cntrd f) u [BitVec.ofNat 32 before, BitVec.ofNat 32 (before / 2 ^ 32 + if over_ = true then 2 ^ 31 else 0)]
          ∧ count u pt c = (if f.ty = 1 then { old with count := old.incs % 2 ^ 48, ovf := false, was := false, readers := [] }
              else { old with readers := old.readers ++ [(s.who.1, s.nextId)] }) ∧ (∀ x, x ≠ c → count u pt x = count s pt x) ∧ u = { s with parts := u.parts })
      ∧ (found = none → exec (.migrationComplete p id) s = .next s ∧ exec (.migrationFail p id) s = .next s)
      ∧ (found = some m → ends (.migrationFail p id) s fails
          ∧ (migrationZp s m = true → exec (.migrationComplete p id) s = .next s)
          ∧ (migrationZp s m = false → migrateAll s m.ctx (m.entry.getD (tidOf s m.ctx m.tid)) = none → ends (.migrationComplete p id) s fails)
          ∧ (migrationZp s m = false → migrateAll s m.ctx (m.entry.getD (tidOf s m.ctx m.tid)) = some v → ends (.migrationComplete p id) v 0))

/-- R441 to R445, R450 to R452, R555: CORP checks its session and every lane's expert, and the Corral files and counts
its records in ascending lane order; CORF empties the session's buckets and waits for their emissions; an emission waits
for its slot to be zero, read first, and for the service of a page that the read or the write of the slot needs; a failure cancels
it; and it ends as a work record of the session's feed, or with CTXERR. -/
def Obligations.Corral : Prop :=
  ∀ (f : Head) (s : State) (fa fb : Nat → Word) (bad : Lanes) (p id : Nat) (em : Emission) (va : Addr) (r : Nat),
    let g := me s
    let pt := partOf s g
    let n := g.csess.toNat % 256
    let x := mapGetD (part s pt).sessions n {}
    let die := dieOf (coreOf s g)
    let busy := ∃ c ∈ (part s pt).commands, c.cmd = 0x0B ∧ c.args.head? = some n
    let mine := (x.mode = 1 ∨ x.mode = 2) ∧ x.ctx = ctxOf s g
    let i : Instr := .corp f
    let lanes := acting s bad
    let e := fun (y : Nat) => (fa y).toNat % 65536
    let wild := fun (y : Nat) => lanes.getLsbD y = true ∧ e y ≠ 0xFFFF ∧ x.xcnt ≤ e y
    let sent := (lanesOf lanes).filter fun y => e y != 0xFFFF
    let file := fun (z : Nat) => sent.filter fun y => e y == z
    let held := fun (s : State) (z : Nat) => ((bucketOf s pt die n z).map (·.recs)).getD []
    let record := fun (y : Nat) => ({ token := readV g f.d.toNat y, k := (fa y).toNat / 65536 % 256
                                      gate := BitVec.ofNat 16 (bf16.round (fp32.val (fb y).toNat) 0 0) } : Rec)
    let count := fun (s : State) (x : Nat) => counterNow s pt x
    let below := ∀ z, file z ≠ [] → (count s (x.xbase + z)).count + (file z).length < 2 ^ 48
    let passes := lanes ≠ 0 ∧ ¬ busy ∧ mine ∧ ∀ y, y < 96 → ¬ wild y
    let quiet := storeUsed s die + sent.length ≤ 262144 ∧ ∀ z, file z ≠ [] → (held s z).length + (file z).length < x.batch
    let j : Instr := .corf f
    let flushed := sessionBuckets (part s pt) n (if f.ty = 1 then none else some die)
    let gone := fun (u : State) => ∀ b ∈ (part u pt).buckets, b.session = n → f.ty ≠ 1 ∧ b.die ≠ die
    let emit : Instr := .corralEmitResume p id
    let found := (part s p).emissions.find? fun y => y.id == id
    let sn := mapGetD (part s p).sessions em.session {}
    let unread := slotFault s sn.ctx em 4 0
    let unwritten := slotFault s sn.ctx em (64 + 8 * em.recs.length) 1
    let stopsAt := fun (x : Xlate) => unread = some (va, x) ∨ (unread = none ∧ wordVa s sn.ctx em.addr = some 0 ∧ unwritten = some (va, x))
    let feed := mapGetD (part s p).feeds sn.feed {}
    let usable := feed.created = true ∧ feed.ctx = sn.ctx ∧ feed.closed = false
    let ended := fun (u : State) => ∀ y ∈ (part u p).emissions, y.id ≠ id
    (ready s i = true → sources s (some f.a) (some f.b) = .go fa fb bad →
        (lanes = 0 → exec i s = .next (laneDone s s i bad))
          ∧ (lanes ≠ 0 → busy → exec i s = .next (block s .retry)) ∧ (lanes ≠ 0 → ¬ busy → ¬ mine → exec i s = .next (trapC s .expert))
          ∧ (∀ y, y < 96 → lanes ≠ 0 → ¬ busy → mine → wild y → (∀ z, z < y → ¬ wild z) →
              exec i s = .next (trap s { cause := .expert, lane := some y }))
          ∧ (passes → quiet → ∃ u, exec i s = .next (laneDone s u i bad) ∧ (below → u = { s with parts := u.parts })
              ∧ (∀ z, held u z = held s z ++ (file z).map record)
              ∧ ∀ z, file z ≠ [] → let v := count s (x.xbase + z)
                  count u (x.xbase + z) = { v with count := (v.count + (file z).length) % 2 ^ 48
                                                   ovf := v.ovf || decide (2 ^ 48 ≤ v.count + (file z).length), incs := v.incs + (file z).length }))
      ∧ (ready s j = true →
        (busy → exec j s = .next (block s .retry)) ∧ (¬ busy → ¬ mine → exec j s = .next (trapC s .expert))
          ∧ (¬ busy → mine → ∃ u, gone u ∧ ((∃ w, w ≠ [] ∧ exec j s = .next (block u (.corf flushed.length w f.d)))
              ∨ ∃ w, w.op = none ∧ w.writes = [{ isV := false, reg := f.d.toNat, vals := cellSet [] 0 (BitVec.ofNat 32 flushed.length), stream := s.who.2 }]
                ∧ exec j s = .next (advance (updMe { u with nextId := u.nextId + 1 } fun g => { g with pend := g.pend ++ [w] }) 4))))
      ∧ (found = none → exec emit s = .next s)
      ∧ (found = some em →
        (em.service ≠ none → exec emit s = .next s)
          ∧ (em.service = none → em.step = 2 → unread = none → (∃ w, wordVa s sn.ctx em.addr = some w ∧ w ≠ 0) → exec emit s = .next s)
          ∧ (em.service = none → em.step = 2 → unread = none → wordVa s sn.ctx em.addr = some 0 → unwritten = none → ∃ u, exec emit s = .next u
              ∧ ∀ y ∈ (part u p).emissions, y.id = id → y.step = 4)
          ∧ (em.service = none → em.step = 2 → (stopsAt .zero ∨ stopsAt .miss) → exec emit s = .next s)
          ∧ (em.service = none → em.step = 2 → stopsAt (.fail 1) → va ∉ em.failed → ∃ u, exec emit s = .next u
              ∧ (∀ y ∈ (part u p).emissions, y.id = id → y.service = some va) ∧ (∃ y ∈ (part u p).emissions, y.id = id) ∧ KeepsBytes s u)
          ∧ (em.service = none → em.step = 2 → stopsAt (.fail r) → (r ≠ 1 ∨ va ∈ em.failed) → ∃ u, exec emit s = .next u ∧ ended u
              ∧ (ctx u sn.ctx).ctxerr = (ctx s sn.ctx).ctxerr ||| (1#32 <<< 25))
          ∧ (em.service = none → em.step = 4 → sn.mode = 1 → ¬ usable → ∃ u, exec emit s = .next u ∧ ended u
              ∧ (ctx u sn.ctx).ctxerr = (ctx s sn.ctx).ctxerr ||| (1#32 <<< 20))
          ∧ (em.service = none → em.step = 4 → sn.mode = 1 → usable → feed.cap ≤ feed.recs.length → exec emit s = .next s)
          ∧ (em.service = none → em.step = 4 → sn.mode = 1 → usable → feed.recs.length < feed.cap → feed.sleepers = [] →
              ∃ u, exec emit s = .next u ∧ ended u ∧ (mapGetD (part u p).feeds sn.feed {}).recs = feed.recs ++
                [[BitVec.ofNat 32 (em.recs.length * 65536 + em.e), BitVec.ofNat 32 (sn.xbase + em.e), em.addr.extractLsb' 0 32, em.addr.extractLsb' 32 32,
                  BitVec.ofNat 32 em.session, BitVec.ofNat 32 em.die, em.head, 0, 0, 0, 0, 0, 0, 0, 0, 0]])
          ∧ (em.service = none → em.step = 4 → sn.mode = 2 → launchZp s sn.ctx sn.tmpl = true → exec emit s = .next s)
          ∧ (em.service = none → em.step = 4 → sn.mode = 2 → launchZp s sn.ctx sn.tmpl = false → ∃ u, exec emit s = .next u ∧ ended u))

/-! ### Launches, graphs and contexts -/

/-- R66 to R69, R101, R123, R190, R270, R467, R472, R501, R502: a group starts with its own lanes, all registers zero,
at its entry; the scheduler places the spans of a launch in order; a re-run round places again the spans of the last
round's casualties; ordered sums are applied once, each target's contributions in ascending key, over what the launch stored there; a
launch completes once none of its engine operations is in flight: it opens its bequests, waits for its lease's page, and completes its packet with its status. -/
def Obligations.Launches : Prop :=
  ∀ (s v : State) (p id : Nat) (q index : Nat) (tag : Word) (x : Packet) (va : Addr) (pa : Nat) (bf : Bool) (tid lin gix y r : Nat)
      (cores : List (Nat × Nat)) (rest : List RunEntry),
    let l := launch s id
    let g := newGroup l tid lin gix
    let place : Instr := .placeSpan p
    let apply : Instr := .orderedAddApply id
    let fin : Instr := .launchComplete id
    let run := (part s p).runlist
    let again := l.kernel.rerun = true ∧ roundEnded s id = true ∧ l.cancelled = false ∧ lastCasualties l ≠ [] ∧ l.round < 2
    let ends := launchEnded s id = true ∧ l.applied = false
    let mine := (sortBy contribLe l.contribs).filter fun c => c.pa == pa && c.bf16 == bf
    let size := fun (b : Bool) => if b = true then 2 else 4
    let f := if bf = true then bf16 else fp32
    let alone := ∀ c ∈ l.contribs, (c.pa = pa ∧ c.bf16 = bf) ∨ c.pa + size c.bf16 ≤ pa ∨ pa + size bf ≤ c.pa
    let can := l.done = false ∧ l.applied = true ∧ enginesOut s id = false ∧ ∀ z, l.leaseWait = some z → l.leaseSkip = true ∨ pageReady s l.ctx z = true
    let free := l.refused ≠ 0 ∨ l.heirns = 0 ∨ (ctx s l.ctx).dying = true
    let status := if l.refused ≠ 0 then 2 else if l.cancelled = true then 3 else if l.areaFull = true then 6 else if l.killed ≠ 0 then 1
      else if l.kernel.rerun = true then (if lastCasualties l = [] then 0 else 1) else if l.casualties = [] then 0 else 1
    (l.round = 0 → y < 96 → (g.items.getLsbD y = true ↔ 96 * gix + y < l.wi))
      ∧ (g.team = tid ∧ g.gix = gix ∧ g.quad = gix % 4 ∧ g.rbase = l.kernel.regs ∧ g.rext = 0 ∧ g.dead = 0 ∧ g.seed = l.seed
          ∧ (1 ≤ r → r ≤ 60 → readS g (.split 0) r = 0) ∧ readS g .aslice r = 0 ∧ (∀ k, readV g k y = 0)
          ∧ (g.items = 0 → g.splits = []) ∧ (g.items ≠ 0 → pcOf g (.split 0) = l.kernel.entry ∧ active g (.split 0) = g.items)
          ∧ (l.kernel.slices2 = true → pcOf g .aslice = l.kernel.aentry) ∧ (l.kernel.slices2 = false → g.aslice = none))
      ∧ (run = [] → exec place s = .next s) ∧ (schedule s p = none → exec place s = .next s)
      ∧ (run = .launch id :: rest → walkerBehind s p id = false → nextSpan l = none → l.part = p → ∃ u, exec place s = .next u ∧ u = { s with parts := u.parts }
          ∧ (part u p).runlist = rest.filter fun e => e != .launch id)
      ∧ (run = .launch id :: rest → walkerBehind s p id = false → l.stopped = false → l.spans < spanCount l → placeFor s id l.spans = some cores →
          (∀ c ∈ cores, ∀ k ∈ preloads l.kernel, segReady s id c.2 k = true) →
          recordRoom (useSegs s id (cores.flatMap fun c => (preloads l.kernel).map fun k => (c.2, k))) (startLines l.kernel) (cores.map (·.2)) = .free v →
          launch v id = l → ∃ u, exec place s = .next u ∧ (launch u id).spans = l.spans + 1)
      ∧ (¬ again → exec (.rerunRound id) s = .next s)
      ∧ (again → ∃ u, exec (.rerunRound id) s = .next u ∧ (launch u id).round = l.round + 1 ∧ .launch id ∈ (part u l.part).runlist
          ∧ (∀ k, k ∈ (launch u id).again ↔ ∃ c ∈ l.casualties, c.round = l.round ∧ c.team / (if l.kernel.span = 0 then 1 else l.kernel.span) = k)
          ∧ u.groups = s.groups ∧ u.mem = s.mem)
      ∧ (¬ ends → exec apply s = .next s)
      ∧ (ends → ∃ u, exec apply s = .next u ∧ (launch u id).applied = true ∧ (launch u id).contribs = []
          ∧ ((ctx s l.ctx).dying = true → u.mem = s.mem)
          ∧ ((ctx s l.ctx).dying = false → mine ≠ [] → alone → downIn s pa (size bf) = false → refusedOutside s pa (size bf) = false →
              homeRead u pa (size bf) = leBytes (mine.foldl (fun v c => addF f v c.val.toNat) (leNat (homeRead (releaseCores s) pa (size bf)))) (size bf)))
      ∧ (¬ can → exec fin s = .next s)
      ∧ (can → ¬ free → closeOwn (openBequests s l.ctx id) id = (v, some va) → ∃ u, exec fin s = .next u ∧ (launch u id).leaseWait = some va
          ∧ (launch u id).done = (launch v id).done ∧ u.mem = v.mem)
      ∧ (can → free → ∃ u, exec fin s = .next u ∧ (launch u id).done = true ∧ (∀ e ∈ (ctx u l.ctx).estates, e.launch = id → e.isOpen = true)
          ∧ (l.origin = .packet q tag → (queueOf s l.part q).packets.find? (fun z => z.launch == some id) = some x →
              (queueOf s l.part q).packets.find? (fun z => z.index == index) = some x →
              (queueOf u l.part q).packets = (queueOf s l.part q).packets.filter (fun z => z.index != index)
                ∧ (queueOf u l.part q).seq = (queueOf s l.part q).seq + if status ≠ 0 ∨ (pword x.words 0).getLsbD 9 = true then 1 else 0))

/-- R463, R467 to R470, R478: a doorbell moves a created queue's tail; a queue's next packet starts in order, a BARRIER packet
when no earlier one is open; one that is not refused and whose pages wait to be zeroed is held (R255); LAUNCH takes the next LAUNCH value,
also where it is held or refused, SIGNAL writes its word and completes, WAIT polls until its condition holds; QUEUE-CREATE makes the
queue its image describes, which as a bare event is read at a physical address (the model's choice: log 30); QUEUE-DESTROY stops it and
its launches. (What a LAUNCH is ordered after where a WAIT stands before it: the model's choice, log 54.) -/
def Obligations.Packets : Prop :=
  ∀ (s : State) (p q index : Nat) (tail : Word) (image : Addr) (kill : Bool) (x : Queue) (y : Packet) (bs : List Byte) (ws : List Word)
      (cx id : Nat) (rp : Report),
    let z := queueOf s p q
    let goes := fun (i : Instr) (told : State → Prop) => ∃ u, exec i s = .next u ∧ told u
    let left := z.packets.filter fun a => a.index != index
    let next := z.head.toNat = index ∧ nextWords s p q = some ws
    let type := (pword ws 0).toNat % 256
    let ready := z.created = true ∧ z.head ≠ z.tail ∧ z.stopped = false ∧ slotZp s p q = false
    let held := (pword ws 0).getLsbD 8 = true ∧ z.packets ≠ []
    let fits := next ∧ ready ∧ ¬ held ∧ z.script = [] ∧ packetBad ws = false ∧ ∀ a ∈ z.packets, a.index ≠ index
    let plain := fits ∧ wordsZp s p q ws = false
    let at_ := fun (i : Instr) (k : Nat) =>
      ((∀ ws, ¬ (z.head.toNat = index ∧ nextWords s p q = some ws ∧ (pword ws 0).toNat % 256 = k)) → exec i s = .next s)
        ∧ (next → type = k → (z.created = false ∨ z.head = z.tail ∨ (ready ∧ held) ∨ (z.stopped = false ∧ slotZp s p q = true)) → exec i s = .next s)
        ∧ (next → type = k → z.created = true → z.head ≠ z.tail → z.stopped = true →
            goes i fun u => (queueOf u p q).head = z.head + 1 ∧ (queueOf u p q).packets = left ∧ (queueOf u p q).seq = z.seq + 1)
        ∧ (next → type = k → ready → ¬ held → z.script = [] → packetBad ws = true →
            goes i fun u => (queueOf u p q).head = z.head + 1 ∧ (queueOf u p q).packets = left ∧ (queueOf u p q).seq = z.seq + 1)
    let dest := paddr ws 2
    let poll : Instr := .waitPoll p q index
    let seen := readFor s p z.ctx (paddr y.words 2) 4
    let zp := z.ctx.elim false fun cx => zpIn s cx (paddr y.words 2) 4 0
    let v := BitVec.ofNat 32 (leNat bs)
    let op := (pword y.words 5).toNat
    let holds := (op = 0 ∧ v = pword y.words 4) ∨ (op = 1 ∧ v ≠ pword y.words 4) ∨ (2 ≤ op ∧ (pword y.words 4).toNat ≤ v.toNat)
    let ends := fun (st : Nat) => goes poll fun u => (queueOf u p q).packets = left
      ∧ (queueOf u p q).seq = z.seq + if st ≠ 0 ∨ (pword y.words 0).getLsbD 9 = true then 1 else 0
    let make : Instr := .queueCreate p q image
    let drop : Instr := .queueDestroy p q kill
    let barred := q = 0 ∨ z.created = false ∨ z.stopped = true
    let rec_ := reportBytes s index rp
    let field := fun (off n : Nat) => leNat ((rec_.drop off).take n)
    (z.created = true → z.stopped = false → goes (.doorbell p q tail) fun u => queueOf u p q = { z with tail := tail, rung := ring z tail (z.ctx.elim [] (doneLaunches s)) }
        ∧ u = { s with parts := u.parts } ∧ ∀ j, j ≠ q → queueOf u p j = queueOf s p j)
      ∧ ((z.created = false ∨ z.stopped = true) → exec (.doorbell p q tail) s = .next s)
      ∧ at_ (.launchPacket p q index) 1 ∧ at_ (.signalPacket p q index) 2 ∧ at_ (.waitPacket p q index) 3
      ∧ (plain → type = 1 → z.ctx = some cx → id = p * 2 ^ 60 + (part s p).launches → goes (.launchPacket p q index) fun u =>
          (part u p).launches = (part s p).launches + 1 ∧ (launch u id).part = p ∧ (launch u id).ctx = cx
            ∧ (launch u id).origin = .packet q (pword ws 1) ∧ (launch u id).after = withAfter s (orderPacket ws z).ordered
            ∧ (queueOf u p q).head = z.head + 1
            ∧ ∃ a ∈ (queueOf u p q).packets, a.index = index ∧ a.launch = some id)
      ∧ (plain → type = 1 → z.ctx = none → goes (.launchPacket p q index) fun u => (part u p).launches = (part s p).launches + 1
          ∧ (queueOf u p q).head = z.head + 1 ∧ (queueOf u p q).packets = left ∧ (queueOf u p q).seq = z.seq + 1)
      ∧ (fits → wordsZp s p q ws = true →
          (type = 1 → goes (.launchPacket p q index) fun u => (part u p).launches = (part s p).launches + 1 ∧ u.mem = s.mem
              ∧ (queueOf u p q).head = z.head + 1 ∧ (queueOf u p q).packets
                = z.packets ++ [{ index := index, words := ws, held := true, number := some (p * 2 ^ 60 + (part s p).launches) }])
            ∧ (type = 2 → goes (.signalPacket p q index) fun u => u.mem = s.mem ∧ (queueOf u p q).head = z.head + 1
              ∧ (queueOf u p q).packets = z.packets ++ [{ index := index, words := ws, held := true }]))
      ∧ (plain → type = 2 → z.ctx = none → dest.toNat % 8 = 0 → (pword ws 0).getLsbD 9 = false → regionOf s dest.toNat = .hbm → owns s p dest.toNat 8 = true →
          downIn s dest.toNat 8 = false → refusedOutside s dest.toNat 8 = false →
          goes (.signalPacket p q index) fun u => homeRead u dest.toNat 8 = leBytes (paddr ws 4).toNat 8
            ∧ (queueOf u p q).head = z.head + 1 ∧ (queueOf u p q).packets = left)
      ∧ (plain → type = 2 → dest.toNat % 8 ≠ 0 → goes (.signalPacket p q index) fun u => (queueOf u p q).packets = left ∧ (queueOf u p q).seq = z.seq + 1)
      ∧ (plain → type = 3 → dest.toNat % 4 = 0 → (pword ws 5).toNat ≤ 2 → goes (.waitPacket p q index) fun u =>
          (queueOf u p q).packets.getLast? = some { index := index, words := ws } ∧ (queueOf u p q).seq = z.seq ∧ (queueOf u p q).head = z.head + 1)
      ∧ ((waitPackets s p q).find? (fun a => a.index == index) = none → exec poll s = .next s)
      ∧ ((waitPackets s p q).find? (fun a => a.index == index) = some y → z.packets.find? (fun a => a.index == index) = some y →
          (seen = none → zp = false → ends 1) ∧ (seen = none → zp = true → exec poll s = .next s) ∧ (seen = some bs → holds → ends 0) ∧ (seen = some bs → ¬ holds → exec poll s = .next s))
      ∧ ((q = 0 ∨ 512 ≤ q ∨ z.created = true ∨ image.toNat % 64 ≠ 0 ∨ readFor s p none image 64 = none) → exec make s = .next s)
      ∧ (q ≠ 0 → q < 512 → z.created = false → image.toNat % 64 = 0 → readFor s p none image 64 = some bs →
          (queueImage s p bs = none → exec make s = .next s)
            ∧ (queueImage s p bs = some x → goes make fun u => queueOf u p q = x ∧ u = { s with parts := u.parts }
                ∧ x.created = true ∧ x.stopped = false ∧ x.head = 0 ∧ x.tail = 0 ∧ x.seq = 0 ∧ x.packets = [] ∧ 1 ≤ x.log ∧ x.log ≤ 16 ∧ 1 ≤ x.clog
                ∧ x.clog ≤ 16 ∧ x.floor < 8 ∧ x.pring.toNat % 64 = 0 ∧ x.cmpr.toNat % 64 = 0 ∧ x.script.length ≤ 256 ∧ (x.ctx = none → x.runtime = true)))
      ∧ (barred → exec drop s = .next s)
      ∧ (¬ barred → goes drop fun u => (queueOf u p q).stopped = true ∧ (∃ c ∈ (part u p).commands, c.cmd = 0x0D ∧ c.args = [q] ∧ c.queue = 512)
          ∧ (y ∈ z.packets → y.number = some id → ∀ a ∈ (queueOf u p q).packets, a.index ≠ y.index)
          ∧ ((∀ a ∈ z.packets, a.number = none) → y ∈ z.packets → y.launch = some id → (launch s id).done = false → (kill = true ∨ placedAll (launch s id) = false) →
              (launch u id).stopped = true ∧ (launch u id).cancelled = true))
      ∧ (rec_.length = 64 ∧ field 0 4 = index % 2 ^ 32 ∧ field 4 1 = rp.status % 256 ∧ field 5 1 = rp.cause % 256 ∧ field 36 4 = rp.tag % 2 ^ 32
          ∧ field 40 8 = rp.launch.getD 0 % 2 ^ 64 ∧ field 48 8 = s.time.toNat)

/-- R480 to R490, R492: a trigger is queued, starts a walk of an idle graph, or is refused; ready nodes start in the
order of PRIO and node index; a node that completes decrements its successors; GSIG waits until the walker has lowered
its node's count, and traps where that is 0; a graph is uploaded to a free slot, and freed once no walk is in progress.
An uncorrectable error of a scheduler core loses nothing (R479). (That a GRAPH_UPLOAD as a bare event is read at a physical address,
and that a GRAPH-FREE during a walk drops the requests that wait, are the model's choices: log 30.) -/
def Obligations.Graphs : Prop :=
  ∀ (f : Head) (s : State) (p k n m c gid stream kind : Nat) (va : Addr) (gr : Graph) (d : Node),
    let g := me s
    let pt := partOf s g
    let i : Instr := .gsig f
    let own := match (launchOf s g).origin with | .node k _ => some k | _ => none
    let target := (sget s f.a).toNat
    let h := graphOf s p k
    let node := fun (u : State) (n : Nat) => nodeOf (graphOf u p k) n
    let goes := fun (i : Instr) (told : State → Prop) => ∃ u, exec i s = .next u ∧ told u
    let used := (mapGet (part s p).graphs k).isSome = true
    let quiet := h.requests = [] ∧ h.freeing = false
    let done := fun (u : State) => (node u n).st = 3
    let trig : Instr := .triggerWrite p k va
    let fin := fun (st : Nat) => (Instr.graphNodeComplete p k n st)
    let isReady := fun (k n : Nat) => let h := graphOf s p k
      h.walking = true ∧ h.faulted = false ∧ n < h.nodes.length ∧ (nodeOf h n).st = 1 ∧ nodeZp s h (nodeOf h n) = false
    let st : Stream := if stream < 4 then .split stream else .aslice
    let w := grp s gid
    let wp := partOf s w
    let wk := graphOf s wp k
    let sig : Instr := .gsigApplied gid stream
    (ready s i = true →
        (own = none → exec i s = .next (trapC s .depunf))
          ∧ (own = some k → (graphOf s pt k).nodes.length ≤ target → goes i fun u =>
              u = trapC (updGraph s pt k fun h => { h with faulted := true }) .depunf)
          ∧ (own = some k → target < (graphOf s pt k).nodes.length → exec i s = .next (block (writeBackAll s (coreOf s g)) (.gsig target))))
      ∧ ((∀ j, waitOf w st ≠ some (.gsig j)) → exec sig s = .next s)
      ∧ (waitOf w st = some (.gsig n) → (launchOf s w).origin = .node k m →
          ((nodeOf wk n).count = 0 → goes sig fun u => (graphOf u wp k).faulted = true
              ∧ (w.state = .running → u = takeTrap (updGrp (updGraph s wp k fun h => { h with faulted := true }) gid fun g => setWait g st none) gid st { cause := .depunf }))
            ∧ (2 ≤ (nodeOf wk n).count → n < wk.nodes.length → (nodeOf wk n).st = 0 → (nodeOf wk n).skips = 0 → wk.faulted = false → goes sig fun u =>
              (w.state = .running → pcOf (grp u gid) st = nextPc (pcOf w st) 4 ∧ waitOf (grp u gid) st = none)
                ∧ (w.state ≠ .running → pcOf (grp u gid) st = pcOf w st ∧ waitOf (grp u gid) st = some (.woken []))
                ∧ (nodeOf (graphOf u wp k) n).count = (nodeOf wk n).count - 1))
      ∧ (¬ used → exec trig s = .next s)
      ∧ (used → 16 ≤ h.requests.length → goes trig fun u => graphOf u p k = { h with seq := h.seq + 1 })
      ∧ (used → h.requests.length < 16 → (h.walking = true ∨ h.freeing = true) → walkOver h = false → goes trig fun u =>
          graphOf u p k = { h with requests := h.requests ++ [va], asked := h.asked ++ [doneLaunches s h.ctx] } ∧ u = { s with parts := u.parts })
      ∧ (used → quiet → h.walking = false → va = 0 → goes trig fun u => (graphOf u p k).walks = (h.walks + 1) % 2 ^ 32 ∧ (graphOf u p k).requests = [])
      ∧ (readyHead s p = none → exec (.graphNodeStart p) s = .next s)
      ∧ (readyHead s p = some (k, n) → ((part s p).graphs.map (·.1)).Nodup →
          isReady k n ∧ (∀ a b, isReady a b → (mapGet (part s p).graphs a).isSome →
            (nodeOf (graphOf s p k) n).prio < (nodeOf (graphOf s p a) b).prio
              ∨ ((nodeOf (graphOf s p k) n).prio = (nodeOf (graphOf s p a) b).prio ∧ n ≤ b))
          ∧ ((nodeOf h n).type = 0 → goes (.graphNodeStart p) fun u => (node u n).st = 2 ∧ (part u p).launches = (part s p).launches + 1
              ∧ (launch u (p * 2 ^ 60 + (part s p).launches)).origin = .node k n)
          ∧ ((nodeOf h n).type = 1 → goes (.graphNodeStart p) fun u => (node u n).st = 2 ∧ u = { s with parts := u.parts })
          ∧ ((nodeOf h n).type = 2 → quiet → goes (.graphNodeStart p) done) ∧ ((nodeOf h n).type = 4 → quiet → goes (.graphNodeStart p) done))
      ∧ ((nodeOf h n).st ≠ 2 → exec (fin c) s = .next s)
      ∧ ((nodeOf h n).st = 2 → n < h.nodes.length → quiet →
          ((nodeOf h n).type = 1 → c ≠ 0 → goes (fin c) fun u => done u ∧ (graphOf u p k).faulted = true)
            ∧ ((nodeOf h n).type ≠ 1 → (nodeOf h n).ended = false → exec (fin c) s = .next s)
            ∧ ((nodeOf h n).type ≠ 1 → (nodeOf h n).ended = true → goes (fin c) done)
            ∧ ((nodeOf h n).type ≠ 1 → (nodeOf h n).ended = true → h.faulted = false → succEdges h n = [(m, false, true)] → m ≠ n → m < h.nodes.length →
                nodeOf h m = d → d.st = 0 → d.skips = 0 →
                (2 ≤ d.count → goes (fin c) fun u => node u m = { d with count := d.count - 1 })
                  ∧ (d.count = 1 → d.type ≠ 3 → goes (fin c) fun u => node u m = { d with count := 0, st := 1, entered := s.clk.toNat })))
      ∧ ((256 ≤ k ∨ used ∨ graphImage s p none va = none) → exec (.graphUpload p k va) s = .next s)
      ∧ (k < 256 → ¬ used → graphImage s p none va = some gr → goes (.graphUpload p k va) fun u => graphOf u p k = gr ∧ u = { s with parts := u.parts }
          ∧ (∀ a, a ≠ k → graphOf u p a = graphOf s p a) ∧ (∀ a, a < gr.nodes.length → (nodeOf gr a).init = indegree gr a))
      ∧ (¬ used → exec (.graphFree p k) s = .next s)
      ∧ (used → h.walking = true → goes (.graphFree p k) fun u => graphOf u p k = { h with freeing := true, requests := [], asked := [] })
      ∧ (used → h.walking = false → goes (.graphFree p k) fun u => mapGet (part u p).graphs k = none)
      ∧ exec (.schedCoreError p kind) s = .next s

/-- R44, R408, R409, R411, R474: the end of its quantum requests a team's save; at the end of the hint time its groups
are saved in full; it leaves its core once every group is saved and enters the run list again; an illegal instruction
kills its group and counts it. R473: where the first entry of the run list has no room, the placed teams of lower priority that have
to leave for it are asked to. (That they are found by trying the placement without them, and all are asked at once: log 58.) -/
def Obligations.Teams : Prop :=
  ∀ (s v : State) (t gid p : Nat) (e : RunEntry) (rest : List RunEntry) (vs : List Nat),
    let k := team s t
    let g := grp s gid
    let asks := k.placed = true ∧ k.ended = false ∧ k.preempt = false
    let leaves := k.placed = true ∧ k.preempt = true ∧ k.ended = false ∧ ∀ x ∈ k.groups, isSaved s x = true
    let due := fun (s : State) (x : Nat) => (grp s x).preempt = true ∧ (grp s x).resident = true ∧ (grp s x).state = .running
    let l := launchOf s (me s)
    (¬ asks → exec (.quantumExpire t) s = .next s)
      ∧ (asks → ∃ u, exec (.quantumExpire t) s = .next u ∧ team u t = { k with preempt := true, asked := s.time } ∧ u.mem = s.mem
          ∧ (gid ∈ k.groups → grp u gid = if g.resident = true then { g with preempt := true } else g)
          ∧ (gid ∉ k.groups → grp u gid = g))
      ∧ ((∀ x ∈ k.groups, ¬ due s x) → exec (.hintTimeout t) s = .next s)
      ∧ (∃ u, exec (.hintTimeout t) s = .next u ∧ ∀ x ∈ k.groups, ¬ due u x ∧ (due s x → (grp u x).state = .parked ∧ (grp u x).preempt = false))
      ∧ (¬ leaves → exec (.teamSaveDone t) s = .next s)
      ∧ (leaves → writeOutPhases s k.core k.groups = (v, some gid) → exec (.teamSaveDone t) s = .next (waitForArea v gid))
      ∧ (leaves → writeOutPhases s k.core k.groups = (v, none) → ∃ u, exec (.teamSaveDone t) s = .next u
          ∧ (team u t).placed = false ∧ (team u t).preempt = false ∧ (∀ x ∈ k.groups, (grp u x).resident = false)
          ∧ .team t ∈ (part u (launch s k.launch).part).runlist)
      ∧ ((part s p).runlist = e :: rest → entryBehind s p e = false → tryEntry s e = .noRoom → victimsFor s p e = some vs → vs ≠ [] →
          (keysOf s.teams).Nodup → (∃ u, exec (.placeSpan p) s = .next u ∧ u.mem = s.mem ∧ (∀ x ∈ vs, (team u x).preempt = true)
              ∧ ∀ x, x ∉ vs → team u x = team s x)
            ∧ ∀ x ∈ vs, (team s x).placed = true ∧ (team s x).ended = false ∧ (team s x).preempt = false
              ∧ entryLevel s e < (launch s (team s x).launch).level)
      ∧ ((me s).state = .gone → exec .illegalInstruction s = .next s)
      ∧ ((me s).state ≠ .gone → ∃ u, exec .illegalInstruction s = .next u ∧ (me u).state = .gone
          ∧ (launch u (teamOf s (me s)).launch).killed = l.killed + 1
          ∧ (l.killed = 0 → (launch u (teamOf s (me s)).launch).fkCause = 1 ∧ (launch u (teamOf s (me s)).launch).fkGix = (me s).gix
              ∧ (launch u (teamOf s (me s)).launch).fkPc = pcOf (me s) s.who.2)
          ∧ (ctx u (ctxOf s (me s))).ctxerr = (ctx s (ctxOf s (me s))).ctxerr ||| 2)

/-- R402, R403, R405, R417, R457 to R459: CTX-CREATE makes the context its descriptor gives, under the partition's next
number; CTX-CLRERR, DEBUG and CTX-SET change what they name where the context may be named, and an area only grows; a
consumer's write serves a waiting record. (Which descriptors are refused and where CTXID goes: log 26.) -/
def Obligations.Contexts : Prop :=
  ∀ (s : State) (p q cx size : Nat) (desc a : Addr) (bits : Word) (bs rec_ : List Byte) (gid : Nat) (quiet : Bool),
    let goes := fun (i : Instr) (told : State → Prop) => ∃ u, exec i s = .next u ∧ told u
    let c := ctx s cx
    let usable := c.live = true ∧ c.part = p ∧ c.dying = false
    let field := fun (off n : Nat) => leNat ((bs.drop off).take n)
    let good := fun (v : Nat) => v % 16 / 2 = 0 ∧ v < 2048 ∧ v / 512 < 3 ∧ v / 16 % 32 / 4 ∈ (part s p).slots
    let make : Instr := .ctxCreate p q desc
    let src := if desc.toNat % 64 = 0 then readFor s p (queueOf s p q).ctx desc 256 else none
    let fine := 1 ≤ field 40 1 ∧ field 40 1 ≤ 16 ∧ field 41 3 = 0 ∧ field 52 4 = 0 ∧ (∀ k, 116 ≤ k → k < 256 → bs.getD k 0 = 0) ∧ field 32 8 % 64 = 0
      ∧ good (field 104 4)
    let id := p * 2 ^ 28 + (part s p).nextCtx
    let drop : Instr := .ctxDestroy p cx
    let sets := fun (i : Instr) (may : Prop) (d : Ctx) => (¬ (usable ∧ may) → exec i s = .next s)
      ∧ (usable → may → goes i fun u => ctx u cx = d ∧ u = { s with ctxs := u.ctxs } ∧ ∀ k, k ≠ cx → ctx u k = ctx s k)
    let consumes : Instr := .trapConsumerWrite p cx bits
    let room := (c.trapn - bits).toNat < 2 ^ c.trapl
    (src = none → exec make s = .next s) ∧ (src = some bs → bs.length = 256 → ¬ fine → exec make s = .next s)
      ∧ (src = some bs → bs.length = 256 → fine → goes make fun u => let n := ctx u id
          n.live = true ∧ n.dying = false ∧ n.part = p ∧ n.ptroot.toNat = field 0 8 ∧ n.tidt.toNat = field 8 8 ∧ n.ddira.toNat = field 16 8
            ∧ n.ringt.toNat = field 24 8 ∧ n.trapb.toNat = field 32 8 ∧ n.trapl = field 40 1 ∧ n.trapn = 0 ∧ n.trapc.toNat = field 48 4
            ∧ n.savea.toNat = field 56 8 ∧ n.saves = field 64 8 ∧ n.esta.toNat = field 72 8 ∧ n.ests = field 80 8 ∧ n.phsa.toNat = field 88 8
            ∧ n.phss = field 96 8 ∧ n.ctlw.toNat = field 104 4 ∧ n.dbgw.toNat = field 108 4 % 8 ∧ n.ctxerr = 0
            ∧ (part u p).nextCtx = (part s p).nextCtx + 1)
      ∧ (¬ usable → exec drop s = .next s)
      ∧ (usable → goes drop fun u => (ctx u cx).dying = true ∧ (∃ k ∈ (part u p).commands, k.cmd = 1 ∧ k.args = [cx])
          ∧ ∀ e ∈ s.launches, e.2.ctx = cx → e.2.done = false → (launch s e.1).ctx = cx → (launch u e.1).stopped = true ∧ (launch u e.1).cancelled = true)
      ∧ sets (.ctxClrerr p cx bits) True { c with ctxerr := c.ctxerr &&& ~~~ bits }
      ∧ sets (.debug p cx bits) True { c with dbgw := bits &&& 7 }
      ∧ sets (.ctxSetCtlw p cx bits) (good bits.toNat) { c with ctlw := bits }
      ∧ ((∀ x, (grp s x).recordDue = false) → sets (.ctxSetPhaseArea p cx a size) (c.phss ≤ size) { c with phsa := a, phss := size })
      ∧ (¬ (usable ∧ c.phss ≤ size) → exec (.ctxSetPhaseArea p cx a size) s = .next s)
      ∧ (usable → c.phss ≤ size → goes (.ctxSetPhaseArea p cx a size) fun u => (ctx u cx).phsa = a ∧ (ctx u cx).phss = size)
      ∧ sets (.ctxSetEstateArea p cx a size) (c.ests ≤ size) { c with esta := a, ests := size }
      ∧ (¬ (usable ∧ c.saves ≤ size) → exec (.ctxSetSaveArea p cx a size) s = .next s)
      ∧ (usable → c.saves ≤ size → goes (.ctxSetSaveArea p cx a size) fun u => (ctx u cx).savea = a ∧ (ctx u cx).saves = size)
      ∧ (¬ (c.live = true ∧ c.part = p) → exec consumes s = .next s)
      ∧ (c.live = true → c.part = p →
          (c.recWait = [] → goes consumes fun u => ctx u cx = { c with trapc := bits } ∧ u = { s with ctxs := u.ctxs })
            ∧ (c.recWait = [(gid, rec_, quiet)] → room → goes consumes fun u => (ctx u cx).recWait = [] ∧ (ctx u cx).trapn = c.trapn + 1 ∧ (ctx u cx).trapc = bits)
            ∧ (¬ room → goes consumes fun u => (ctx u cx).recWait = c.recWait ∧ (ctx u cx).trapn = c.trapn ∧ u.mem = s.mem))

/-- R192, R254, R255, R286, R303, R428, R429, R433, R439, R440, R471: the commands that invalidate translations, zero a
page, close a lease, move an expert, set the policy or a session, and the end of a page's service. (Where they are
refused beyond the rules: log 14. That POLICY kills the launches that wait for room in an area it does not enlarge: log 31; that every
leaf of a zeroed page loses ZP: log 33; and which engines a page's service reaches: log 52. These are the model's choices.) -/
def Obligations.ContextCommands : Prop :=
  ∀ (s v : State) (p cx q index id n t res pa code shift size quantum : Nat) (va len area : Addr) (xpol ns : Word) (image : List Byte)
      (dis ok : Bool) (c : Command) (r : Report) (o : CopyOp),
    let goes := fun (i : Instr) (told : State → Prop) => ∃ u, exec i s = .next u ∧ told u
    let usable := (ctx s cx).live = true ∧ (ctx s cx).part = p ∧ (ctx s cx).dying = false
    let waits := fun (u : State) (q cmd : Nat) (args : List Nat) => ∃ k ∈ (part u p).commands, k.queue = q ∧ k.cmd = cmd ∧ k.args = args
    let inval : Instr := .tlbInval p q index cx va len
    let found := (part s p).commands.find? fun k => k.id == id
    let done : Instr := .tlbInvalDone p id
    let zero : Instr := .zero p pa code
    let page := 2 ^ (if code = 0 then 16 else if code = 1 then 21 else 30)
    let mine := (regionOf s pa = .hbm ∨ regionOf s pa = .tier) ∧ owns s p pa page = true
    let zeroed := (part s p).commands.find? fun k => k.cmd == 5 && k.args == [pa, shift]
    let zd : Instr := .pageZeroDone p pa shift
    let lease : Instr := .leaseClose p cx ns
    let by_ := 2 * s.nextId + 1
    let end_ := goOnLease (beginLease { s with nextId := s.nextId + 1 } cx ns by_) cx by_ false 0 0
    let e := tidOf s cx t
    let mv : Instr := .residency p cx t res
    let named := usable ∧ t < 1024 ∧ e.valid = true ∧ e.expert = true ∧ res ≤ 3 ∧ res ≠ 1
    let busy := ∃ m ∈ (part s p).migrations, m.ctx = cx ∧ m.tid = t
    let pol : Instr := .policy p xpol area size quantum
    let allowed := xpol.toNat % 256 / 2 ≤ 64 ∧ 0x4000000 ≤ size
    let ses : Instr := .session p n image dis
    let fits := n < 256 ∧ sessionFits s p image = true
    let old := mapGetD (part s p).sessions n {}
    let x := sessionImage image
    let srv : Instr := .pageServiceDone cx va ok
    (¬ usable → exec inval s = .next s) ∧ (usable → goes inval fun u => waits u q 4 [cx, va.toNat, len.toNat] ∧ u = { s with parts := u.parts, nextId := s.nextId + 1 })
      ∧ ((found = none ∨ (found = some c ∧ c.cmd ≠ 4)) → exec done s = .next s)
      ∧ (found = some c → c.cmd = 4 → goes done fun u => (∀ k, ∀ z ∈ (core u k).tlb, inRangeTlb (c.args.getD 0 0) (c.args.getD 1 0) (c.args.getD 2 0) z = false)
          ∧ (∀ y ∈ u.clusterTlbs, ∀ z ∈ y.2, inRangeTlb (c.args.getD 0 0) (c.args.getD 1 0) (c.args.getD 2 0) z = false)
          ∧ ∀ k ∈ (part u p).commands, k.id ≠ id)
      ∧ (¬ (code ≤ 2 ∧ pa % page = 0 ∧ mine) → exec zero s = .next s)
      ∧ (code ≤ 2 → pa % page = 0 → mine → goes zero fun u => waits u 512 5 [pa, if code = 0 then 16 else if code = 1 then 21 else 30]
          ∧ (∀ k, ∀ z ∈ (core u k).l1, ¬ (pa ≤ 64 * z.1 ∧ 64 * z.1 < pa + page)) ∧ u.mem = s.mem)
      ∧ (zeroed = none → exec zd s = .next s)
      ∧ (zeroed = some c → (queueOf s p c.queue).packets.find? (fun y => y.index == c.index) = none → goes zd fun u =>
          (∀ b, pa ≤ b → b < pa + 2 ^ shift → cellGet u.mem b = 0) ∧ ∀ k ∈ (part u p).commands, k.id ≠ c.id)
      ∧ (¬ usable → exec lease s = .next s)
      ∧ (usable → end_ = (v, .done r) → exec lease s = .next v
          ∧ ∀ e ∈ (ctx v cx).estates, e.closing ≠ some by_ ∧ (e.isOpen = true → e.ns = ns → e.moving = true ∨ e.closing ≠ none))
      ∧ (∀ cmd args ls, usable → end_ = (v, .waits cmd args ls) → goes lease fun u => waits u 512 cmd args ∧ u.mem = v.mem)
      ∧ (¬ named → exec mv s = .next s)
      ∧ (named → res = 0 → ¬ busy → goes mv fun u => (tidOf u cx t) = { e with res := 0 } ∧ u = { s with ctxs := u.ctxs })
      ∧ (named → res = 0 → busy → goes mv fun u => waits u 512 9 [cx, t, 0] ∧ ∀ m ∈ (part u p).migrations, m.ctx = cx → m.tid = t → m.claimed = true)
      ∧ (named → res ≠ 0 → awayRes s cx e = none → exec mv s = .next s)
      ∧ (∀ z, named → res ≠ 0 → awayRes s cx e = some z → (z = 2 ∨ z = 3)
          ∧ (busy → goes mv fun u => waits u 512 9 [cx, t, 1] ∧ tidOf u cx t = e)
          ∧ (¬ busy → goes mv fun u => waits u 512 9 [cx, t, 2] ∧ tidOf u cx t = { e with res := z }))
      ∧ (¬ allowed → exec pol s = .next s)
      ∧ (allowed → goes pol fun u => (part u p).xpol = xpol &&& 0xFF ∧ (part u p).addArea = area ∧ (part u p).addSize = size ∧ (part u p).quantum = quantum)
      ∧ (¬ fits → exec ses s = .next s)
      ∧ (fits → sessionBusy s p n = true → goes ses fun u => waits u 512 0x0B (n :: image.map (·.toNat))
          ∧ (dis = true → (∀ y ∈ (part u p).emissions, y.session ≠ n) ∧ ∀ b ∈ (part u p).buckets, b.session ≠ n))
      ∧ (fits → sessionBusy s p n = false → (∀ y ∈ (part s p).emissions, y.session ≠ n) → dis = true → goes ses fun u =>
          mapGetD (part u p).sessions n {} = { x with head := if x.area = old.area ∧ x.nslot = old.nslot then old.head else 0 }
            ∧ (∀ b ∈ (part u p).buckets, b.session ≠ n) ∧ u = { s with parts := u.parts })
      ∧ (fits → goes ses fun u => dis = false → ∀ b ∈ (part u p).buckets, b.session ≠ n)
      ∧ (goes srv fun u => u.mem = s.mem ∧ u.groups = s.groups ∧ (∀ k, ((core u k).copies.map (·.id)) = ((core s k).copies.map (·.id)))
          ∧ (∀ k w, o ∈ (core s k).copies → o.ctx = cx → o.service = some w → w.toNat / 65536 = va.toNat / 65536 →
              { o with service := none, failed := if ok = true then o.failed else o.failed ++ [w] } ∈ (core u k).copies)
          ∧ ∀ k, o ∈ (core s k).copies → (o.ctx ≠ cx ∨ o.service = none) → o ∈ (core u k).copies)

/-! ### Reliability and the outside -/

/-- R73, R134, R135, R498, R499: the lanes that die are the living ones among those named; they are dead from then on,
read as zero, act no more, and each is a casualty with its cause, round and TIME. R133, R186, R208, R493 to R497, R360:
a timing error freezes its quad two cycles and, beyond 16 within a millisecond, marks the core; a split that fails a
check restarts at its restart point, or its lanes die; more than four bytes of a register's code word in error kill, after a pass of
96 cycles, the one lane whose erasure yields a code word, or every lane of the beat; the other units poison, lose or repeat what
the error met, a Hayloft one line of a key. (The model's choice, log 48: an error found while a pass runs is not acted on, and an exited
lane that is erased is no casualty; log 21: of several lines of a key the Hayloft error meets one.) -/
def Obligations.LaneDeathsAndErrors : Prop :=
  (∀ (s : State) (gid cause k i : Nat) (ls : Lanes) (st : Stream),
      let g := grp s gid
      let d := ls &&& livingLanes g
      let u := laneDeath s gid ls cause
      let l := launchOf s g
      (d = 0 → u = s)
        ∧ (d ≠ 0 → (grp u gid).dead = g.dead ||| d ∧ (active (grp u gid) st &&& d = 0)
            ∧ (i < 96 → d.getLsbD i = true → readV (grp u gid) k i = 0)
            ∧ (i < 96 → d.getLsbD i = false → readV (grp u gid) k i = readV g k i)
            ∧ (launch u (teamOf s g).launch).casualties = l.casualties ++ (lanesOf d).map fun i =>
                { team := (teamOf s g).lin, gix := g.gix, lane := i, cause := cause, round := l.round, time := s.time }))
    ∧ (∀ (s : State) (gid n c q reg beat e row tid cx i rg : Nat) (lanes chance : Lanes) (err : BitVec 136) (commit : Bool) (ns ident : Word) (p : Split)
      (o : MatOp) (x : Pass),
      let goes := fun (i : Instr) (told : State → Prop) => ∃ u, exec i s = .next u ∧ told u
      let g := grp s gid
      let runs := g.state = .running ∧ g.resident = true
      let near := ((core s c).replays ++ [s.time]).filter fun t => decide ((s.time - t).toNat < 1000000)
      let st : Stream := .split n
      let wrong := fun (m : BitVec 136) => (List.range 136).countP (err &&& m).getLsbD
      let fits := fun (y : Nat) => 32 * beat ≤ y ∧ y < 32 * beat + 32 ∧ (wrong (~~~ ownBytes y) ≤ 2 ∨ chance.getLsbD y = true)
      let rf : Instr := .rfUncorrectable gid reg beat ⟨err, chance⟩
      let opens := g.resident = true ∧ (g.state = .running ∨ ∃ t z, g.state = .stopped t z) ∧ g.pass = none ∧ reg < topReg g ∧ beat < 3
        ∧ 4 < wrong (BitVec.allOnes 136)
      let held := fun (x : Estate) => x.core ≠ none ∧ x.ns = ns ∧ x.ident = ident
      let es := (ctx s cx).estates
      let mc : Instr := .matrixCheckFail c e commit
      let k := team s tid
      let inside := k.placed = true ∧ e < 2 ∧ row < k.accn
      (goes (.timingReplay c q) fun u => ((core u c).marked = true ↔ (core s c).marked = true ∨ 16 < near.length)
          ∧ u.groups = s.groups ∧ u.mem = s.mem
          ∧ (q < 4 → (quad (core u c) q).clk = (settleQuad s.clk.toNat (quad (core s c) q)).clk + 2
              ∧ (quad (core u c) q).beatEnd = (settleQuad s.clk.toNat (quad (core s c) q)).beatEnd + 2)
          ∧ ((q = 4 ∨ q = 5) → engQ (core u c) (q - 4) = (engQ (core s c) (q - 4)).map fun x =>
              if x.started = true ∧ x.committed = false ∧ s.clk.toNat + 16 < x.due then { x with next := x.next + 2, due := x.due + 2 } else x))
        ∧ (mapGet g.splits n = none → exec (.checkRestart gid n) s = .next s)
        ∧ (mapGet g.splits n = some p →
            (¬ runs → exec (.checkRestart gid n) s = .next s)
              ∧ (runs → (p.restartable = false ∨ 4 ≤ p.tries) → exec (.checkRestart gid n) s = .next (laneDeath s gid p.members 3))
              ∧ (runs → p.restartable = true → p.tries < 4 → goes (.checkRestart gid n) fun u => let z := split (grp u gid) n
                  z.pc = p.restart ∧ z.first = p.marked ∧ z.tries = p.tries + 1 ∧ z.members = p.members ∧ z.am = p.am
                    ∧ ((poolOf (teamOf s g) g.quad).waiting = [] → (grp u gid).vregs = g.vregs)
                    ∧ (g.monitor = none → (grp u gid).sregs = g.sregs) ∧ ∀ f ∈ (grp u gid).fly, f.w.stream ≠ st))
        ∧ (¬ opens → exec rf s = .next s)
        ∧ (opens → ∃ z : Pass, exec rf s = .next (updGrp s gid fun g => { g with pass := some z })
            ∧ z.due = s.clk.toNat + 96 ∧ z.reg = reg ∧ z.beat = beat
            ∧ (∀ y, fits y → (∀ w, fits w → w = y) → z.lanes = laneBit y ∧ (z.other = true ↔ 2 < wrong (~~~ ownBytes y)))
            ∧ ((¬ ∃ y, fits y ∧ ∀ w, fits w → w = y) → z.lanes = beatLanes beat ∧ z.other = false))
        ∧ (g.pass = none → exec (.rfPassDone gid) s = .next s)
        ∧ (g.pass = some x → s.clk.toNat < x.due → exec (.rfPassDone gid) s = .next s)
        ∧ (g.pass = some x → x.due ≤ s.clk.toNat → ∃ v, let t := laneDeath v gid x.lanes 1
            exec (.rfPassDone gid) s = .next (if (grp t gid).image.isSome = true then writeImage t gid else t)
              ∧ (grp v gid).pass = none ∧ (grp v gid).dead = g.dead ||| (x.lanes &&& g.exited) ∧ v = { s with groups := v.groups, fresh := v.fresh }
              ∧ (i < 96 → (x.lanes &&& g.exited).getLsbD i = true → readV (grp v gid) rg i = 0)
              ∧ (i < 96 → (x.lanes &&& g.exited).getLsbD i = false → (x.other = false ∨ rg ≠ x.reg ∨ i / 32 ≠ x.beat) → readV (grp v gid) rg i = readV g rg i))
        ∧ ((g.state = .gone ∨ g.aslice = none) → exec (.addrSliceCheckFail gid) s = .next s)
        ∧ (g.state ≠ .gone → g.aslice ≠ none → exec (.addrSliceCheckFail gid) s = .next (laneDeath s gid (livingLanes g) 5))
        ∧ ((if commit = true then engHead s c e else engLast s c e) = none → exec mc s = .next s)
        ∧ ((if commit = true then engHead s c e else engLast s c e) = some o →
            (o.started = false → exec mc s = .next s)
              ∧ (o.started = true → commit = false → goes mc fun u => u = { s with cores := u.cores }
                  ∧ engQ (core u c) e = (engQ (core s c) e).map fun x => if x.id = o.id then { x with started := false, acc := [], accBad := [], ready := s.clk.toNat } else x)
              ∧ (o.started = true → commit = true → o.drain = none → goes mc fun u => (∀ x ∈ engQ (core u c) e, x.id ≠ o.id)
                  ∧ ∀ j, j < o.rows → accBad (team u (grp s o.group).team) e (o.row + j) = true))
        ∧ (¬ inside → exec (.accRowError tid e row) s = .next s)
        ∧ (inside → goes (.accRowError tid e row) fun u => accBad (team u tid) e row = true ∧ u = { s with teams := u.teams } ∧ (team u tid).acc = k.acc)
        ∧ (goes (.hayloftError cx ns ident gid lanes) fun u =>
            ((∀ x ∈ es, ¬ held x) → (ctx u cx).estates = es)
              ∧ (∀ x ∈ es, held x → ∃ y ∈ es, held y ∧ (ctx u cx).estates = es.map fun z => if sameEstate z y then { z with lost := true } else z)
              ∧ grp u gid = if g.state = .phase then { g with recErr := g.recErr ||| lanes } else g))

/-- R16, R504 to R510: an uncorrectable HBM error poisons its sector and spares its row; a failing row, be it served by a spare or
not, is copied to a spare of its bank, or its page is retired; a spare that fails its read-back is marked bad and the next one is taken;
a scan takes an idle core, whose Hayloft is drained, and releases it, repeats, or retires it, which writes a new core map record to the
flash. (The bank and row of an address are a free function of it: log 59; over which copy the record is written: log 54. Both are the
model's choice.) -/
def Obligations.SparesAndScans : Prop :=
  ∀ (s : State) (bank row bad pa c k p : Nat) (ok : Bool) (x : Spare),
    let goes := fun (i : Instr) (told : State → Prop) => ∃ u, exec i s = .next u ∧ told u
    let start : Instr := .rowSpareStart bank row bad pa
    let mine := fun (bank row : Nat) (y : Spare) => y.bank == bank && y.row == row && !y.bad && !y.serving
    let copies := fun (bank row : Nat) => ∃ y ∈ s.spares, mine bank row y = true
    let free := fun (bank : Nat) => (List.range 16).filter fun n => !s.spares.any fun y => y.bank == bank && y.spare == n
    let taken := fun (u : State) (bank row bad : Nat) =>
      (((free bank).drop bad).head? = some k → u.retire = s.retire
          ∧ (∃ y ∈ u.spares, y.bank = bank ∧ y.row = row ∧ y.spare = k ∧ y.serving = false ∧ y.bad = false)
          ∧ ∀ m ∈ (free bank).take bad, ∃ y ∈ u.spares, y.bank = bank ∧ y.spare = m ∧ y.bad = true)
        ∧ ((free bank).drop bad = [] → partOfPa s pa = some p → pa / 0x200000 ∈ u.retire ∧ .systemAll p 1 ∈ u.interrupts)
    let br := Config.rowOf pa
    let scan : Instr := .coreScanStart c
    let untraced := ∀ z, partOfPa s pa = some z → (part s z).tctl.getLsbD 0 = false
    let fin : Instr := .scanDone c ok
    let scanning := (core s c).scanning = true
    (regionOf s pa ≠ .hbm → exec (.hbmUncorrectable pa) s = .next s)
      ∧ (regionOf s pa = .hbm → untraced → goes (.hbmUncorrectable pa) fun u => u.mem = s.mem ∧ (∀ z, z ∈ u.poison ↔ z = pa / 32 ∨ z ∈ s.poison)
          ∧ (copies br.1 br.2 → u.spares = s.spares) ∧ (¬ copies br.1 br.2 → taken u br.1 br.2 0))
      ∧ exec .scrubPass s = .next s
      ∧ (copies bank row → bad = 0 → exec start s = .next s)
      ∧ (copies bank row → bad ≠ 0 → goes start fun u => taken u bank row (bad - 1)
          ∧ ∀ y ∈ s.spares, mine bank row y = true → { y with bad := true } ∈ u.spares)
      ∧ (¬ copies bank row → goes start fun u => (untraced → u.mem = s.mem) ∧ taken u bank row bad)
      ∧ (s.spares.find? (mine bank row) = none → exec (.rowSpareDone bank row) s = .next s)
      ∧ (s.spares.find? (mine bank row) = some x → goes (.rowSpareDone bank row) fun u =>
          u.spares = s.spares.map fun y =>
            if y.bank = bank ∧ y.row = row then (if y.bad = false ∧ y.serving = false then { y with serving := true } else { y with serving := false, bad := true })
            else y)
      ∧ (idleCore s c = false → exec scan s = .next s)
      ∧ (idleCore s c = true → goes scan fun u => (core u c).scanning = true ∧ (core u c).scanDue = true ∧ (core u c).slots = [] ∧ (core u c).scanFails = 0)
      ∧ ((core s c).scanning = false → exec (.scanAbort c) s = .next s ∧ exec fin s = .next s)
      ∧ (scanning → goes (.scanAbort c) fun u => (core u c).scanning = false ∧ (core u c).marked = (core s c).marked ∧ (core u c).scanDue = (core s c).scanDue)
      ∧ (scanning → ok = true → goes fin fun u => (core u c).scanning = false ∧ (core u c).marked = false ∧ (core u c).scanDue = false
          ∧ (core u c).scanned = s.time ∧ (core u c).offline = (core s c).offline)
      ∧ (scanning → ok = false → (core s c).scanFails = 0 → goes fin fun u => (core u c).scanning = true ∧ (core u c).scanFails = 1)
      ∧ (scanning → ok = false → (core s c).scanFails ≠ 0 → goes fin fun u =>
          let m := mapGetD s.coreMap c { die := c / 96, cluster := 0, core := 0, offline := false }
          (m.die, m.cluster, m.core) ∈ u.badSpares ∧ u.mapSeq = (s.mapSeq + 1) % 2 ^ 32 ∧ u.mapCopy = 1 - s.mapCopy
            ∧ mapGet u.mapFlash u.mapCopy = some (mapBytes u)
            ∧ ((core u c).offline = true ∨ ∃ z, mapGet u.coreMap c = some z ∧ z.offline = false ∧ (z.die, z.cluster, z.core) ∉ u.badSpares))

/-- R511, R515 to R518, R521 to R523: a trace entry and a replay log entry go to the next slot of their buffer while
enabled; a sample writes one entry for each core that is there; the debug page's registers take the bits they have, and a counter reads as
it stood before its cycle's increments. (The model's choice: the entry's order with the core's earlier stores, log 19, and the cycle's
increments that a read does not see, log 57.) -/
def Obligations.TraceAndDebug : Prop :=
  ∀ (s : State) (p w pa cls peer n gid sys kind len c j off : Nat) (retired v : Addr),
    let goes := fun (i : Instr) (told : State → Prop) => ∃ u, exec i s = .next u ∧ told u
    let q := part s p
    let slot := q.tbase.toNat + 64 * (q.tnext.toNat % 2 ^ (q.tctl.toNat / 2 ^ 16 % 32))
    let rslot := q.rbase.toNat + 32 * (q.rnext.toNat % 2 ^ (q.rctl.toNat / 2 ^ 16 % 32))
    let open_ := fun (a n : Nat) => downIn s a n = false ∧ refusedOutside s a n = false
    let report : Instr := .watchReport p w pa cls peer n gid
    let log : Instr := .replayLogRecord p retired sys kind len v
    let cores := s.cores.filter fun k => has q.clusters (k.1 / 8) && k.2.released && !k.2.offline
    let idle := ∀ k ∈ s.cores, ∀ z ∈ (core s k.1).quads, z.2.lastAt ≠ s.clk.toNat + 1
    let count : Instr := .pcntWrite p c j v
    let mine := c / 8 ∈ q.clusters ∧ j < 8
    let counter := fun (s : State) => mapGetD (part s p).pcnts (8 * c + j) {}
    let now := if (counter s).incAt = s.clk.toNat + 1 then (counter s).incs else 0
    let reg := fun (off : Nat) => (Instr.registerWrite p off v)
    let lo := v.extractLsb' 0 32
    (q.tctl.getLsbD 0 = false → exec report s = .next s)
      ∧ (q.tctl.getLsbD 0 = true → goes report fun u => (part u p).tnext = q.tnext + 1 ∧ (open_ slot 64 → ∃ bs, homeRead u slot 64 = bs ∧ bs.length = 64
          ∧ leNat (bs.take 8) = s.time.toNat ∧ bs.getD 8 0 = 9 ∧ leNat ((bs.drop 40).take 8) = pa % 2 ^ 64
          ∧ leNat ((bs.drop 48).take 8) = (cls + 256 * peer + 65536 * w) % 2 ^ 64 ∧ leNat ((bs.drop 56).take 8) = n % 2 ^ 64))
      ∧ (q.rctl.getLsbD 0 = false → exec log s = .next s)
      ∧ (q.rctl.getLsbD 0 = true → goes log fun u => (part u p).rnext = q.rnext + 1 ∧ (open_ rslot 32 → ∃ bs, homeRead u rslot 32 = bs ∧ bs.length = 32
          ∧ leNat (bs.take 8) = retired.toNat ∧ leNat ((bs.drop 16).take 8) = v.toNat ∧ leNat ((bs.drop 24).take 8) = s.time.toNat
          ∧ (bs.getD 8 0).toNat = sys % 256 ∧ (bs.getD 9 0).toNat = kind % 256))
      ∧ ((q.tctl.getLsbD 0 = false ∨ q.tctl.getLsbD 1 = false) → exec (.traceSample p) s = .next s)
      ∧ (q.tctl.getLsbD 0 = true → q.tctl.getLsbD 1 = true → idle → goes (.traceSample p) fun u => (part u p).tnext = q.tnext + BitVec.ofNat 32 cores.length)
      ∧ (¬ mine → exec count s = .next s)
      ∧ (mine → goes count fun u => counter u = { counter s with count := (v.toNat + now) % 2 ^ 48, ovf := false, setAt := s.clk.toNat + 1 }
          ∧ (c < 384 → debugRead u p (0x2000 + 128 * c + 8 * j) = BitVec.ofNat 64 (v.toNat % 2 ^ 48)) ∧ u = { s with parts := u.parts })
      ∧ (c < 384 → ¬ mine → j < 8 → debugRead s p (0x2000 + 128 * c + 8 * j) = 0)
      ∧ (w < 4 → let z := mapGetD q.watches w {}
          goes (reg (32 * w)) (fun u => mapGetD (part u p).watches w {} = { z with base := v &&& 0xFFFFFFFFFFFFFFC0 })
            ∧ goes (reg (32 * w + 8)) (fun u => mapGetD (part u p).watches w {} = { z with len := lo })
            ∧ goes (reg (32 * w + 12)) (fun u => mapGetD (part u p).watches w {} = { z with ctx := lo })
            ∧ goes (reg (32 * w + 16)) (fun u => mapGetD (part u p).watches w {} = { z with ctl := lo &&& 0xF }))
      ∧ goes (reg 0x1000) (fun u => part u p = { q with tbase := v &&& 0xFFFFFFFFFFFFFFC0 })
      ∧ goes (reg 0x1008) (fun u => part u p = { q with tctl := lo &&& 0x1F1F03 })
      ∧ goes (reg 0x1020) (fun u => part u p = { q with rbase := v &&& 0xFFFFFFFFFFFFFFC0 })
      ∧ goes (reg 0x1028) (fun u => part u p = { q with rctl := lo &&& 0x1F0003 })
      ∧ (c < 384 → mine → goes (reg (0x2000 + 128 * c + 64 + 4 * j)) fun u =>
          counter u = { counter s with sel := lo &&& 0x800000FF }
            ∧ debugRead u p (0x2000 + 128 * c + 64 + 4 * j) = (lo &&& 0x800000FF).setWidth 64)
      ∧ (0xE000 ≤ off → exec (reg off) s = .next s)

/-- R22, R24, R525 to R533, R543: host requests reach exactly the partition's share, or the host's own memory; link errors are
recorded; a peer is reachable while a working port reaches it, and lost when the last one fails; a peer's requests are accepted by the
reach table alone; power and temperature throttle, and 115 °C stops the clock. (The model's choice: what a poisoned byte reads as from
outside, log 4; that a refused peer request answers with an error, log 49; where PF0's status page shows the journal, log 61.) -/
def Obligations.OutsideWorld : Prop :=
  ∀ (s : State) (p off size pa port peer sender watts k i : Nat) (via : BitVec 12) (bytes : List Byte) (op : PeerOp) (sgn : Bool) (v c : Addr),
    let goes := fun (i : Instr) (told : State → Prop) => ∃ u, exec i s = .next u ∧ told u
    let q := part s p
    let up := s.hostUp = true ∧ q.running = true
    let takes := fun (n : Nat) => up ∧ off + n ≤ q.hbmSize
    let at_ := q.hbmBase + off
    let window := 0xC0000000000 + off
    let wrote := fun (u : State) (a : Nat) (bs : List Byte) => downIn s a bs.length = false → refusedOutside s a bs.length = false →
      homeRead u a bs.length = bs
    let replies := fun (u : State) (r : Response) => u.responses = s.responses ++ [r]
    let tells := fun (i : Instr) (a n : Nat) (f : List Byte → Response) =>
      (poisoned s a n = false → exec i s = .next { s with responses := s.responses ++ [f (homeRead s a n)] })
        ∧ goes i fun u => ∃ bs, replies u (f bs) ∧ bs.length = n ∧ u = { s with responses := u.responses, fresh := u.fresh }
            ∧ ∀ j, j < n → poisoned s (a + j) 1 = false → bs.getD j 0 = (homeRead s (a + j) 1).headD 0
    let z := queueOf s p (off / 8)
    let log := s.journal.flatMap journalBytes
    let outside := regionOf s pa = .host ∨ ∃ d, regionOf s pa = .peer d
    let untraced := ∀ z, partOfPa s pa = some z → (part s z).tctl.getLsbD 0 = false
    let fewer : State := { s with ports := s.ports &&& ~~~ (1#12 <<< port) }
    let n := bytes.length
    let fits := q.running = true ∧ mapGet q.reach peer = some sender ∧ q.hbmBase ≤ pa ∧ pa + n ≤ q.hbmBase + q.hbmSize
    let req : Instr := .peerRequest peer sender p pa op bytes
    let old := homeRead s pa n
    (¬ takes n → exec (.hostWrite (.part p) off bytes) s = .next s)
      ∧ (takes n → bytes ≠ [] → goes (.hostWrite (.part p) off bytes) fun u => wrote u at_ bytes ∧ u.responses = s.responses)
      ∧ (off + n ≤ 2 ^ 42 → goes (.hostWrite .memory off bytes) fun u => homeRead u window n = bytes ∧ u = { s with mem := u.mem }
          ∧ ∀ a, (a < window ∨ window + n ≤ a) → cellGet u.mem a = cellGet s.mem a)
      ∧ exec (.hostWrite .pf0 off bytes) s = .next s
      ∧ (¬ up → exec (.hostRead (.part p) 0 off size) s = .next s)
      ∧ (up → goes (.hostRead (.part p) 0 off size) fun u => ∃ bs, replies u (.hostRead bs) ∧ bs.length = 8
          ∧ leNat bs = if off < 0x1000 ∧ off % 8 = 0 ∧ z.created = true then z.head.toNat else 0)
      ∧ (¬ takes size → exec (.hostRead (.part p) 2 off size) s = .next s)
      ∧ (takes size → tells (.hostRead (.part p) 2 off size) at_ size .hostRead)
      ∧ (off + size ≤ 2 ^ 42 → tells (.hostRead .memory 2 off size) window size .hostRead)
      ∧ (s.hostUp = true → off + size ≤ 0x10000 → goes (.hostRead .pf0 0 off size) fun u => ∃ bs, replies u (.hostRead bs) ∧ bs.length = size
          ∧ (i < size → 0x1000 ≤ off + i → off + i < 0x1000 + log.length → bs.getD i 0 = log.getD (off + i - 0x1000) 0))
      ∧ (¬ outside → exec (.hostRequestError p pa) s = .next s)
      ∧ (outside → goes (.hostRequestError p pa) fun u => ∀ e, e ∈ u.hostErr ↔ e = pa / 32 ∨ e ∈ s.hostErr)
      ∧ (goes (.tierLinkDown port) fun u => (∀ e, e ∈ u.tierDown ↔ e = port ∨ e ∈ s.tierDown)
          ∧ ∀ z ∈ s.parts, z.2.running = true → .systemAll z.1 2 ∈ u.interrupts)
      ∧ (goes (.tierLinkUp port) fun u => u = { s with tierDown := u.tierDown } ∧ ∀ e, e ∈ u.tierDown ↔ e ≠ port ∧ e ∈ s.tierDown)
      ∧ (regionOf s pa ≠ .tier → exec (.tierPoisonReport pa) s = .next s)
      ∧ (regionOf s pa = .tier → untraced → goes (.tierPoisonReport pa) fun u => u.mem = s.mem ∧ ∀ e, e ∈ u.poison ↔ e = pa / 32 ∨ e ∈ s.poison)
      ∧ (goes (.milcaPortFail port) fun u => u.ports = fewer.ports ∧ u.paths = s.paths
          ∧ ((∀ d, s.reaches d = true → fewer.reaches d = true) → u = fewer))
      ∧ (s.reaches peer = false → goes (.peerUnreachable peer) fun u => u = { s with paths := u.paths } ∧ ∀ d, u.reaches d = s.reaches d)
      ∧ (goes (.peerUnreachable peer) fun u => ∀ d, u.reaches d = true ↔ d ≠ peer ∧ s.reaches d = true)
      ∧ ((via &&& s.ports = 0 ∨ peer = s.device ∨ 512 ≤ peer) → exec (.peerReachable (peer, via)) s = .next s)
      ∧ (via &&& s.ports ≠ 0 → peer ≠ s.device → peer < 512 → goes (.peerReachable (peer, via)) fun u => u = { s with paths := u.paths }
          ∧ ∀ d, u.reaches d = true ↔ d = peer ∨ s.reaches d = true)
      ∧ (¬ fits → exec req s = .next { s with responses := s.responses ++ [.peerError peer] })
      ∧ (fits → op = .write → bytes ≠ [] → goes req fun u => wrote u pa bytes ∧ replies u (.peerDone peer))
      ∧ (fits → op = .read → tells req pa n (.peerRead peer))
      ∧ (fits → op = .atom k sgn v c → poisoned s pa n = true → goes req fun u => u.mem = s.mem ∧ ∃ bs, replies u (.peerRead peer bs))
      ∧ (fits → op = .atom k sgn v c → poisoned s pa n = false → bytes ≠ [] → goes req fun u => replies u (.peerRead peer old)
          ∧ wrote u pa (leBytes (atomNew k sgn (decide (n = 8)) (BitVec.ofNat 64 (leNat old)) v c).toNat n))
      ∧ exec (.powerLimitSet watts) s = .next (if 2000 ≤ watts ∧ watts ≤ 4500 then { s with powerLimit := watts } else s)
      ∧ exec .powerOverLimit s = .next { s with throttled := true } ∧ exec .tempThrottle s = .next { s with hot := true }
      ∧ exec .throttleEnd s = .next { s with throttled := false, hot := false }
      ∧ exec .tempShutdown s = .next { s with power := .clockStopped }

/-- R15, R534 to R542: a start attempt runs its steps one by one, ends in management-only mode where an image has no
alternative left, and runs where every step passes; a partition's restart zeroes its share and drops its contexts, and runs it where its
image verifies; a power failure leaves the journal; the attestation requests answer from the keys and the measurements. (The model's
choice: an image's certificate and the flash's layout, logs 12, 13, 44 and 60; the parts of a start between which requests are answered,
log 45; the copies that a start takes, log 46; what the hypervisor extends, log 62.) -/
def Obligations.Starts : Prop :=
  ∀ (s : State) (f y : Flash) (p lost k : Nat) (torn : Bool) (nonce : BitVec 256) (r : PartRecord) (b : Boot) (e : Journal) (a1 a2 : Image),
    let goes := fun (i : Instr) (told : State → Prop) => ∃ u, exec i s = .next u ∧ told u
    let out := fun (a : Nat) => 0x10000000000 ≤ a
    let q := part s p
    let x := foundFlash s f
    let good := fun (kind : Nat) (i : Image) => accepts s (x.minimum.getD kind 0) i = true
    let clean := s.journal = [] ∧ good 0 x.shuax.1 ∧ good 1 x.firmware.1 ∧ good 2 x.hyper.1 ∧ x.passing = BitVec.allOnes 12
      ∧ (mapCopies s x.maps).1.isSome = true ∧ (mapCopies s x.maps).2.isSome = true ∧ x.link.1 ≠ none
    let extended := fun (i : Image) => sha384 (digestBytes 0 ++ digestBytes (sha384 i.bytes))
    let system := s.flash.bind fun y => (y.parts.1.or y.parts.2).bind fun r =>
      ((numbered r).find? fun e => e.1 == p).map fun e => (y, systemOf y e.2)
    let lies := q.hbmBase + q.hbmSize ≤ s.hbmStacks * 36 * 0x40000000
    let ok := fun (i : Image) => accepts s (y.minimum.getD 3 0) i = true
    let cut := if s.boot.isSome = true then min lost (s.journal.filter fun e => e.seq == s.attempt).length else 0
    let kept := s.journal.take (s.journal.length - cut)
    let answers := fun (r : Response) => (.next { s with responses := s.responses ++ [r] } : Out)
    let alias_ := Config.aliasKey Config.identitySecret (cellGet s.meas 0)
    let key := beBytes (Config.nistPublic alias_).toNat 96
    let chain := Config.identityCert (publicKey Config.identityKey) ++ (key ++ beBytes (Config.identitySign (sha384 key)).toNat 96)
    (goes (.partStart f) fun u => u.attempt = s.attempt + 1 ∧ u.clk = 0 ∧ u.time = 0 ∧ u.power = .managementOnly ∧ u.flash = some x
        ∧ u.boot = some { flash := x, old := s.journal.filter fun e => e.seq == s.attempt && e.valid } ∧ u.journal = s.journal
        ∧ (∀ a, out a → cellGet u.mem a = cellGet s.mem a) ∧ (∀ a, ¬ out a → cellGet u.mem a = 0) ∧ u.groups = [] ∧ u.launches = [] ∧ u.ctxs = [])
      ∧ (s.flash = none → x = f)
      ∧ (s.flash = some y → x.shuax = y.shuax ∧ x.maps = y.maps ∧ x.parts = y.parts ∧ x.link = y.link ∧ x.firmware = y.firmware
          ∧ x.hyper = y.hyper ∧ x.systems = y.systems ∧ x.minimum = y.minimum)
      ∧ (s.agenda = [] → (s.power = .running ∨ s.power = .managementOnly) → s.boot = some b → step s = .next (showEntries s (bootStep s b)))
      ∧ (accepts s k a1 = true ↔ sha384 (beBytes a1.root.toNat 96) = s.rootHash ∧ ecdsaVerifies a1.root (sha384 (beBytes a1.key.toNat 96)) a1.keySig = true
          ∧ ecdsaVerifies a1.key (sha384 a1.bytes) a1.sig = true ∧ k ≤ a1.version)
      ∧ (¬ good 0 x.shuax.1 → ¬ good 0 x.shuax.2 → goes (.partStart f) fun u => let d := runBoot 32 u
          d.boot = none ∧ d.power = .managementOnly ∧ d.parts = [] ∧ ∃ e ∈ d.journal, e.seq = d.attempt ∧ e.step = 1 ∧ e.outcome = 1)
      ∧ (clean → x.parts.1 = some { parts := [r], digest := 0 } → partsOk [r] = true → r.hbmBase + r.hbmSize ≤ 12 * 36 * 0x40000000 →
          good 3 (systemOf x r).1 → goes (.partStart f) fun u => let d := runBoot 32 u
            d.boot = none ∧ d.power = .running ∧ (part d 0).running = true ∧ (part d 0).clusters = r.clusters ∧ (part d 0).hbmBase = r.hbmBase
              ∧ (part d 0).hbmSize = r.hbmSize ∧ (queueOf d 0 0).created = true ∧ (queueOf d 0 0).runtime = true ∧ d.serving = List.range 12
              ∧ d.hostUp = x.hostUp ∧ cellGet d.meas 0 = extended x.shuax.1 ∧ cellGet d.meas 2 = extended x.firmware.1
              ∧ cellGet d.meas 3 = extended x.hyper.1 ∧ cellGet d.meas 4 = extended (systemOf x r).1
              ∧ ∀ e ∈ d.journal, e.seq = d.attempt ∧ e.valid = true)
      ∧ (mapGet s.parts p = none → exec (.partitionRestart p) s = .next s)
      ∧ (mapGet s.parts p ≠ none → goes (.partitionRestart p) fun u =>
          (part u p).hbmBase = q.hbmBase ∧ (part u p).hbmSize = q.hbmSize ∧ (part u p).clusters = q.clusters
          ∧ (∀ a, q.hbmBase ≤ a → a < q.hbmBase + q.hbmSize → cellGet u.mem a = 0)
          ∧ (∀ c ∈ u.ctxs, c.2.part ≠ p) ∧ (∀ l ∈ u.launches, l.2.part ≠ p)
          ∧ (lies → system = some (y, a1, a2) → (ok a1 ∨ ok a2) → (part u p).running = true ∧ (queueOf u p 0).created = true)
          ∧ (lies → system = some (y, a1, a2) → ¬ ok a1 → ¬ ok a2 → (part u p).running = false ∧ (queueOf u p 0).created = false)
          ∧ (¬ lies → (part u p).running = false ∧ (queueOf u p 0).created = false))
      ∧ (goes (.powerFail lost torn) fun u => u = { s with power := .off, boot := none, journal := u.journal }
          ∧ ((torn = false ∨ cut = 0) → u.journal = kept)
          ∧ (torn = true → cut ≠ 0 → kept.getLast? = some e → e.seq = s.attempt → e.valid = true →
              ∃ z, u.journal = kept.dropLast ++ [z] ∧ z = { e with check := z.check } ∧ z.valid = false))
      ∧ exec .getVersion s = answers (.spdm 0 [0x12, 0x13]) ∧ (∃ flags, exec .getCapabilities s = answers (.spdm 1 flags))
      ∧ exec .negotiateAlgorithms s = answers (.spdm 2 [384, 384])
      ∧ exec .getDigests s = answers (.digests [sha384 chain]) ∧ exec .getCertificate s = answers (.certificate chain)
      ∧ (goes .getMeasurements fun u => ∃ m, u = { s with responses := s.responses ++ [.measurements m], meas := u.meas, fresh := u.fresh } ∧ m.length = 16
          ∧ (k < 16 → m[k]? = some (k + 1, cellGet u.meas k)) ∧ ((k < 14 ∨ s.power ≠ .running) → cellGet u.meas k = cellGet s.meas k))
      ∧ exec (.challenge nonce) s = answers (.signature (Config.sign alias_ nonce))
end

