-- ==== Sys2Proof/Laws/Maps.lean ====
section
/-! SUPPORT. What a read of a map or of cells gives after a write, and that writes keep the canonical form. -/

namespace Sys2Proof.Machine
open Sys2Proof

/-! ### Maps -/

@[simp] theorem mapGet_nil {β : Type} (n : Nat) : mapGet ([] : AMap β) n = none := rfl

theorem mapGet_mapPut {β : Type} (m : AMap β) (n k : Nat) (v : β) :
    mapGet (mapPut m n v) k = if n = k then some v else mapGet m k := by
  induction m with
  | nil => simp [mapPut, mapGet]
  | cons e rest ih =>
    obtain ⟨a, w⟩ := e
    simp only [mapPut]
    split
    · simp [mapGet]
    · split
      · subst a; by_cases hk : n = k <;> simp [mapGet, hk]
      · by_cases ha : a = k
        · subst a; simp [mapGet]; intro h; omega
        · simp [mapGet, ha, ih]

@[simp] theorem mapGet_mapPut_same {β : Type} (m : AMap β) (n : Nat) (v : β) : mapGet (mapPut m n v) n = some v := by
  simp [mapGet_mapPut]

theorem mapGet_mapPut_other {β : Type} (m : AMap β) {n k : Nat} (v : β) (h : k ≠ n) : mapGet (mapPut m n v) k = mapGet m k := by
  simp [mapGet_mapPut, Ne.symm h]

theorem mapGet_mapDel {β : Type} (m : AMap β) (n k : Nat) : mapGet (mapDel m n) k = if n = k then none else mapGet m k := by
  induction m with
  | nil => simp [mapDel, mapGet]
  | cons e rest ih =>
    obtain ⟨a, w⟩ := e
    simp only [mapDel]
    by_cases ha : a = n
    · by_cases hk : n = k
      · rw [if_pos ha, ih, if_pos hk, if_pos hk]
      · simp [ha, ih, hk, mapGet]
    · by_cases hk : a = k
      · subst hk; simp [mapGet, ha, Ne.symm ha]
      · simp [mapGet, ha, hk, ih]

@[simp] theorem mapGetD_mapPut_same {β : Type} (m : AMap β) (n : Nat) (v d : β) : mapGetD (mapPut m n v) n d = v := by
  simp [mapGetD]

theorem mapGetD_mapPut_other {β : Type} (m : AMap β) {n k : Nat} (v d : β) (h : k ≠ n) :
    mapGetD (mapPut m n v) k d = mapGetD m k d := by
  simp [mapGetD, mapGet_mapPut_other m v h]

theorem mapGetD_mapPut {β : Type} (m : AMap β) (n k : Nat) (v d : β) :
    mapGetD (mapPut m n v) k d = if n = k then v else mapGetD m k d := by
  by_cases h : n = k
  · subst h; simp
  · simp [mapGetD_mapPut_other m v d (Ne.symm h), h]

/-! ### Cells -/

theorem cellGet_cellSet {w : Nat} (m : Cells w) (n k : Nat) (v : BitVec w) :
    cellGet (cellSet m n v) k = if n = k then v else cellGet m k := by
  unfold cellGet cellSet mapGetD
  by_cases hv : v = 0
  · rw [if_pos hv, mapGet_mapDel]; by_cases h : n = k
    · rw [if_pos h, if_pos h]; exact hv.symm
    · rw [if_neg h, if_neg h]
  · rw [if_neg hv, mapGet_mapPut]; by_cases h : n = k
    · rw [if_pos h, if_pos h]
    · rw [if_neg h, if_neg h]

@[simp] theorem cellGet_cellSet_same {w : Nat} (m : Cells w) (n : Nat) (v : BitVec w) : cellGet (cellSet m n v) n = v := by
  simp [cellGet_cellSet]

theorem cellGet_cellSet_other {w : Nat} (m : Cells w) {n k : Nat} (v : BitVec w) (h : k ≠ n) :
    cellGet (cellSet m n v) k = cellGet m k := by
  simp [cellGet_cellSet, Ne.symm h]

/-- A byte of memory after bytes are written from `a` up. -/
theorem cellGet_setBytes (bs : List Byte) : ∀ (m : Cells 8) (a k : Nat),
    cellGet (setBytes m a bs) k = if a ≤ k ∧ k < a + bs.length then bs.getD (k - a) 0 else cellGet m k := by
  induction bs with
  | nil => intro m a k; have : ¬ (a ≤ k ∧ k < a) := by omega
           simp [setBytes, this]
  | cons b bs ih =>
    intro m a k
    simp only [setBytes, ih, cellGet_cellSet, List.length_cons]
    by_cases h : a = k
    · subst h; simp
    · by_cases h1 : a + 1 ≤ k ∧ k < a + 1 + bs.length
      · have h2 : a ≤ k ∧ k < a + (bs.length + 1) := by omega
        have h3 : k - a = (k - (a + 1)) + 1 := by omega
        rw [if_pos h1, if_pos h2, h3, List.getD_cons_succ]
      · have h2 : ¬ (a ≤ k ∧ k < a + (bs.length + 1)) := by omega
        rw [if_neg h1, if_neg h2, if_neg h]

/-! ### The canonical form -/

/-- Keys rise where the first is below the next and the rest rise. -/
theorem sortedKeys_cons {β : Type} (a : Nat) (w : β) (m : AMap β) :
    sortedKeys ((a, w) :: m) = true ↔ (∀ e ∈ m.head?, a < e.1) ∧ sortedKeys m = true := by
  cases m with
  | nil => simp [sortedKeys]
  | cons e rest => obtain ⟨b, x⟩ := e; simp [sortedKeys]

theorem head_mapPut {β : Type} (m : AMap β) (n : Nat) (v : β) : ∀ e ∈ (mapPut m n v).head?, e.1 = n ∨ e.1 ∈ m.head?.map (·.1) := by
  cases m with
  | nil => simp [mapPut]
  | cons x rest =>
    obtain ⟨a, w⟩ := x
    simp only [mapPut]
    split
    · simp
    · split
      · simp
      · simp

theorem sortedKeys_mapPut {β : Type} (m : AMap β) (n : Nat) (v : β) (h : sortedKeys m = true) : sortedKeys (mapPut m n v) = true := by
  induction m with
  | nil => simp [mapPut, sortedKeys]
  | cons x rest ih =>
    obtain ⟨a, w⟩ := x
    obtain ⟨h1, h2⟩ := (sortedKeys_cons a w rest).1 h
    simp only [mapPut]
    split
    · rw [sortedKeys_cons]; exact ⟨by simpa using ‹n < a›, h⟩
    · split
      · subst a; exact (sortedKeys_cons n v rest).2 ⟨h1, h2⟩
      · rw [sortedKeys_cons]
        refine ⟨fun e he => ?_, ih h2⟩
        rcases head_mapPut rest n v e he with h3 | h3
        · omega
        · simp only [Option.map_eq_some_iff, Option.mem_def] at h3
          obtain ⟨y, hy, h4⟩ := h3
          have := h1 y hy
          omega

theorem mem_mapDel {β : Type} (m : AMap β) (n : Nat) (e : Nat × β) (h : e ∈ mapDel m n) : e ∈ m := by
  induction m with
  | nil => simp [mapDel] at h
  | cons x rest ih =>
    obtain ⟨a, w⟩ := x
    simp only [mapDel] at h
    split at h
    · exact List.mem_cons_of_mem _ (ih h)
    · rcases List.mem_cons.1 h with h | h
      · simp [h]
      · exact List.mem_cons_of_mem _ (ih h)

theorem sortedKeys_tail_lt {β : Type} (a : Nat) (w : β) (m : AMap β) (h : sortedKeys ((a, w) :: m) = true) : ∀ e ∈ m, a < e.1 := by
  induction m generalizing a w with
  | nil => simp
  | cons x rest ih =>
    obtain ⟨b, y⟩ := x
    obtain ⟨h1, h2⟩ := (sortedKeys_cons a w _).1 h
    have hab : a < b := h1 (b, y) (by simp)
    intro e he
    rcases List.mem_cons.1 he with he | he
    · simpa [he] using hab
    · have := ih b y h2 e he; omega

theorem sortedKeys_mapDel {β : Type} (m : AMap β) (n : Nat) (h : sortedKeys m = true) : sortedKeys (mapDel m n) = true := by
  induction m with
  | nil => simp [mapDel, sortedKeys]
  | cons x rest ih =>
    obtain ⟨a, w⟩ := x
    obtain ⟨_, h2⟩ := (sortedKeys_cons a w rest).1 h
    simp only [mapDel]
    split
    · exact ih h2
    · rw [sortedKeys_cons]
      refine ⟨fun e he => ?_, ih h2⟩
      exact sortedKeys_tail_lt a w rest h e (mem_mapDel rest n e (List.mem_of_head? he))

theorem mem_mapPut {β : Type} (m : AMap β) (n : Nat) (v : β) (e : Nat × β) (h : e ∈ mapPut m n v) : e = (n, v) ∨ e ∈ m := by
  induction m with
  | nil => simpa [mapPut] using h
  | cons x rest ih =>
    obtain ⟨a, w⟩ := x
    simp only [mapPut] at h
    split at h
    · simpa using h
    · split at h
      · rcases List.mem_cons.1 h with h | h
        · exact .inl h
        · exact .inr (List.mem_cons_of_mem _ h)
      · rcases List.mem_cons.1 h with h | h
        · exact .inr (by simp [h])
        · rcases ih h with h | h
          · exact .inl h
          · exact .inr (List.mem_cons_of_mem _ h)

/-- Writing a cell keeps the canonical form. -/
theorem cellsWf_cellSet {w : Nat} (m : Cells w) (n : Nat) (v : BitVec w) (h : cellsWf m = true) : cellsWf (cellSet m n v) = true := by
  simp only [cellsWf, Bool.and_eq_true, List.all_eq_true, decide_eq_true_eq] at h ⊢
  by_cases hv : v = 0
  · simp only [cellSet, hv, if_true]
    exact ⟨sortedKeys_mapDel m n h.1, fun e he => h.2 e (mem_mapDel m n e he)⟩
  · simp only [cellSet, hv, if_false]
    refine ⟨sortedKeys_mapPut m n v h.1, fun e he => ?_⟩
    rcases mem_mapPut m n v e he with he | he
    · simpa [he] using hv
    · exact h.2 e he

/-- Writing bytes keeps the canonical form. -/
theorem cellsWf_setBytes (bs : List Byte) : ∀ (m : Cells 8) (a : Nat), cellsWf m = true → cellsWf (setBytes m a bs) = true := by
  induction bs with
  | nil => intro m a h; exact h
  | cons b bs ih => intro m a h; exact ih _ _ (cellsWf_cellSet m a b h)

theorem sortedKeys_filter {β : Type} (p : Nat × β → Bool) (m : AMap β) (h : sortedKeys m = true) : sortedKeys (m.filter p) = true := by
  induction m with
  | nil => simp [sortedKeys]
  | cons x rest ih =>
    obtain ⟨a, w⟩ := x
    obtain ⟨_, h2⟩ := (sortedKeys_cons a w rest).1 h
    rw [List.filter_cons]
    split
    · rw [sortedKeys_cons]
      refine ⟨fun e he => ?_, ih h2⟩
      exact sortedKeys_tail_lt a w rest h e (List.mem_filter.1 (List.mem_of_head? he)).1
    · exact ih h2

/-- Dropping cells keeps the canonical form. -/
theorem cellsWf_filter {w : Nat} (p : Nat × BitVec w → Bool) (m : Cells w) (h : cellsWf m = true) : cellsWf (m.filter p) = true := by
  simp only [cellsWf, Bool.and_eq_true, List.all_eq_true, decide_eq_true_eq] at h ⊢
  exact ⟨sortedKeys_filter p m h.1, fun e he => h.2 e (List.mem_filter.1 he).1⟩

/-- A key below every listed key is not listed. -/
theorem mapGet_none_of_lt {β : Type} (m : AMap β) (n : Nat) (h : ∀ e ∈ m, n < e.1) : mapGet m n = none := by
  induction m with
  | nil => rfl
  | cons x rest ih =>
    obtain ⟨a, w⟩ := x
    have := h (a, w) (by simp)
    rw [mapGet, if_neg (by simp at this; omega)]
    exact ih fun e he => h e (List.mem_cons_of_mem _ he)

end Sys2Proof.Machine
end

