-- ==== Sys2Proof/Laws/State.lean ====
section
/-! SUPPORT. What the finders of the state give after each update of it: one lemma per field and update. -/

namespace Sys2Proof.Machine
open Sys2Proof

/-! ### Groups -/

@[simp] theorem grp_setGrp_same (s : State) (id : Nat) (g : Group) : grp (setGrp s id g) id = g := by simp [grp, setGrp]
theorem grp_setGrp_other (s : State) {id k : Nat} (g : Group) (h : k ≠ id) : grp (setGrp s id g) k = grp s k := by
  simp [grp, setGrp, mapGetD_mapPut_other _ _ _ h]
@[simp] theorem grp_updGrp_same (s : State) (id : Nat) (f : Group → Group) : grp (updGrp s id f) id = f (grp s id) := by
  simp [updGrp]
theorem grp_updGrp_other (s : State) {id k : Nat} (f : Group → Group) (h : k ≠ id) : grp (updGrp s id f) k = grp s k := by
  simp [updGrp, grp_setGrp_other _ _ h]

@[simp] theorem me_updMe (s : State) (f : Group → Group) : me (updMe s f) = f (me s) := by simp [me, updMe, updGrp, setGrp, grp]
@[simp] theorem me_setMe (s : State) (g : Group) : me (setMe s g) = g := by simp [me, setMe, setGrp, grp]
theorem grp_updMe_other (s : State) {k : Nat} (f : Group → Group) (h : k ≠ s.who.1) : grp (updMe s f) k = grp s k :=
  grp_updGrp_other s f h

/-! What an update of a group leaves alone. -/

@[simp] theorem updMe_who (s : State) (f : Group → Group) : (updMe s f).who = s.who := rfl
@[simp] theorem updMe_mem (s : State) (f : Group → Group) : (updMe s f).mem = s.mem := rfl
@[simp] theorem updMe_teams (s : State) (f : Group → Group) : (updMe s f).teams = s.teams := rfl
@[simp] theorem updMe_spans (s : State) (f : Group → Group) : (updMe s f).spans = s.spans := rfl
@[simp] theorem updMe_launches (s : State) (f : Group → Group) : (updMe s f).launches = s.launches := rfl
@[simp] theorem updMe_ctxs (s : State) (f : Group → Group) : (updMe s f).ctxs = s.ctxs := rfl
@[simp] theorem updMe_parts (s : State) (f : Group → Group) : (updMe s f).parts = s.parts := rfl
@[simp] theorem updMe_cores (s : State) (f : Group → Group) : (updMe s f).cores = s.cores := rfl
@[simp] theorem updMe_clk (s : State) (f : Group → Group) : (updMe s f).clk = s.clk := rfl
@[simp] theorem updMe_time (s : State) (f : Group → Group) : (updMe s f).time = s.time := rfl
@[simp] theorem updMe_nextId (s : State) (f : Group → Group) : (updMe s f).nextId = s.nextId := rfl
@[simp] theorem updGrp_who (s : State) (id : Nat) (f : Group → Group) : (updGrp s id f).who = s.who := rfl
@[simp] theorem updGrp_mem (s : State) (id : Nat) (f : Group → Group) : (updGrp s id f).mem = s.mem := rfl
@[simp] theorem setGrp_who (s : State) (id : Nat) (g : Group) : (setGrp s id g).who = s.who := rfl
@[simp] theorem setGrp_mem (s : State) (id : Nat) (g : Group) : (setGrp s id g).mem = s.mem := rfl
@[simp] theorem updTeam_mem (s : State) (id : Nat) (f : Team → Team) : (updTeam s id f).mem = s.mem := rfl
@[simp] theorem updSpan_mem (s : State) (id : Nat) (f : Span → Span) : (updSpan s id f).mem = s.mem := rfl
@[simp] theorem updLaunch_mem (s : State) (id : Nat) (f : Launch → Launch) : (updLaunch s id f).mem = s.mem := rfl
@[simp] theorem updCtx_mem (s : State) (id : Nat) (f : Ctx → Ctx) : (updCtx s id f).mem = s.mem := rfl
@[simp] theorem updCore_mem (s : State) (id : Nat) (f : Core → Core) : (updCore s id f).mem = s.mem := rfl
@[simp] theorem updPart_mem (s : State) (id : Nat) (f : Part → Part) : (updPart s id f).mem = s.mem := rfl
@[simp] theorem updQuad_mem (s : State) (c n : Nat) (f : Quad → Quad) : (updQuad s c n f).mem = s.mem := rfl
@[simp] theorem freshId_mem (s : State) : (freshId s).2.mem = s.mem := rfl
@[simp] theorem advance_mem (s : State) (len : Nat) : (advance s len).mem = s.mem := rfl
@[simp] theorem block_mem (s : State) (w : Wait) : (block s w).mem = s.mem := rfl
@[simp] theorem countEvent_mem (s : State) (c code n : Nat) : (countEvent s c code n).mem = s.mem := rfl

/-! The same for every other field. -/

@[simp] theorem updMe_poison (s : State) (f : Group → Group) : (updMe s f).poison = s.poison := rfl
@[simp] theorem updMe_relRecs (s : State) (f : Group → Group) : (updMe s f).relRecs = s.relRecs := rfl
@[simp] theorem updMe_clusterTlbs (s : State) (f : Group → Group) : (updMe s f).clusterTlbs = s.clusterTlbs := rfl
@[simp] theorem updMe_heldWrites (s : State) (f : Group → Group) : (updMe s f).heldWrites = s.heldWrites := rfl
@[simp] theorem updMe_fresh (s : State) (f : Group → Group) : (updMe s f).fresh = s.fresh := rfl
@[simp] theorem updMe_agenda (s : State) (f : Group → Group) : (updMe s f).agenda = s.agenda := rfl
@[simp] theorem updMe_power (s : State) (f : Group → Group) : (updMe s f).power = s.power := rfl
@[simp] theorem updMe_journal (s : State) (f : Group → Group) : (updMe s f).journal = s.journal := rfl
@[simp] theorem updMe_interrupts (s : State) (f : Group → Group) : (updMe s f).interrupts = s.interrupts := rfl
@[simp] theorem updMe_responses (s : State) (f : Group → Group) : (updMe s f).responses = s.responses := rfl
@[simp] theorem updGrp_power (s : State) (id : Nat) (f : Group → Group) : (updGrp s id f).power = s.power := rfl
@[simp] theorem updGrp_clk (s : State) (id : Nat) (f : Group → Group) : (updGrp s id f).clk = s.clk := rfl
@[simp] theorem updGrp_time (s : State) (id : Nat) (f : Group → Group) : (updGrp s id f).time = s.time := rfl
@[simp] theorem updGrp_poison (s : State) (id : Nat) (f : Group → Group) : (updGrp s id f).poison = s.poison := rfl
@[simp] theorem updGrp_relRecs (s : State) (id : Nat) (f : Group → Group) : (updGrp s id f).relRecs = s.relRecs := rfl
@[simp] theorem updGrp_clusterTlbs (s : State) (id : Nat) (f : Group → Group) : (updGrp s id f).clusterTlbs = s.clusterTlbs := rfl
@[simp] theorem updGrp_heldWrites (s : State) (id : Nat) (f : Group → Group) : (updGrp s id f).heldWrites = s.heldWrites := rfl
@[simp] theorem updGrp_parts (s : State) (id : Nat) (f : Group → Group) : (updGrp s id f).parts = s.parts := rfl
@[simp] theorem updGrp_ctxs (s : State) (id : Nat) (f : Group → Group) : (updGrp s id f).ctxs = s.ctxs := rfl
@[simp] theorem updGrp_launches (s : State) (id : Nat) (f : Group → Group) : (updGrp s id f).launches = s.launches := rfl
@[simp] theorem updGrp_spans (s : State) (id : Nat) (f : Group → Group) : (updGrp s id f).spans = s.spans := rfl
@[simp] theorem updGrp_teams (s : State) (id : Nat) (f : Group → Group) : (updGrp s id f).teams = s.teams := rfl
@[simp] theorem updGrp_cores (s : State) (id : Nat) (f : Group → Group) : (updGrp s id f).cores = s.cores := rfl
@[simp] theorem updGrp_serving (s : State) (id : Nat) (f : Group → Group) : (updGrp s id f).serving = s.serving := rfl
@[simp] theorem updGrp_tierGb (s : State) (id : Nat) (f : Group → Group) : (updGrp s id f).tierGb = s.tierGb := rfl
@[simp] theorem updGrp_tierPorts (s : State) (id : Nat) (f : Group → Group) : (updGrp s id f).tierPorts = s.tierPorts := rfl
@[simp] theorem updGrp_tierDown (s : State) (id : Nat) (f : Group → Group) : (updGrp s id f).tierDown = s.tierDown := rfl
@[simp] theorem updGrp_device (s : State) (id : Nat) (f : Group → Group) : (updGrp s id f).device = s.device := rfl
@[simp] theorem updGrp_paths (s : State) (id : Nat) (f : Group → Group) : (updGrp s id f).paths = s.paths := rfl
@[simp] theorem updGrp_rootHash (s : State) (id : Nat) (f : Group → Group) : (updGrp s id f).rootHash = s.rootHash := rfl
@[simp] theorem updGrp_flash (s : State) (id : Nat) (f : Group → Group) : (updGrp s id f).flash = s.flash := rfl
@[simp] theorem updGrp_boot (s : State) (id : Nat) (f : Group → Group) : (updGrp s id f).boot = s.boot := rfl
@[simp] theorem updGrp_ports (s : State) (id : Nat) (f : Group → Group) : (updGrp s id f).ports = s.ports := rfl
@[simp] theorem updGrp_hostErr (s : State) (id : Nat) (f : Group → Group) : (updGrp s id f).hostErr = s.hostErr := rfl
@[simp] theorem updGrp_hostUp (s : State) (id : Nat) (f : Group → Group) : (updGrp s id f).hostUp = s.hostUp := rfl
@[simp] theorem updGrp_powerLimit (s : State) (id : Nat) (f : Group → Group) : (updGrp s id f).powerLimit = s.powerLimit := rfl
@[simp] theorem updGrp_throttled (s : State) (id : Nat) (f : Group → Group) : (updGrp s id f).throttled = s.throttled := rfl
@[simp] theorem updGrp_hot (s : State) (id : Nat) (f : Group → Group) : (updGrp s id f).hot = s.hot := rfl
@[simp] theorem updGrp_meas (s : State) (id : Nat) (f : Group → Group) : (updGrp s id f).meas = s.meas := rfl
@[simp] theorem updGrp_journal (s : State) (id : Nat) (f : Group → Group) : (updGrp s id f).journal = s.journal := rfl
@[simp] theorem updGrp_attempt (s : State) (id : Nat) (f : Group → Group) : (updGrp s id f).attempt = s.attempt := rfl
@[simp] theorem updGrp_coreMap (s : State) (id : Nat) (f : Group → Group) : (updGrp s id f).coreMap = s.coreMap := rfl
@[simp] theorem updGrp_homes (s : State) (id : Nat) (f : Group → Group) : (updGrp s id f).homes = s.homes := rfl
@[simp] theorem updGrp_mapSeq (s : State) (id : Nat) (f : Group → Group) : (updGrp s id f).mapSeq = s.mapSeq := rfl
@[simp] theorem updGrp_mapFlash (s : State) (id : Nat) (f : Group → Group) : (updGrp s id f).mapFlash = s.mapFlash := rfl
@[simp] theorem updGrp_mapCopy (s : State) (id : Nat) (f : Group → Group) : (updGrp s id f).mapCopy = s.mapCopy := rfl
@[simp] theorem updGrp_badSpares (s : State) (id : Nat) (f : Group → Group) : (updGrp s id f).badSpares = s.badSpares := rfl
@[simp] theorem updGrp_spares (s : State) (id : Nat) (f : Group → Group) : (updGrp s id f).spares = s.spares := rfl
@[simp] theorem updGrp_retire (s : State) (id : Nat) (f : Group → Group) : (updGrp s id f).retire = s.retire := rfl
@[simp] theorem updGrp_interrupts (s : State) (id : Nat) (f : Group → Group) : (updGrp s id f).interrupts = s.interrupts := rfl
@[simp] theorem updGrp_responses (s : State) (id : Nat) (f : Group → Group) : (updGrp s id f).responses = s.responses := rfl
@[simp] theorem updGrp_agenda (s : State) (id : Nat) (f : Group → Group) : (updGrp s id f).agenda = s.agenda := rfl
@[simp] theorem updGrp_fresh (s : State) (id : Nat) (f : Group → Group) : (updGrp s id f).fresh = s.fresh := rfl
@[simp] theorem updGrp_nextId (s : State) (id : Nat) (f : Group → Group) : (updGrp s id f).nextId = s.nextId := rfl
@[simp] theorem updTeam_poison (s : State) (id : Nat) (f : Team → Team) : (updTeam s id f).poison = s.poison := rfl
@[simp] theorem updTeam_relRecs (s : State) (id : Nat) (f : Team → Team) : (updTeam s id f).relRecs = s.relRecs := rfl
@[simp] theorem updTeam_clusterTlbs (s : State) (id : Nat) (f : Team → Team) : (updTeam s id f).clusterTlbs = s.clusterTlbs := rfl
@[simp] theorem updTeam_heldWrites (s : State) (id : Nat) (f : Team → Team) : (updTeam s id f).heldWrites = s.heldWrites := rfl
@[simp] theorem updTeam_parts (s : State) (id : Nat) (f : Team → Team) : (updTeam s id f).parts = s.parts := rfl
@[simp] theorem updTeam_ctxs (s : State) (id : Nat) (f : Team → Team) : (updTeam s id f).ctxs = s.ctxs := rfl
@[simp] theorem updTeam_launches (s : State) (id : Nat) (f : Team → Team) : (updTeam s id f).launches = s.launches := rfl
@[simp] theorem updTeam_spans (s : State) (id : Nat) (f : Team → Team) : (updTeam s id f).spans = s.spans := rfl
@[simp] theorem updTeam_groups (s : State) (id : Nat) (f : Team → Team) : (updTeam s id f).groups = s.groups := rfl
@[simp] theorem updTeam_cores (s : State) (id : Nat) (f : Team → Team) : (updTeam s id f).cores = s.cores := rfl
@[simp] theorem updTeam_clk (s : State) (id : Nat) (f : Team → Team) : (updTeam s id f).clk = s.clk := rfl
@[simp] theorem updTeam_time (s : State) (id : Nat) (f : Team → Team) : (updTeam s id f).time = s.time := rfl
@[simp] theorem updTeam_fresh (s : State) (id : Nat) (f : Team → Team) : (updTeam s id f).fresh = s.fresh := rfl
@[simp] theorem updTeam_nextId (s : State) (id : Nat) (f : Team → Team) : (updTeam s id f).nextId = s.nextId := rfl
@[simp] theorem updTeam_who (s : State) (id : Nat) (f : Team → Team) : (updTeam s id f).who = s.who := rfl
@[simp] theorem updTeam_agenda (s : State) (id : Nat) (f : Team → Team) : (updTeam s id f).agenda = s.agenda := rfl
@[simp] theorem updTeam_power (s : State) (id : Nat) (f : Team → Team) : (updTeam s id f).power = s.power := rfl
@[simp] theorem updTeam_journal (s : State) (id : Nat) (f : Team → Team) : (updTeam s id f).journal = s.journal := rfl
@[simp] theorem updTeam_interrupts (s : State) (id : Nat) (f : Team → Team) : (updTeam s id f).interrupts = s.interrupts := rfl
@[simp] theorem updTeam_responses (s : State) (id : Nat) (f : Team → Team) : (updTeam s id f).responses = s.responses := rfl
@[simp] theorem updSpan_poison (s : State) (id : Nat) (f : Span → Span) : (updSpan s id f).poison = s.poison := rfl
@[simp] theorem updSpan_relRecs (s : State) (id : Nat) (f : Span → Span) : (updSpan s id f).relRecs = s.relRecs := rfl
@[simp] theorem updSpan_clusterTlbs (s : State) (id : Nat) (f : Span → Span) : (updSpan s id f).clusterTlbs = s.clusterTlbs := rfl
@[simp] theorem updSpan_heldWrites (s : State) (id : Nat) (f : Span → Span) : (updSpan s id f).heldWrites = s.heldWrites := rfl
@[simp] theorem updSpan_parts (s : State) (id : Nat) (f : Span → Span) : (updSpan s id f).parts = s.parts := rfl
@[simp] theorem updSpan_ctxs (s : State) (id : Nat) (f : Span → Span) : (updSpan s id f).ctxs = s.ctxs := rfl
@[simp] theorem updSpan_launches (s : State) (id : Nat) (f : Span → Span) : (updSpan s id f).launches = s.launches := rfl
@[simp] theorem updSpan_teams (s : State) (id : Nat) (f : Span → Span) : (updSpan s id f).teams = s.teams := rfl
@[simp] theorem updSpan_groups (s : State) (id : Nat) (f : Span → Span) : (updSpan s id f).groups = s.groups := rfl
@[simp] theorem updSpan_cores (s : State) (id : Nat) (f : Span → Span) : (updSpan s id f).cores = s.cores := rfl
@[simp] theorem updSpan_clk (s : State) (id : Nat) (f : Span → Span) : (updSpan s id f).clk = s.clk := rfl
@[simp] theorem updSpan_time (s : State) (id : Nat) (f : Span → Span) : (updSpan s id f).time = s.time := rfl
@[simp] theorem updSpan_fresh (s : State) (id : Nat) (f : Span → Span) : (updSpan s id f).fresh = s.fresh := rfl
@[simp] theorem updSpan_nextId (s : State) (id : Nat) (f : Span → Span) : (updSpan s id f).nextId = s.nextId := rfl
@[simp] theorem updSpan_who (s : State) (id : Nat) (f : Span → Span) : (updSpan s id f).who = s.who := rfl
@[simp] theorem updSpan_agenda (s : State) (id : Nat) (f : Span → Span) : (updSpan s id f).agenda = s.agenda := rfl
@[simp] theorem updSpan_power (s : State) (id : Nat) (f : Span → Span) : (updSpan s id f).power = s.power := rfl
@[simp] theorem updSpan_journal (s : State) (id : Nat) (f : Span → Span) : (updSpan s id f).journal = s.journal := rfl
@[simp] theorem updSpan_interrupts (s : State) (id : Nat) (f : Span → Span) : (updSpan s id f).interrupts = s.interrupts := rfl
@[simp] theorem updSpan_responses (s : State) (id : Nat) (f : Span → Span) : (updSpan s id f).responses = s.responses := rfl
@[simp] theorem updLaunch_poison (s : State) (id : Nat) (f : Launch → Launch) : (updLaunch s id f).poison = s.poison := rfl
@[simp] theorem updLaunch_relRecs (s : State) (id : Nat) (f : Launch → Launch) : (updLaunch s id f).relRecs = s.relRecs := rfl
@[simp] theorem updLaunch_clusterTlbs (s : State) (id : Nat) (f : Launch → Launch) : (updLaunch s id f).clusterTlbs = s.clusterTlbs := rfl
@[simp] theorem updLaunch_heldWrites (s : State) (id : Nat) (f : Launch → Launch) : (updLaunch s id f).heldWrites = s.heldWrites := rfl
@[simp] theorem updLaunch_parts (s : State) (id : Nat) (f : Launch → Launch) : (updLaunch s id f).parts = s.parts := rfl
@[simp] theorem updLaunch_ctxs (s : State) (id : Nat) (f : Launch → Launch) : (updLaunch s id f).ctxs = s.ctxs := rfl
@[simp] theorem updLaunch_spans (s : State) (id : Nat) (f : Launch → Launch) : (updLaunch s id f).spans = s.spans := rfl
@[simp] theorem updLaunch_teams (s : State) (id : Nat) (f : Launch → Launch) : (updLaunch s id f).teams = s.teams := rfl
@[simp] theorem updLaunch_groups (s : State) (id : Nat) (f : Launch → Launch) : (updLaunch s id f).groups = s.groups := rfl
@[simp] theorem updLaunch_cores (s : State) (id : Nat) (f : Launch → Launch) : (updLaunch s id f).cores = s.cores := rfl
@[simp] theorem updLaunch_clk (s : State) (id : Nat) (f : Launch → Launch) : (updLaunch s id f).clk = s.clk := rfl
@[simp] theorem updLaunch_time (s : State) (id : Nat) (f : Launch → Launch) : (updLaunch s id f).time = s.time := rfl
@[simp] theorem updLaunch_fresh (s : State) (id : Nat) (f : Launch → Launch) : (updLaunch s id f).fresh = s.fresh := rfl
@[simp] theorem updLaunch_nextId (s : State) (id : Nat) (f : Launch → Launch) : (updLaunch s id f).nextId = s.nextId := rfl
@[simp] theorem updLaunch_who (s : State) (id : Nat) (f : Launch → Launch) : (updLaunch s id f).who = s.who := rfl
@[simp] theorem updLaunch_agenda (s : State) (id : Nat) (f : Launch → Launch) : (updLaunch s id f).agenda = s.agenda := rfl
@[simp] theorem updLaunch_power (s : State) (id : Nat) (f : Launch → Launch) : (updLaunch s id f).power = s.power := rfl
@[simp] theorem updLaunch_journal (s : State) (id : Nat) (f : Launch → Launch) : (updLaunch s id f).journal = s.journal := rfl
@[simp] theorem updLaunch_interrupts (s : State) (id : Nat) (f : Launch → Launch) : (updLaunch s id f).interrupts = s.interrupts := rfl
@[simp] theorem updLaunch_responses (s : State) (id : Nat) (f : Launch → Launch) : (updLaunch s id f).responses = s.responses := rfl
@[simp] theorem updCtx_poison (s : State) (id : Nat) (f : Ctx → Ctx) : (updCtx s id f).poison = s.poison := rfl
@[simp] theorem updCtx_relRecs (s : State) (id : Nat) (f : Ctx → Ctx) : (updCtx s id f).relRecs = s.relRecs := rfl
@[simp] theorem updCtx_clusterTlbs (s : State) (id : Nat) (f : Ctx → Ctx) : (updCtx s id f).clusterTlbs = s.clusterTlbs := rfl
@[simp] theorem updCtx_heldWrites (s : State) (id : Nat) (f : Ctx → Ctx) : (updCtx s id f).heldWrites = s.heldWrites := rfl
@[simp] theorem updCtx_parts (s : State) (id : Nat) (f : Ctx → Ctx) : (updCtx s id f).parts = s.parts := rfl
@[simp] theorem updCtx_launches (s : State) (id : Nat) (f : Ctx → Ctx) : (updCtx s id f).launches = s.launches := rfl
@[simp] theorem updCtx_spans (s : State) (id : Nat) (f : Ctx → Ctx) : (updCtx s id f).spans = s.spans := rfl
@[simp] theorem updCtx_teams (s : State) (id : Nat) (f : Ctx → Ctx) : (updCtx s id f).teams = s.teams := rfl
@[simp] theorem updCtx_groups (s : State) (id : Nat) (f : Ctx → Ctx) : (updCtx s id f).groups = s.groups := rfl
@[simp] theorem updCtx_cores (s : State) (id : Nat) (f : Ctx → Ctx) : (updCtx s id f).cores = s.cores := rfl
@[simp] theorem updCtx_clk (s : State) (id : Nat) (f : Ctx → Ctx) : (updCtx s id f).clk = s.clk := rfl
@[simp] theorem updCtx_time (s : State) (id : Nat) (f : Ctx → Ctx) : (updCtx s id f).time = s.time := rfl
@[simp] theorem updCtx_fresh (s : State) (id : Nat) (f : Ctx → Ctx) : (updCtx s id f).fresh = s.fresh := rfl
@[simp] theorem updCtx_nextId (s : State) (id : Nat) (f : Ctx → Ctx) : (updCtx s id f).nextId = s.nextId := rfl
@[simp] theorem updCtx_who (s : State) (id : Nat) (f : Ctx → Ctx) : (updCtx s id f).who = s.who := rfl
@[simp] theorem updCtx_agenda (s : State) (id : Nat) (f : Ctx → Ctx) : (updCtx s id f).agenda = s.agenda := rfl
@[simp] theorem updCtx_power (s : State) (id : Nat) (f : Ctx → Ctx) : (updCtx s id f).power = s.power := rfl
@[simp] theorem updCtx_journal (s : State) (id : Nat) (f : Ctx → Ctx) : (updCtx s id f).journal = s.journal := rfl
@[simp] theorem updCtx_interrupts (s : State) (id : Nat) (f : Ctx → Ctx) : (updCtx s id f).interrupts = s.interrupts := rfl
@[simp] theorem updCtx_responses (s : State) (id : Nat) (f : Ctx → Ctx) : (updCtx s id f).responses = s.responses := rfl
@[simp] theorem updCore_poison (s : State) (id : Nat) (f : Core → Core) : (updCore s id f).poison = s.poison := rfl
@[simp] theorem updCore_relRecs (s : State) (id : Nat) (f : Core → Core) : (updCore s id f).relRecs = s.relRecs := rfl
@[simp] theorem updCore_clusterTlbs (s : State) (id : Nat) (f : Core → Core) : (updCore s id f).clusterTlbs = s.clusterTlbs := rfl
@[simp] theorem updCore_heldWrites (s : State) (id : Nat) (f : Core → Core) : (updCore s id f).heldWrites = s.heldWrites := rfl
@[simp] theorem updCore_parts (s : State) (id : Nat) (f : Core → Core) : (updCore s id f).parts = s.parts := rfl
@[simp] theorem updCore_ctxs (s : State) (id : Nat) (f : Core → Core) : (updCore s id f).ctxs = s.ctxs := rfl
@[simp] theorem updCore_launches (s : State) (id : Nat) (f : Core → Core) : (updCore s id f).launches = s.launches := rfl
@[simp] theorem updCore_spans (s : State) (id : Nat) (f : Core → Core) : (updCore s id f).spans = s.spans := rfl
@[simp] theorem updCore_teams (s : State) (id : Nat) (f : Core → Core) : (updCore s id f).teams = s.teams := rfl
@[simp] theorem updCore_groups (s : State) (id : Nat) (f : Core → Core) : (updCore s id f).groups = s.groups := rfl
@[simp] theorem updCore_clk (s : State) (id : Nat) (f : Core → Core) : (updCore s id f).clk = s.clk := rfl
@[simp] theorem updCore_time (s : State) (id : Nat) (f : Core → Core) : (updCore s id f).time = s.time := rfl
@[simp] theorem updCore_fresh (s : State) (id : Nat) (f : Core → Core) : (updCore s id f).fresh = s.fresh := rfl
@[simp] theorem updCore_nextId (s : State) (id : Nat) (f : Core → Core) : (updCore s id f).nextId = s.nextId := rfl
@[simp] theorem updCore_who (s : State) (id : Nat) (f : Core → Core) : (updCore s id f).who = s.who := rfl
@[simp] theorem updCore_agenda (s : State) (id : Nat) (f : Core → Core) : (updCore s id f).agenda = s.agenda := rfl
@[simp] theorem updCore_power (s : State) (id : Nat) (f : Core → Core) : (updCore s id f).power = s.power := rfl
@[simp] theorem updCore_journal (s : State) (id : Nat) (f : Core → Core) : (updCore s id f).journal = s.journal := rfl
@[simp] theorem updCore_interrupts (s : State) (id : Nat) (f : Core → Core) : (updCore s id f).interrupts = s.interrupts := rfl
@[simp] theorem updCore_responses (s : State) (id : Nat) (f : Core → Core) : (updCore s id f).responses = s.responses := rfl
@[simp] theorem updPart_poison (s : State) (id : Nat) (f : Part → Part) : (updPart s id f).poison = s.poison := rfl
@[simp] theorem updPart_relRecs (s : State) (id : Nat) (f : Part → Part) : (updPart s id f).relRecs = s.relRecs := rfl
@[simp] theorem updPart_clusterTlbs (s : State) (id : Nat) (f : Part → Part) : (updPart s id f).clusterTlbs = s.clusterTlbs := rfl
@[simp] theorem updPart_heldWrites (s : State) (id : Nat) (f : Part → Part) : (updPart s id f).heldWrites = s.heldWrites := rfl
@[simp] theorem updPart_ctxs (s : State) (id : Nat) (f : Part → Part) : (updPart s id f).ctxs = s.ctxs := rfl
@[simp] theorem updPart_launches (s : State) (id : Nat) (f : Part → Part) : (updPart s id f).launches = s.launches := rfl
@[simp] theorem updPart_spans (s : State) (id : Nat) (f : Part → Part) : (updPart s id f).spans = s.spans := rfl
@[simp] theorem updPart_teams (s : State) (id : Nat) (f : Part → Part) : (updPart s id f).teams = s.teams := rfl
@[simp] theorem updPart_groups (s : State) (id : Nat) (f : Part → Part) : (updPart s id f).groups = s.groups := rfl
@[simp] theorem updPart_cores (s : State) (id : Nat) (f : Part → Part) : (updPart s id f).cores = s.cores := rfl
@[simp] theorem updPart_clk (s : State) (id : Nat) (f : Part → Part) : (updPart s id f).clk = s.clk := rfl
@[simp] theorem updPart_time (s : State) (id : Nat) (f : Part → Part) : (updPart s id f).time = s.time := rfl
@[simp] theorem updPart_fresh (s : State) (id : Nat) (f : Part → Part) : (updPart s id f).fresh = s.fresh := rfl
@[simp] theorem updPart_nextId (s : State) (id : Nat) (f : Part → Part) : (updPart s id f).nextId = s.nextId := rfl
@[simp] theorem updPart_who (s : State) (id : Nat) (f : Part → Part) : (updPart s id f).who = s.who := rfl
@[simp] theorem updPart_agenda (s : State) (id : Nat) (f : Part → Part) : (updPart s id f).agenda = s.agenda := rfl
@[simp] theorem updPart_power (s : State) (id : Nat) (f : Part → Part) : (updPart s id f).power = s.power := rfl
@[simp] theorem updPart_journal (s : State) (id : Nat) (f : Part → Part) : (updPart s id f).journal = s.journal := rfl
@[simp] theorem updPart_interrupts (s : State) (id : Nat) (f : Part → Part) : (updPart s id f).interrupts = s.interrupts := rfl
@[simp] theorem updPart_responses (s : State) (id : Nat) (f : Part → Part) : (updPart s id f).responses = s.responses := rfl

/-! The fields of the part, the flash and the outside world. -/

@[simp] theorem updMe_serving (s : State) (f : Group → Group) : (updMe s f).serving = s.serving := rfl
@[simp] theorem updMe_tierGb (s : State) (f : Group → Group) : (updMe s f).tierGb = s.tierGb := rfl
@[simp] theorem updMe_tierPorts (s : State) (f : Group → Group) : (updMe s f).tierPorts = s.tierPorts := rfl
@[simp] theorem updMe_tierDown (s : State) (f : Group → Group) : (updMe s f).tierDown = s.tierDown := rfl
@[simp] theorem updMe_device (s : State) (f : Group → Group) : (updMe s f).device = s.device := rfl
@[simp] theorem updMe_paths (s : State) (f : Group → Group) : (updMe s f).paths = s.paths := rfl
@[simp] theorem updMe_rootHash (s : State) (f : Group → Group) : (updMe s f).rootHash = s.rootHash := rfl
@[simp] theorem updMe_flash (s : State) (f : Group → Group) : (updMe s f).flash = s.flash := rfl
@[simp] theorem updMe_boot (s : State) (f : Group → Group) : (updMe s f).boot = s.boot := rfl
@[simp] theorem updMe_ports (s : State) (f : Group → Group) : (updMe s f).ports = s.ports := rfl
@[simp] theorem updMe_hostErr (s : State) (f : Group → Group) : (updMe s f).hostErr = s.hostErr := rfl
@[simp] theorem updMe_hostUp (s : State) (f : Group → Group) : (updMe s f).hostUp = s.hostUp := rfl
@[simp] theorem updMe_powerLimit (s : State) (f : Group → Group) : (updMe s f).powerLimit = s.powerLimit := rfl
@[simp] theorem updMe_throttled (s : State) (f : Group → Group) : (updMe s f).throttled = s.throttled := rfl
@[simp] theorem updMe_hot (s : State) (f : Group → Group) : (updMe s f).hot = s.hot := rfl
@[simp] theorem updMe_meas (s : State) (f : Group → Group) : (updMe s f).meas = s.meas := rfl
@[simp] theorem updMe_attempt (s : State) (f : Group → Group) : (updMe s f).attempt = s.attempt := rfl
@[simp] theorem updMe_coreMap (s : State) (f : Group → Group) : (updMe s f).coreMap = s.coreMap := rfl
@[simp] theorem updMe_homes (s : State) (f : Group → Group) : (updMe s f).homes = s.homes := rfl
@[simp] theorem updMe_mapSeq (s : State) (f : Group → Group) : (updMe s f).mapSeq = s.mapSeq := rfl
@[simp] theorem updMe_mapFlash (s : State) (f : Group → Group) : (updMe s f).mapFlash = s.mapFlash := rfl
@[simp] theorem updMe_mapCopy (s : State) (f : Group → Group) : (updMe s f).mapCopy = s.mapCopy := rfl
@[simp] theorem updMe_badSpares (s : State) (f : Group → Group) : (updMe s f).badSpares = s.badSpares := rfl
@[simp] theorem updMe_spares (s : State) (f : Group → Group) : (updMe s f).spares = s.spares := rfl
@[simp] theorem updMe_retire (s : State) (f : Group → Group) : (updMe s f).retire = s.retire := rfl
@[simp] theorem updTeam_serving (s : State) (id : Nat) (f : Team → Team) : (updTeam s id f).serving = s.serving := rfl
@[simp] theorem updTeam_tierGb (s : State) (id : Nat) (f : Team → Team) : (updTeam s id f).tierGb = s.tierGb := rfl
@[simp] theorem updTeam_tierPorts (s : State) (id : Nat) (f : Team → Team) : (updTeam s id f).tierPorts = s.tierPorts := rfl
@[simp] theorem updTeam_tierDown (s : State) (id : Nat) (f : Team → Team) : (updTeam s id f).tierDown = s.tierDown := rfl
@[simp] theorem updTeam_device (s : State) (id : Nat) (f : Team → Team) : (updTeam s id f).device = s.device := rfl
@[simp] theorem updTeam_paths (s : State) (id : Nat) (f : Team → Team) : (updTeam s id f).paths = s.paths := rfl
@[simp] theorem updTeam_rootHash (s : State) (id : Nat) (f : Team → Team) : (updTeam s id f).rootHash = s.rootHash := rfl
@[simp] theorem updTeam_flash (s : State) (id : Nat) (f : Team → Team) : (updTeam s id f).flash = s.flash := rfl
@[simp] theorem updTeam_boot (s : State) (id : Nat) (f : Team → Team) : (updTeam s id f).boot = s.boot := rfl
@[simp] theorem updTeam_ports (s : State) (id : Nat) (f : Team → Team) : (updTeam s id f).ports = s.ports := rfl
@[simp] theorem updTeam_hostErr (s : State) (id : Nat) (f : Team → Team) : (updTeam s id f).hostErr = s.hostErr := rfl
@[simp] theorem updTeam_hostUp (s : State) (id : Nat) (f : Team → Team) : (updTeam s id f).hostUp = s.hostUp := rfl
@[simp] theorem updTeam_powerLimit (s : State) (id : Nat) (f : Team → Team) : (updTeam s id f).powerLimit = s.powerLimit := rfl
@[simp] theorem updTeam_throttled (s : State) (id : Nat) (f : Team → Team) : (updTeam s id f).throttled = s.throttled := rfl
@[simp] theorem updTeam_hot (s : State) (id : Nat) (f : Team → Team) : (updTeam s id f).hot = s.hot := rfl
@[simp] theorem updTeam_meas (s : State) (id : Nat) (f : Team → Team) : (updTeam s id f).meas = s.meas := rfl
@[simp] theorem updTeam_attempt (s : State) (id : Nat) (f : Team → Team) : (updTeam s id f).attempt = s.attempt := rfl
@[simp] theorem updTeam_coreMap (s : State) (id : Nat) (f : Team → Team) : (updTeam s id f).coreMap = s.coreMap := rfl
@[simp] theorem updTeam_homes (s : State) (id : Nat) (f : Team → Team) : (updTeam s id f).homes = s.homes := rfl
@[simp] theorem updTeam_mapSeq (s : State) (id : Nat) (f : Team → Team) : (updTeam s id f).mapSeq = s.mapSeq := rfl
@[simp] theorem updTeam_mapFlash (s : State) (id : Nat) (f : Team → Team) : (updTeam s id f).mapFlash = s.mapFlash := rfl
@[simp] theorem updTeam_mapCopy (s : State) (id : Nat) (f : Team → Team) : (updTeam s id f).mapCopy = s.mapCopy := rfl
@[simp] theorem updTeam_badSpares (s : State) (id : Nat) (f : Team → Team) : (updTeam s id f).badSpares = s.badSpares := rfl
@[simp] theorem updTeam_spares (s : State) (id : Nat) (f : Team → Team) : (updTeam s id f).spares = s.spares := rfl
@[simp] theorem updTeam_retire (s : State) (id : Nat) (f : Team → Team) : (updTeam s id f).retire = s.retire := rfl
@[simp] theorem updSpan_serving (s : State) (id : Nat) (f : Span → Span) : (updSpan s id f).serving = s.serving := rfl
@[simp] theorem updSpan_tierGb (s : State) (id : Nat) (f : Span → Span) : (updSpan s id f).tierGb = s.tierGb := rfl
@[simp] theorem updSpan_tierPorts (s : State) (id : Nat) (f : Span → Span) : (updSpan s id f).tierPorts = s.tierPorts := rfl
@[simp] theorem updSpan_tierDown (s : State) (id : Nat) (f : Span → Span) : (updSpan s id f).tierDown = s.tierDown := rfl
@[simp] theorem updSpan_device (s : State) (id : Nat) (f : Span → Span) : (updSpan s id f).device = s.device := rfl
@[simp] theorem updSpan_paths (s : State) (id : Nat) (f : Span → Span) : (updSpan s id f).paths = s.paths := rfl
@[simp] theorem updSpan_rootHash (s : State) (id : Nat) (f : Span → Span) : (updSpan s id f).rootHash = s.rootHash := rfl
@[simp] theorem updSpan_flash (s : State) (id : Nat) (f : Span → Span) : (updSpan s id f).flash = s.flash := rfl
@[simp] theorem updSpan_boot (s : State) (id : Nat) (f : Span → Span) : (updSpan s id f).boot = s.boot := rfl
@[simp] theorem updSpan_ports (s : State) (id : Nat) (f : Span → Span) : (updSpan s id f).ports = s.ports := rfl
@[simp] theorem updSpan_hostErr (s : State) (id : Nat) (f : Span → Span) : (updSpan s id f).hostErr = s.hostErr := rfl
@[simp] theorem updSpan_hostUp (s : State) (id : Nat) (f : Span → Span) : (updSpan s id f).hostUp = s.hostUp := rfl
@[simp] theorem updSpan_powerLimit (s : State) (id : Nat) (f : Span → Span) : (updSpan s id f).powerLimit = s.powerLimit := rfl
@[simp] theorem updSpan_throttled (s : State) (id : Nat) (f : Span → Span) : (updSpan s id f).throttled = s.throttled := rfl
@[simp] theorem updSpan_hot (s : State) (id : Nat) (f : Span → Span) : (updSpan s id f).hot = s.hot := rfl
@[simp] theorem updSpan_meas (s : State) (id : Nat) (f : Span → Span) : (updSpan s id f).meas = s.meas := rfl
@[simp] theorem updSpan_attempt (s : State) (id : Nat) (f : Span → Span) : (updSpan s id f).attempt = s.attempt := rfl
@[simp] theorem updSpan_coreMap (s : State) (id : Nat) (f : Span → Span) : (updSpan s id f).coreMap = s.coreMap := rfl
@[simp] theorem updSpan_homes (s : State) (id : Nat) (f : Span → Span) : (updSpan s id f).homes = s.homes := rfl
@[simp] theorem updSpan_mapSeq (s : State) (id : Nat) (f : Span → Span) : (updSpan s id f).mapSeq = s.mapSeq := rfl
@[simp] theorem updSpan_mapFlash (s : State) (id : Nat) (f : Span → Span) : (updSpan s id f).mapFlash = s.mapFlash := rfl
@[simp] theorem updSpan_mapCopy (s : State) (id : Nat) (f : Span → Span) : (updSpan s id f).mapCopy = s.mapCopy := rfl
@[simp] theorem updSpan_badSpares (s : State) (id : Nat) (f : Span → Span) : (updSpan s id f).badSpares = s.badSpares := rfl
@[simp] theorem updSpan_spares (s : State) (id : Nat) (f : Span → Span) : (updSpan s id f).spares = s.spares := rfl
@[simp] theorem updSpan_retire (s : State) (id : Nat) (f : Span → Span) : (updSpan s id f).retire = s.retire := rfl
@[simp] theorem updLaunch_serving (s : State) (id : Nat) (f : Launch → Launch) : (updLaunch s id f).serving = s.serving := rfl
@[simp] theorem updLaunch_tierGb (s : State) (id : Nat) (f : Launch → Launch) : (updLaunch s id f).tierGb = s.tierGb := rfl
@[simp] theorem updLaunch_tierPorts (s : State) (id : Nat) (f : Launch → Launch) : (updLaunch s id f).tierPorts = s.tierPorts := rfl
@[simp] theorem updLaunch_tierDown (s : State) (id : Nat) (f : Launch → Launch) : (updLaunch s id f).tierDown = s.tierDown := rfl
@[simp] theorem updLaunch_device (s : State) (id : Nat) (f : Launch → Launch) : (updLaunch s id f).device = s.device := rfl
@[simp] theorem updLaunch_paths (s : State) (id : Nat) (f : Launch → Launch) : (updLaunch s id f).paths = s.paths := rfl
@[simp] theorem updLaunch_rootHash (s : State) (id : Nat) (f : Launch → Launch) : (updLaunch s id f).rootHash = s.rootHash := rfl
@[simp] theorem updLaunch_flash (s : State) (id : Nat) (f : Launch → Launch) : (updLaunch s id f).flash = s.flash := rfl
@[simp] theorem updLaunch_boot (s : State) (id : Nat) (f : Launch → Launch) : (updLaunch s id f).boot = s.boot := rfl
@[simp] theorem updLaunch_ports (s : State) (id : Nat) (f : Launch → Launch) : (updLaunch s id f).ports = s.ports := rfl
@[simp] theorem updLaunch_hostErr (s : State) (id : Nat) (f : Launch → Launch) : (updLaunch s id f).hostErr = s.hostErr := rfl
@[simp] theorem updLaunch_hostUp (s : State) (id : Nat) (f : Launch → Launch) : (updLaunch s id f).hostUp = s.hostUp := rfl
@[simp] theorem updLaunch_powerLimit (s : State) (id : Nat) (f : Launch → Launch) : (updLaunch s id f).powerLimit = s.powerLimit := rfl
@[simp] theorem updLaunch_throttled (s : State) (id : Nat) (f : Launch → Launch) : (updLaunch s id f).throttled = s.throttled := rfl
@[simp] theorem updLaunch_hot (s : State) (id : Nat) (f : Launch → Launch) : (updLaunch s id f).hot = s.hot := rfl
@[simp] theorem updLaunch_meas (s : State) (id : Nat) (f : Launch → Launch) : (updLaunch s id f).meas = s.meas := rfl
@[simp] theorem updLaunch_attempt (s : State) (id : Nat) (f : Launch → Launch) : (updLaunch s id f).attempt = s.attempt := rfl
@[simp] theorem updLaunch_coreMap (s : State) (id : Nat) (f : Launch → Launch) : (updLaunch s id f).coreMap = s.coreMap := rfl
@[simp] theorem updLaunch_homes (s : State) (id : Nat) (f : Launch → Launch) : (updLaunch s id f).homes = s.homes := rfl
@[simp] theorem updLaunch_mapSeq (s : State) (id : Nat) (f : Launch → Launch) : (updLaunch s id f).mapSeq = s.mapSeq := rfl
@[simp] theorem updLaunch_mapFlash (s : State) (id : Nat) (f : Launch → Launch) : (updLaunch s id f).mapFlash = s.mapFlash := rfl
@[simp] theorem updLaunch_mapCopy (s : State) (id : Nat) (f : Launch → Launch) : (updLaunch s id f).mapCopy = s.mapCopy := rfl
@[simp] theorem updLaunch_badSpares (s : State) (id : Nat) (f : Launch → Launch) : (updLaunch s id f).badSpares = s.badSpares := rfl
@[simp] theorem updLaunch_spares (s : State) (id : Nat) (f : Launch → Launch) : (updLaunch s id f).spares = s.spares := rfl
@[simp] theorem updLaunch_retire (s : State) (id : Nat) (f : Launch → Launch) : (updLaunch s id f).retire = s.retire := rfl
@[simp] theorem updCtx_serving (s : State) (id : Nat) (f : Ctx → Ctx) : (updCtx s id f).serving = s.serving := rfl
@[simp] theorem updCtx_tierGb (s : State) (id : Nat) (f : Ctx → Ctx) : (updCtx s id f).tierGb = s.tierGb := rfl
@[simp] theorem updCtx_tierPorts (s : State) (id : Nat) (f : Ctx → Ctx) : (updCtx s id f).tierPorts = s.tierPorts := rfl
@[simp] theorem updCtx_tierDown (s : State) (id : Nat) (f : Ctx → Ctx) : (updCtx s id f).tierDown = s.tierDown := rfl
@[simp] theorem updCtx_device (s : State) (id : Nat) (f : Ctx → Ctx) : (updCtx s id f).device = s.device := rfl
@[simp] theorem updCtx_paths (s : State) (id : Nat) (f : Ctx → Ctx) : (updCtx s id f).paths = s.paths := rfl
@[simp] theorem updCtx_rootHash (s : State) (id : Nat) (f : Ctx → Ctx) : (updCtx s id f).rootHash = s.rootHash := rfl
@[simp] theorem updCtx_flash (s : State) (id : Nat) (f : Ctx → Ctx) : (updCtx s id f).flash = s.flash := rfl
@[simp] theorem updCtx_boot (s : State) (id : Nat) (f : Ctx → Ctx) : (updCtx s id f).boot = s.boot := rfl
@[simp] theorem updCtx_ports (s : State) (id : Nat) (f : Ctx → Ctx) : (updCtx s id f).ports = s.ports := rfl
@[simp] theorem updCtx_hostErr (s : State) (id : Nat) (f : Ctx → Ctx) : (updCtx s id f).hostErr = s.hostErr := rfl
@[simp] theorem updCtx_hostUp (s : State) (id : Nat) (f : Ctx → Ctx) : (updCtx s id f).hostUp = s.hostUp := rfl
@[simp] theorem updCtx_powerLimit (s : State) (id : Nat) (f : Ctx → Ctx) : (updCtx s id f).powerLimit = s.powerLimit := rfl
@[simp] theorem updCtx_throttled (s : State) (id : Nat) (f : Ctx → Ctx) : (updCtx s id f).throttled = s.throttled := rfl
@[simp] theorem updCtx_hot (s : State) (id : Nat) (f : Ctx → Ctx) : (updCtx s id f).hot = s.hot := rfl
@[simp] theorem updCtx_meas (s : State) (id : Nat) (f : Ctx → Ctx) : (updCtx s id f).meas = s.meas := rfl
@[simp] theorem updCtx_attempt (s : State) (id : Nat) (f : Ctx → Ctx) : (updCtx s id f).attempt = s.attempt := rfl
@[simp] theorem updCtx_coreMap (s : State) (id : Nat) (f : Ctx → Ctx) : (updCtx s id f).coreMap = s.coreMap := rfl
@[simp] theorem updCtx_homes (s : State) (id : Nat) (f : Ctx → Ctx) : (updCtx s id f).homes = s.homes := rfl
@[simp] theorem updCtx_mapSeq (s : State) (id : Nat) (f : Ctx → Ctx) : (updCtx s id f).mapSeq = s.mapSeq := rfl
@[simp] theorem updCtx_mapFlash (s : State) (id : Nat) (f : Ctx → Ctx) : (updCtx s id f).mapFlash = s.mapFlash := rfl
@[simp] theorem updCtx_mapCopy (s : State) (id : Nat) (f : Ctx → Ctx) : (updCtx s id f).mapCopy = s.mapCopy := rfl
@[simp] theorem updCtx_badSpares (s : State) (id : Nat) (f : Ctx → Ctx) : (updCtx s id f).badSpares = s.badSpares := rfl
@[simp] theorem updCtx_spares (s : State) (id : Nat) (f : Ctx → Ctx) : (updCtx s id f).spares = s.spares := rfl
@[simp] theorem updCtx_retire (s : State) (id : Nat) (f : Ctx → Ctx) : (updCtx s id f).retire = s.retire := rfl
@[simp] theorem updCore_serving (s : State) (id : Nat) (f : Core → Core) : (updCore s id f).serving = s.serving := rfl
@[simp] theorem updCore_tierGb (s : State) (id : Nat) (f : Core → Core) : (updCore s id f).tierGb = s.tierGb := rfl
@[simp] theorem updCore_tierPorts (s : State) (id : Nat) (f : Core → Core) : (updCore s id f).tierPorts = s.tierPorts := rfl
@[simp] theorem updCore_tierDown (s : State) (id : Nat) (f : Core → Core) : (updCore s id f).tierDown = s.tierDown := rfl
@[simp] theorem updCore_device (s : State) (id : Nat) (f : Core → Core) : (updCore s id f).device = s.device := rfl
@[simp] theorem updCore_paths (s : State) (id : Nat) (f : Core → Core) : (updCore s id f).paths = s.paths := rfl
@[simp] theorem updCore_rootHash (s : State) (id : Nat) (f : Core → Core) : (updCore s id f).rootHash = s.rootHash := rfl
@[simp] theorem updCore_flash (s : State) (id : Nat) (f : Core → Core) : (updCore s id f).flash = s.flash := rfl
@[simp] theorem updCore_boot (s : State) (id : Nat) (f : Core → Core) : (updCore s id f).boot = s.boot := rfl
@[simp] theorem updCore_ports (s : State) (id : Nat) (f : Core → Core) : (updCore s id f).ports = s.ports := rfl
@[simp] theorem updCore_hostErr (s : State) (id : Nat) (f : Core → Core) : (updCore s id f).hostErr = s.hostErr := rfl
@[simp] theorem updCore_hostUp (s : State) (id : Nat) (f : Core → Core) : (updCore s id f).hostUp = s.hostUp := rfl
@[simp] theorem updCore_powerLimit (s : State) (id : Nat) (f : Core → Core) : (updCore s id f).powerLimit = s.powerLimit := rfl
@[simp] theorem updCore_throttled (s : State) (id : Nat) (f : Core → Core) : (updCore s id f).throttled = s.throttled := rfl
@[simp] theorem updCore_hot (s : State) (id : Nat) (f : Core → Core) : (updCore s id f).hot = s.hot := rfl
@[simp] theorem updCore_meas (s : State) (id : Nat) (f : Core → Core) : (updCore s id f).meas = s.meas := rfl
@[simp] theorem updCore_attempt (s : State) (id : Nat) (f : Core → Core) : (updCore s id f).attempt = s.attempt := rfl
@[simp] theorem updCore_coreMap (s : State) (id : Nat) (f : Core → Core) : (updCore s id f).coreMap = s.coreMap := rfl
@[simp] theorem updCore_homes (s : State) (id : Nat) (f : Core → Core) : (updCore s id f).homes = s.homes := rfl
@[simp] theorem updCore_mapSeq (s : State) (id : Nat) (f : Core → Core) : (updCore s id f).mapSeq = s.mapSeq := rfl
@[simp] theorem updCore_mapFlash (s : State) (id : Nat) (f : Core → Core) : (updCore s id f).mapFlash = s.mapFlash := rfl
@[simp] theorem updCore_mapCopy (s : State) (id : Nat) (f : Core → Core) : (updCore s id f).mapCopy = s.mapCopy := rfl
@[simp] theorem updCore_badSpares (s : State) (id : Nat) (f : Core → Core) : (updCore s id f).badSpares = s.badSpares := rfl
@[simp] theorem updCore_spares (s : State) (id : Nat) (f : Core → Core) : (updCore s id f).spares = s.spares := rfl
@[simp] theorem updCore_retire (s : State) (id : Nat) (f : Core → Core) : (updCore s id f).retire = s.retire := rfl
@[simp] theorem updPart_serving (s : State) (id : Nat) (f : Part → Part) : (updPart s id f).serving = s.serving := rfl
@[simp] theorem updPart_tierGb (s : State) (id : Nat) (f : Part → Part) : (updPart s id f).tierGb = s.tierGb := rfl
@[simp] theorem updPart_tierPorts (s : State) (id : Nat) (f : Part → Part) : (updPart s id f).tierPorts = s.tierPorts := rfl
@[simp] theorem updPart_tierDown (s : State) (id : Nat) (f : Part → Part) : (updPart s id f).tierDown = s.tierDown := rfl
@[simp] theorem updPart_device (s : State) (id : Nat) (f : Part → Part) : (updPart s id f).device = s.device := rfl
@[simp] theorem updPart_paths (s : State) (id : Nat) (f : Part → Part) : (updPart s id f).paths = s.paths := rfl
@[simp] theorem updPart_rootHash (s : State) (id : Nat) (f : Part → Part) : (updPart s id f).rootHash = s.rootHash := rfl
@[simp] theorem updPart_flash (s : State) (id : Nat) (f : Part → Part) : (updPart s id f).flash = s.flash := rfl
@[simp] theorem updPart_boot (s : State) (id : Nat) (f : Part → Part) : (updPart s id f).boot = s.boot := rfl
@[simp] theorem updPart_ports (s : State) (id : Nat) (f : Part → Part) : (updPart s id f).ports = s.ports := rfl
@[simp] theorem updPart_hostErr (s : State) (id : Nat) (f : Part → Part) : (updPart s id f).hostErr = s.hostErr := rfl
@[simp] theorem updPart_hostUp (s : State) (id : Nat) (f : Part → Part) : (updPart s id f).hostUp = s.hostUp := rfl
@[simp] theorem updPart_powerLimit (s : State) (id : Nat) (f : Part → Part) : (updPart s id f).powerLimit = s.powerLimit := rfl
@[simp] theorem updPart_throttled (s : State) (id : Nat) (f : Part → Part) : (updPart s id f).throttled = s.throttled := rfl
@[simp] theorem updPart_hot (s : State) (id : Nat) (f : Part → Part) : (updPart s id f).hot = s.hot := rfl
@[simp] theorem updPart_meas (s : State) (id : Nat) (f : Part → Part) : (updPart s id f).meas = s.meas := rfl
@[simp] theorem updPart_attempt (s : State) (id : Nat) (f : Part → Part) : (updPart s id f).attempt = s.attempt := rfl
@[simp] theorem updPart_coreMap (s : State) (id : Nat) (f : Part → Part) : (updPart s id f).coreMap = s.coreMap := rfl
@[simp] theorem updPart_homes (s : State) (id : Nat) (f : Part → Part) : (updPart s id f).homes = s.homes := rfl
@[simp] theorem updPart_mapSeq (s : State) (id : Nat) (f : Part → Part) : (updPart s id f).mapSeq = s.mapSeq := rfl
@[simp] theorem updPart_mapFlash (s : State) (id : Nat) (f : Part → Part) : (updPart s id f).mapFlash = s.mapFlash := rfl
@[simp] theorem updPart_mapCopy (s : State) (id : Nat) (f : Part → Part) : (updPart s id f).mapCopy = s.mapCopy := rfl
@[simp] theorem updPart_badSpares (s : State) (id : Nat) (f : Part → Part) : (updPart s id f).badSpares = s.badSpares := rfl
@[simp] theorem updPart_spares (s : State) (id : Nat) (f : Part → Part) : (updPart s id f).spares = s.spares := rfl
@[simp] theorem updPart_retire (s : State) (id : Nat) (f : Part → Part) : (updPart s id f).retire = s.retire := rfl

/-! ### Other parts of the state -/

@[simp] theorem team_updTeam_same (s : State) (id : Nat) (f : Team → Team) : team (updTeam s id f) id = f (team s id) := by
  simp [team, updTeam, setTeam]
@[simp] theorem span_updSpan_same (s : State) (id : Nat) (f : Span → Span) : span (updSpan s id f) id = f (span s id) := by
  simp [span, updSpan]
@[simp] theorem launch_updLaunch_same (s : State) (id : Nat) (f : Launch → Launch) : launch (updLaunch s id f) id = f (launch s id) := by
  simp [launch, updLaunch]
@[simp] theorem ctx_updCtx_same (s : State) (id : Nat) (f : Ctx → Ctx) : ctx (updCtx s id f) id = f (ctx s id) := by
  simp [ctx, updCtx]
@[simp] theorem core_updCore_same (s : State) (id : Nat) (f : Core → Core) : core (updCore s id f) id = f (core s id) := by
  simp [core, updCore]
@[simp] theorem part_updPart_same (s : State) (id : Nat) (f : Part → Part) : part (updPart s id f) id = f (part s id) := by
  simp [part, updPart]

/-! ### Splits -/

theorem split_updSplit_same (g : Group) (n : Nat) (f : Split → Split) (h : (mapGet g.splits n).isSome) :
    split (updSplit g n f) n = f (split g n) := by
  obtain ⟨p, hp⟩ := Option.isSome_iff_exists.1 h
  simp [updSplit, hp, split, setSplit, mapGetD]

theorem split_updSplit_other (g : Group) {n k : Nat} (f : Split → Split) (h : k ≠ n) : split (updSplit g n f) k = split g k := by
  cases hp : mapGet g.splits n with
  | none => simp [updSplit, hp]
  | some p => simp [updSplit, hp, split, setSplit, mapGetD_mapPut_other _ _ _ h]

/-- An update of a split changes the list of splits only. -/
theorem updSplit_eq (g : Group) (n : Nat) (f : Split → Split) : updSplit g n f = { g with splits := (updSplit g n f).splits } := by
  cases hp : mapGet g.splits n with
  | none => simp [updSplit, hp]
  | some p => simp [updSplit, hp, setSplit]

@[simp] theorem updSplit_sregs (g : Group) (n : Nat) (f : Split → Split) : (updSplit g n f).sregs = g.sregs := by rw [updSplit_eq]
@[simp] theorem updSplit_vregs (g : Group) (n : Nat) (f : Split → Split) : (updSplit g n f).vregs = g.vregs := by rw [updSplit_eq]
@[simp] theorem updSplit_fly (g : Group) (n : Nat) (f : Split → Split) : (updSplit g n f).fly = g.fly := by rw [updSplit_eq]
@[simp] theorem updSplit_dead (g : Group) (n : Nat) (f : Split → Split) : (updSplit g n f).dead = g.dead := by rw [updSplit_eq]
@[simp] theorem updSplit_aslice (g : Group) (n : Nat) (f : Split → Split) : (updSplit g n f).aslice = g.aslice := by rw [updSplit_eq]

theorem isSome_updSplit (g : Group) (n k : Nat) (f : Split → Split) :
    (mapGet (updSplit g n f).splits k).isSome = (mapGet g.splits k).isSome := by
  cases hp : mapGet g.splits n with
  | none => simp [updSplit, hp]
  | some p =>
    simp only [updSplit, hp, setSplit, mapGet_mapPut]
    by_cases h : n = k
    · subst h; simp [hp]
    · simp [h]

end Sys2Proof.Machine
end

