-- ==== Sys2Proof/Laws/Guards.lean ====
section
/-! SUPPORT. What the shared wrappers of an instruction give where nothing holds the instruction back (R50, R52, R76,
R106, R124, R321, R328, R330): the meaning's own effect, and then what follows every effect. -/

namespace Sys2Proof.Machine
open Sys2Proof

/-- A ready instruction has its effect. -/
theorem ready_guard {s : State} {i : Instr} (h : ready s i = true) (f : State → State) : guarded s i f = f s := by
  simp only [ready, Bool.and_eq_true, Bool.not_eq_true'] at h
  obtain ⟨⟨⟨⟨⟨h0, h1⟩, h2⟩, h3⟩, h4⟩, h5⟩ := h
  simp only [guarded, h1, h2, h3, h4, h5, Bool.false_and, if_false, Bool.false_eq_true]

theorem ready_plainOp {s : State} {i : Instr} (h : ready s i = true) (f : State → State) :
    plainOp s i f = advance (f s) (lenOf i) := by rw [plainOp, ready_guard h]

theorem ready_plainTry {s : State} {i : Instr} (h : ready s i = true) (f : State → Eff) :
    plainTry s i f = match f s with
      | .done s dead => laneDeath (advance s (lenOf i)) s.who.1 dead 2
      | .stop s => s := by
  cases hf : f s <;> simp only [plainTry, ready_guard h, hf]

theorem ready_laneOp {s : State} {i : Instr} (h : ready s i = true) {a b : Option Reg} {fa fb : Nat → Word} {bad : Lanes}
    (hs : sources s a b = .go fa fb bad) (eff : State → Lanes → (Nat → Word) → (Nat → Word) → State) :
    laneOp s i a b eff = takePops (advance (eff s (acting s bad) fa fb) (lenOf i)) (usesOf i) (active (me s) s.who.2) bad := by
  rw [laneOp, ready_guard h]; simp only [hs, acting]

theorem ready_laneTry {s : State} {i : Instr} (h : ready s i = true) {a b : Option Reg} {fa fb : Nat → Word} {bad : Lanes}
    (hs : sources s a b = .go fa fb bad) (eff : State → Lanes → (Nat → Word) → (Nat → Word) → Eff) :
    laneTry s i a b eff = match eff s (acting s bad) fa fb with
      | .stop s => s
      | .done s' dead => takePops (advance s' (lenOf i)) (usesOf i) (active (me s) s.who.2) (bad ||| dead) := by
  cases hf : eff s (acting s bad) fa fb <;> (simp only [acting] at hf; simp only [laneTry, ready_guard h, hs, hf])

/-- An instruction that names no vector source gets none. -/
theorem sources_none (s : State) : sources s none none = .go (fun _ => 0) (fun _ => 0) 0 := by
  simp only [sources]; split <;> rfl

/-! ### Two updates of one group -/

theorem mapPut_mapPut_same {β : Type} (m : AMap β) (n : Nat) (v w : β) : mapPut (mapPut m n v) n w = mapPut m n w := by
  induction m with
  | nil => simp [mapPut]
  | cons e m ih =>
    obtain ⟨k, x⟩ := e
    simp only [mapPut]
    split
    · simp [mapPut]
    · split <;> rename_i h1 h2
      · subst h2; simp [mapPut]
      · simp [mapPut, h1, h2, ih]

theorem updMe_updMe (s : State) (f h : Group → Group) : updMe (updMe s f) h = updMe s fun g => h (f g) := by
  simp [updMe, updGrp, setGrp, grp, mapPut_mapPut_same]

end Sys2Proof.Machine
end

