-- ==== Sys2Proof/Laws/Memory.lean ====
section
/-! SUPPORT. Every operation that writes memory keeps its canonical form, and what a write at the home leaves elsewhere. -/

namespace Sys2Proof.Machine
open Sys2Proof

theorem reset_safe : State.reset.Safe := by decide

/-- A state with the same memory is as safe. -/
theorem Safe_of_mem {s t : State} (h : s.Safe) (e : t.mem = s.mem) : t.Safe := by
  simpa [State.Safe, Memory.wf, e] using h

/-! ### What leaves memory alone -/

@[simp] theorem touchMem_mem (s : State) (a n : Nat) : (touchMem s a n).mem = s.mem := rfl
@[simp] theorem touchSp_mem (s : State) (t a n : Nat) : (touchSp s t a n).mem = s.mem := rfl
@[simp] theorem touchWver_mem (s : State) (a n : Nat) : (touchWver s a n).mem = s.mem := rfl
@[simp] theorem poisonSector_mem (s : State) (q : Nat) : (poisonSector s q).mem = s.mem := rfl
@[simp] theorem cleanLine_mem (s : State) (c l : Nat) : (cleanLine s c l).mem = s.mem := by
  simp only [cleanLine]
  split
  · rfl
  · split <;> rfl
@[simp] theorem fillLine_mem (s : State) (c l : Nat) : (fillLine s c l).mem = s.mem := by
  simp only [fillLine]; split <;> rfl
@[simp] theorem coreRead_mem (s : State) (c pa n : Nat) (alloc : Bool) : (coreRead s c pa n alloc).1.mem = s.mem := by
  simp only [coreRead]
  split
  · split <;> cases alloc <;> simp
  · rfl
@[simp] theorem tlbFill_mem (s : State) (c cx : Nat) (va : Addr) : (tlbFill s c cx va).mem = s.mem := by
  simp only [tlbFill]
  split
  · rfl
  · split <;> rfl
@[simp] theorem holdWrite_mem (s : State) (w : HeldWrite) : (holdWrite s w).mem = s.mem := rfl

/-- A fold of steps that leave memory alone leaves it alone. -/
theorem foldl_mem {α : Type} (f : State → α → State) (hf : ∀ s a, (f s a).mem = s.mem) :
    ∀ (l : List α) (s : State), (l.foldl f s).mem = s.mem
  | [], _ => rfl
  | a :: l, s => by rw [List.foldl_cons, foldl_mem f hf l, hf]

@[simp] theorem dropClean_mem (s : State) (c : Nat) : (dropClean s c).mem = s.mem := by
  unfold dropClean
  exact foldl_mem _ (fun s (e : Nat × Line) => cleanLine_mem s c e.1) _ _
@[simp] theorem dropCleanRange_mem (s : State) (a n : Nat) : (dropCleanRange s a n).mem = s.mem := by
  unfold dropCleanRange
  exact foldl_mem _ (fun _ (e : Nat × Core) => foldl_mem _ (fun s l => cleanLine_mem s e.1 l) _ _) _ _
@[simp] theorem dropRange_mem (s : State) (c a n : Nat) : (dropRange s c a n).mem = s.mem := by
  unfold dropRange
  refine foldl_mem _ (fun s l => ?_) _ _
  dsimp only
  split <;> simp
@[simp] theorem engineDrop_mem (s : State) (c a n gid : Nat) : (engineDrop s c a n gid).mem = s.mem := by
  simp only [engineDrop]; split <;> simp
@[simp] theorem storeClean_mem (s : State) (c : Nat) (ps : List Nat) (size : Nat) (alloc : Bool) :
    (storeClean s c ps size alloc).mem = s.mem := by
  unfold storeClean
  refine foldl_mem _ (fun s q => ?_) _ _
  dsimp only
  split <;> split <;> simp
@[simp] theorem recordRelease_mem (s : State) (c : Nat) (ls : List Nat) : (recordRelease s c ls).mem = s.mem := by
  unfold recordRelease
  refine foldl_mem _ (fun s l => ?_) _ _
  first | rfl | (split <;> rfl)

/-! ### What writes memory -/

/-- A fold of steps that keep safety keeps it. -/
theorem foldl_safe {α : Type} (f : State → α → State) (hf : ∀ s a, s.Safe → (f s a).Safe) :
    ∀ (l : List α) (s : State), s.Safe → (l.foldl f s).Safe
  | [], _, h => h
  | a :: l, s, h => by rw [List.foldl_cons]; exact foldl_safe f hf l _ (hf s a h)

theorem homePut_safe (s : State) (pa : Nat) (bs : List Byte) (h : s.Safe) : (homePut s pa bs).Safe := by
  unfold homePut
  split
  · exact h
  · exact cellsWf_setBytes _ s.mem pa h

theorem homeWrite_safe (s : State) (pa : Nat) (bs : List Byte) (w : Writer) (h : s.Safe) : (homeWrite s pa bs w).Safe := by
  unfold homeWrite
  have := homePut_safe s pa bs h
  dsimp only
  split
  · exact this
  · exact Safe_of_mem this rfl

theorem writeBackLine_safe (s : State) (c l : Nat) (h : s.Safe) : (writeBackLine s c l).Safe := by
  unfold writeBackLine
  split
  · exact h
  · rename_i line _
    split
    · exact h
    · have k := homePut_safe (updCore s c fun k => { k with l1 := mapPut k.l1 l { line with dirty := 0 } }) (64 * l)
        (mergedBytes line (homeRead (updCore s c fun k => { k with l1 := mapPut k.l1 l { line with dirty := 0 } }) (64 * l) 64))
        (Safe_of_mem h rfl)
      dsimp only
      split
      · exact k
      · exact Safe_of_mem k rfl

theorem writeBackUpTo_safe (s : State) (c seq : Nat) (h : s.Safe) : (writeBackUpTo s c seq).Safe :=
  foldl_safe _ (fun s e h => writeBackLine_safe s c e.1 h) _ _ h

theorem writeBackAll_safe (s : State) (c : Nat) (h : s.Safe) : (writeBackAll s c).Safe := writeBackUpTo_safe s c _ h

theorem yieldLines_safe (s : State) (c : Nat) (ls : List Nat) (h : s.Safe) : (yieldLines s c ls).Safe :=
  foldl_safe _ (fun s l h => Safe_of_mem (writeBackLine_safe s c l h) (cleanLine_mem _ _ _)) _ _ h

theorem promote_safe (s : State) (c : Nat) (ls : List Nat) (h : s.Safe) : (promote s c ls).Safe := by
  unfold promote
  refine foldl_safe _ (fun s l h => foldl_safe _ (fun s r h => ?_) _ _ h) _ _ h
  split <;> first | exact h | exact writeBackUpTo_safe s _ _ h

theorem coreWrite_safe (s : State) (c pa : Nat) (bs : List Byte) (alloc : Bool) (h : s.Safe) : (coreWrite s c pa bs alloc).Safe := by
  unfold coreWrite
  split
  · split
    · exact Safe_of_mem h (by simp)
    · have k := homeWrite_safe s pa bs { group := s.who.1 } h
      dsimp only
      split
      · exact Safe_of_mem k rfl
      · exact k
  · exact homeWrite_safe s pa bs _ h

theorem engineWrite_safe (s : State) (c pa : Nat) (bs : List Byte) (gid : Nat) (h : s.Safe) : (engineWrite s c pa bs gid).Safe :=
  Safe_of_mem (homeWrite_safe s pa bs { cls := 1, group := gid } h) (by simp [engineWrite])

theorem writeVa_safe (s : State) (c cx : Nat) (va : Addr) (bs : List Byte) (gid : Nat) (h : s.Safe) :
    (writeVa s c cx va bs gid).Safe := by
  unfold writeVa
  refine foldl_safe _ (fun s p h => ?_) _ _ h
  dsimp only
  split
  · exact engineWrite_safe s c _ _ gid h
  · exact Safe_of_mem h rfl
  · exact h

theorem zeroRange_safe (s : State) (pa size : Nat) (h : s.Safe) : (zeroRange s pa size).Safe := cellsWf_filter _ s.mem h

theorem zeroPage_safe (s : State) (pa size : Nat) (h : s.Safe) : (zeroPage s pa size).Safe :=
  Safe_of_mem (zeroRange_safe (touchMem (touchWver s pa size) pa size) pa size (Safe_of_mem h rfl)) rfl

theorem putTable_safe (s : State) (cx : Nat) (va : Addr) (bs : List Byte) (h : s.Safe) : (putTable s cx va bs).Safe := by
  unfold putTable
  refine foldl_safe _ (fun s p h => ?_) _ _ h
  dsimp only
  split
  · exact cellsWf_setBytes _ s.mem _ h
  · exact h

/-- Showing the entries of the tables in memory keeps its form. -/
theorem showEntries_safe (s t : State) (h : t.Safe) : (showEntries s t).Safe := by
  unfold showEntries
  split
  · exact h
  · refine foldl_safe _ (fun u c h => ?_) _ _ h
    dsimp only
    split
    · exact h
    · exact foldl_safe _ (fun u e h => putTable_safe u _ _ _ h) _ _ (foldl_safe _ (fun u e h => putTable_safe u _ _ _ h) _ _ h)

theorem startState_safe (s : State) (h : s.Safe) : (startState s).Safe := cellsWf_filter _ s.mem h

/-! ### Bytes -/

/-- Where no link is down, not all are. -/
theorem not_all_down {s : State} {pa : Nat} {bs : List Byte} (hd : downIn s pa bs.length = false) (hb : bs ≠ []) :
    (unitsOf pa bs.length).all (linkDown s) = false := by
  have hn : bs.length ≠ 0 := by simpa using hb
  simp only [downIn, unitsOf, hn, if_false, List.any_cons, Bool.or_eq_false_iff] at hd
  simp [unitsOf, hn, hd.1]

/-- A byte after a write at the home: the written one inside, the old one outside (R277). -/
theorem cellGet_homePut (s : State) (pa a : Nat) (bs : List Byte) (hd : downIn s pa bs.length = false)
    (hr : refusedOutside s pa bs.length = false) :
    cellGet (homePut s pa bs).mem a = if pa ≤ a ∧ a < pa + bs.length then bs.getD (a - pa) 0 else cellGet s.mem a := by
  by_cases hb : bs = []
  · subst hb
    simp [homePut, show ¬ (pa ≤ a ∧ a < pa) by omega]
  · have he : bs.isEmpty = false := by simpa using hb
    simp only [homePut, he, not_all_down hd hb, hr, hd, Bool.or_self, Bool.false_eq_true, if_false]
    exact cellGet_setBytes bs s.mem pa a

theorem cellGet_homeWrite (s : State) (pa a : Nat) (bs : List Byte) (w : Writer) (hd : downIn s pa bs.length = false)
    (hr : refusedOutside s pa bs.length = false) :
    cellGet (homeWrite s pa bs w).mem a = if pa ≤ a ∧ a < pa + bs.length then bs.getD (a - pa) 0 else cellGet s.mem a := by
  rw [← cellGet_homePut s pa a bs hd hr]
  unfold homeWrite
  dsimp only
  split <;> rfl

/-- A write whose destination is lost changes nothing (R530, R532). -/
theorem homePut_lost (s : State) (pa : Nat) (bs : List Byte)
    (h : (unitsOf pa bs.length).all (linkDown s) = true ∨ refusedOutside s pa bs.length = true) : homePut s pa bs = s := by
  unfold homePut
  rcases h with h | h <;> simp only [h, Bool.or_true, Bool.true_or, if_true]

/-- A write part of whose links are down leaves every byte behind such a link as it was (R530). -/
theorem cellGet_homePut_down (s : State) (pa a : Nat) (bs : List Byte) (hd : linkDown s a = true) (h : downIn s pa bs.length = true) :
    cellGet (homePut s pa bs).mem a = cellGet s.mem a := by
  unfold homePut
  split
  · rfl
  · simp only [h, if_true]
    show cellGet (setBytes s.mem pa (upBytes s pa bs)) a = _
    rw [cellGet_setBytes]
    split
    · rename_i k
      have hl : (upBytes s pa bs).length = bs.length := by simp [upBytes]
      have hi : a - pa < bs.length := by omega
      simp [upBytes, List.getD, hi, show pa + (a - pa) = a by omega, hd]
    · rfl

end Sys2Proof.Machine
end

