-- ==== Sys2Proof/Laws/Registers.lean ====
section
/-! SUPPORT. What a register reads after a write of one, and what a write leaves alone. -/

namespace Sys2Proof.Machine
open Sys2Proof

/-! ### Lane sets -/

theorem beatOf_getLsbD (l : Lanes) (j i : Nat) : (beatOf l j).getLsbD i = (decide (i < 32) && l.getLsbD (32 * j + i)) := by
  simp [beatOf, BitVec.getLsbD_extractLsb']

theorem setBeat_getLsbD (l : Lanes) (j i : Nat) (v : Word) (hi : i < 96) :
    (setBeat l j v).getLsbD i = if i / 32 = j then v.getLsbD (i % 32) else l.getLsbD i := by
  have hm : (0xFFFFFFFF#96 : Lanes).getLsbD (i - 32 * j) = decide (i - 32 * j < 32) := by
    rw [show (0xFFFFFFFF#96 : Lanes) = (BitVec.allOnes 32).setWidth 96 from rfl]
    by_cases h : i - 32 * j < 32
    · have h2 : i - 32 * j < 96 := by omega
      simp only [BitVec.getLsbD_setWidth, BitVec.getLsbD_allOnes, h, h2, decide_true, Bool.and_self]
    · simp only [BitVec.getLsbD_setWidth, BitVec.getLsbD_allOnes, h, decide_false, Bool.and_false]
  simp only [setBeat, BitVec.getLsbD_or, BitVec.getLsbD_and, BitVec.getLsbD_not, BitVec.getLsbD_shiftLeft,
    BitVec.getLsbD_setWidth, hi, decide_true, Bool.true_and, hm]
  by_cases h1 : i / 32 = j
  · have h2 : ¬ i < 32 * j := by omega
    have h3 : i - 32 * j < 32 := by omega
    have h4 : i - 32 * j = i % 32 := by omega
    have h5 : i % 32 < 96 := by omega
    simp [h1, h2, h4, h5, Nat.mod_lt]
  · by_cases h2 : i < 32 * j
    · simp [h1, h2]
    · have h3 : ¬ i - 32 * j < 32 := by omega
      have h4 : v.getLsbD (i - 32 * j) = false := BitVec.getLsbD_of_ge _ _ (by omega)
      simp [h1, h2, h3, h4]

theorem beatOf_setBeat (l : Lanes) (j k : Nat) (v : Word) (hk : k < 3) :
    beatOf (setBeat l j v) k = if k = j then v else beatOf l k := by
  apply BitVec.eq_of_getLsbD_eq
  intro i hi
  rw [beatOf_getLsbD, setBeat_getLsbD _ _ _ _ (by omega)]
  have h1 : (32 * k + i) / 32 = k := by omega
  have h2 : (32 * k + i) % 32 = i := by omega
  simp only [hi, decide_true, Bool.true_and, h1, h2]
  by_cases h : k = j
  · simp [h]
  · rw [if_neg h, if_neg h, beatOf_getLsbD]; simp only [hi, decide_true, Bool.true_and]

theorem beatOf_and (a b : Lanes) (j : Nat) : beatOf (a &&& b) j = beatOf a j &&& beatOf b j := by
  apply BitVec.eq_of_getLsbD_eq
  intro i hi
  simp only [beatOf_getLsbD, BitVec.getLsbD_and]
  cases decide (i < 32) <;> simp

/-! ### Scalar registers -/

/-- A write changes registers, the splits' `am`, or the address slice, and nothing else. -/
theorem putS_eq (g : Group) (st : Stream) (r : Nat) (v : Word) :
    putS g st r v = { g with sregs := (putS g st r v).sregs, splits := (putS g st r v).splits, aslice := (putS g st r v).aslice } := by
  cases st with
  | aslice => simp only [putS]; split <;> rfl
  | split n =>
    simp only [putS]
    split
    · rfl
    · split
      · simpa only [updSplit_sregs, updSplit_aslice] using updSplit_eq g n _
      · rfl

theorem writeS_eq (g : Group) (st : Stream) (r : Nat) (v : Word) :
    writeS g st r v = { g with sregs := (writeS g st r v).sregs, splits := (writeS g st r v).splits,
                               aslice := (writeS g st r v).aslice, fly := (writeS g st r v).fly } := by
  simp only [writeS]; rw [putS_eq]

@[simp] theorem writeS_vregs (g : Group) (st : Stream) (r : Nat) (v : Word) : (writeS g st r v).vregs = g.vregs := by rw [writeS_eq]
@[simp] theorem writeS_dead (g : Group) (st : Stream) (r : Nat) (v : Word) : (writeS g st r v).dead = g.dead := by rw [writeS_eq]
@[simp] theorem writeS_readV (g : Group) (st : Stream) (r : Nat) (v : Word) (k i : Nat) : readV (writeS g st r v) k i = readV g k i := by
  simp [readV]

@[simp] theorem readS_zero (g : Group) (st : Stream) : readS g st 0 = 0 := by cases st <;> simp [readS]

theorem putS_zero (g : Group) (st : Stream) (v : Word) : putS g st 0 v = g := by cases st <;> simp [putS]

@[simp] theorem readS_fly (g : Group) (fly : List Fly) (st : Stream) (r : Nat) : readS { g with fly := fly } st r = readS g st r := by
  cases st <;> rfl

/-- A register reads what was written: s0 is zero, `am` registers hold the value ANDed with membership. -/
theorem readS_putS_same (g : Group) (n r : Nat) (v : Word) (h1 : 1 ≤ r) (h2 : r ≤ 60) : readS (putS g (.split n) r v) (.split n) r = v := by
  have h3 : ¬ r = 0 := by omega
  have h4 : ¬ 61 ≤ r := by omega
  simp [readS, putS, h3, h4]

theorem readS_putS_am (g : Group) (n r : Nat) (v : Word) (h1 : 61 ≤ r) (h2 : r ≤ 63) (hs : (mapGet g.splits n).isSome) :
    readS (putS g (.split n) r v) (.split n) r = v &&& beatOf (split g n).members (r - 61) := by
  have h3 : ¬ r = 0 := by omega
  simp only [readS, putS, h3, h1, if_true, if_false, split_updSplit_same g n _ hs]
  rw [beatOf_setBeat _ _ _ _ (by omega), if_pos rfl]

/-- Any other register reads as before. -/
theorem readS_putS_other (g : Group) (st : Stream) (r k : Nat) (v : Word) (h : k ≠ r) (hr : r ≤ 63) (hk : k ≤ 63) :
    readS (putS g st r v) st k = readS g st k := by
  cases st with
  | aslice =>
    simp only [readS, putS]
    by_cases h0 : k = 0
    · simp [h0]
    · by_cases h1 : r = 0
      · simp [h0, h1]
      · simp only [h0, h1, if_false]
        show cellGet (slice _).sregs k = _
        simp [slice, cellGet_cellSet_other _ _ h]
  | split n =>
    simp only [readS, putS]
    by_cases h0 : k = 0
    · simp [h0]
    · by_cases h1 : r = 0
      · simp [h0, h1]
      · by_cases h2 : 61 ≤ r
        · by_cases h3 : 61 ≤ k
          · simp only [h0, h1, h2, h3, if_true, if_false]
            by_cases hs : (mapGet g.splits n).isSome
            · rw [split_updSplit_same g n _ hs, beatOf_setBeat _ _ _ _ (by omega), if_neg (by omega)]
            · have : mapGet g.splits n = none := by simpa using hs
              simp [updSplit, this]
          · simp [h0, h1, h2, h3]
        · by_cases h3 : 61 ≤ k
          · simp [h0, h1, h2, h3, split]
          · simp [h0, h1, h2, h3, cellGet_cellSet_other _ _ h]

/-! ### Vector registers -/

theorem cellGet_putLanes (k : Nat) (f : Nat → Word) : ∀ (is : List Nat) (m : Cells 32) (j i : Nat), i < 96 → (∀ x ∈ is, x < 96) →
    cellGet (putLanes m k is f) (96 * j + i) = if j = k ∧ i ∈ is then f i else cellGet m (96 * j + i) := by
  intro is
  induction is with
  | nil => intro m j i _ _; simp [putLanes]
  | cons x xs ih =>
    intro m j i hi hx
    have hx96 : x < 96 := hx x (by simp)
    rw [putLanes, ih _ j i hi (fun y hy => hx y (List.mem_cons_of_mem _ hy)), cellGet_cellSet]
    by_cases hj : j = k
    · subst hj
      by_cases h1 : i ∈ xs
      · simp [h1]
      · by_cases h2 : x = i
        · subst h2; simp
        · have h3 : ¬ 96 * j + x = 96 * j + i := by omega
          rw [if_neg (by simp [h1]), if_neg h3, if_neg (by simp [h1, Ne.symm h2])]
    · have h3 : ¬ 96 * k + x = 96 * j + i := by omega
      simp [hj, h3]

theorem mem_lanesOf (l : Lanes) (i : Nat) : i ∈ lanesOf l ↔ i < 96 ∧ l.getLsbD i = true := by simp [lanesOf]

/-- What a lane reads after a write of a vector register. -/
theorem readV_writeV (g : Group) (k j i : Nat) (lanes : Lanes) (f : Nat → Word) (hi : i < 96) :
    readV (writeV g k lanes f) j i = if j = k ∧ lanes.getLsbD i = true ∧ g.dead.getLsbD i = false then f i else readV g j i := by
  simp only [readV, writeV, putV]
  rw [cellGet_putLanes k f _ _ j i hi (fun x hx => ((mem_lanesOf _ x).1 hx).1)]
  simp only [mem_lanesOf, BitVec.getLsbD_and, BitVec.getLsbD_not, hi, decide_true, Bool.true_and, Bool.and_eq_true, Bool.not_eq_true', true_and]

theorem writeV_eq (g : Group) (k : Nat) (lanes : Lanes) (f : Nat → Word) :
    writeV g k lanes f = { g with vregs := (writeV g k lanes f).vregs, fly := (writeV g k lanes f).fly } := rfl

@[simp] theorem readS_writeV (g : Group) (k : Nat) (lanes : Lanes) (f : Nat → Word) (st : Stream) (r : Nat) :
    readS (writeV g k lanes f) st r = readS g st r := by cases st <;> rfl

/-- The cross-lane read of a lane (R130). -/
theorem crossV_eq (g : Group) (k j : Nat) : crossV g k j = if 96 ≤ j ∨ g.dead.getLsbD j = true then 0 else readV g k j := by
  simp [crossV]

end Sys2Proof.Machine
end

