-- ==== Sys2Proof/Laws/Streams.lean ====
section
/-! SUPPORT. How the issuing stream moves: going on, jumping and waiting set the program counter and the wait of that
stream, and nothing else of the machine. -/

namespace Sys2Proof.Machine
open Sys2Proof

/-- The stream exists in the group. -/
def inGroup (g : Group) : Stream → Prop
  | .split n => (mapGet g.splits n).isSome = true
  | .aslice => g.aslice.isSome = true

theorem pcOf_setPc (g : Group) (st : Stream) (pc : Word) (h : inGroup g st) : pcOf (setPc g st pc) st = pc := by
  cases st with
  | split n => simp [pcOf, setPc, split_updSplit_same g n _ h]
  | aslice => simp [pcOf, setPc, slice]

theorem waitOf_setWait (g : Group) (st : Stream) (w : Option Wait) (h : inGroup g st) : waitOf (setWait g st w) st = w := by
  cases st with
  | split n => simp [waitOf, setWait, split_updSplit_same g n _ h]
  | aslice => simp [waitOf, setWait, slice]

theorem inGroup_setPc (g : Group) (st : Stream) (pc : Word) (h : inGroup g st) : inGroup (setPc g st pc) st := by
  cases st with
  | split n => simpa [inGroup, setPc, isSome_updSplit] using h
  | aslice => simp [inGroup, setPc]

theorem pcOf_setWait (g : Group) (st : Stream) (w : Option Wait) : pcOf (setWait g st w) st = pcOf g st := by
  cases st with
  | split n =>
    cases hp : mapGet g.splits n with
    | none => simp [pcOf, setWait, updSplit, hp]
    | some p => simp [pcOf, setWait, updSplit, hp, split, setSplit, mapGetD]
  | aslice => simp [pcOf, setWait, slice]

theorem pcOf_bump (g : Group) (st : Stream) (len : Nat) (h : inGroup g st) : pcOf (bump g st len) st = nextPc (pcOf g st) len := by
  rw [bump, pcOf_setWait, pcOf_setPc g st _ h]

theorem waitOf_bump (g : Group) (st : Stream) (len : Nat) (h : inGroup g st) : waitOf (bump g st len) st = none := by
  rw [bump, waitOf_setWait _ st _ (inGroup_setPc g st _ h)]

/-- What moving a stream on changes of its group. -/
theorem bump_eq (g : Group) (st : Stream) (len : Nat) :
    bump g st len = { g with splits := (bump g st len).splits, aslice := (bump g st len).aslice } := by
  cases st with
  | split n =>
    cases hp : mapGet g.splits n <;> simp [bump, setWait, setPc, updSplit, setSplit, hp]
  | aslice => rfl

@[simp] theorem bump_sregs (g : Group) (st : Stream) (len : Nat) : (bump g st len).sregs = g.sregs := by rw [bump_eq]
@[simp] theorem bump_vregs (g : Group) (st : Stream) (len : Nat) : (bump g st len).vregs = g.vregs := by rw [bump_eq]
@[simp] theorem bump_fly (g : Group) (st : Stream) (len : Nat) : (bump g st len).fly = g.fly := by rw [bump_eq]
@[simp] theorem bump_dead (g : Group) (st : Stream) (len : Nat) : (bump g st len).dead = g.dead := by rw [bump_eq]
@[simp] theorem readV_bump (g : Group) (st : Stream) (len k i : Nat) : readV (bump g st len) k i = readV g k i := by
  simp [readV]

theorem am_updSplit (g : Group) (n m : Nat) (f : Split → Split) (hf : ∀ p, (f p).am = p.am) :
    (split (updSplit g n f) m).am = (split g m).am := by
  by_cases h : m = n
  · subst h
    cases hp : mapGet g.splits m with
    | none => simp [updSplit, hp]
    | some p => simp [updSplit, hp, split, setSplit, mapGetD, hf]
  · rw [split_updSplit_other g f h]

/-- Moving a stream on changes no scalar register. -/
theorem readS_bump (g : Group) (st p : Stream) (len r : Nat) : readS (bump g st len) p r = readS g p r := by
  cases st with
  | split n =>
    cases p with
    | split m =>
      simp only [bump, setWait, setPc, readS, updSplit_sregs]
      rw [am_updSplit, am_updSplit] <;> exact fun _ => rfl
    | aslice => simp [bump, setWait, setPc, readS, slice]
  | aslice =>
    cases p with
    | split m => simp [bump, setWait, setPc, readS, split]
    | aslice => simp [bump, setWait, setPc, readS, slice]

/-- Going on: the next program counter, no wait, no register and no byte changed. -/
theorem me_advance (s : State) (len : Nat) : me (advance s len) = bump (me s) s.who.2 len := me_updMe s _
theorem me_block (s : State) (w : Wait) : me (block s w) = setWait (me s) s.who.2 (some w) := me_updMe s _
theorem me_goTo (s : State) (pc : Word) : me (goTo s pc) = setWait (setPc (me s) s.who.2 pc) s.who.2 none := me_updMe s _

theorem advance_goesOn (s : State) (len : Nat) (h : inGroup (me s) s.who.2) : GoesOn s (advance s len) len := by
  simp only [GoesOn, me_advance]
  exact ⟨pcOf_bump _ _ _ h, waitOf_bump _ _ _ h⟩

theorem advance_keeps (s : State) (len : Nat) : KeepsScalars s (advance s len) [] ∧ KeepsVectors s (advance s len) [] ∧ KeepsBytes s (advance s len) := by
  refine ⟨fun r _ => ?_, fun k i _ _ => ?_, fun a => rfl⟩
  · rw [me_advance]; exact readS_bump _ _ _ _ _
  · rw [me_advance]; exact readV_bump _ _ _ _ _

/-- An instruction that is ready has its stream. -/
theorem inGroup_of_ready (s : State) (i : Instr) (h : ready s i = true) : inGroup (me s) s.who.2 := by
  simp only [ready, Bool.and_eq_true] at h
  have := h.1.1.1.1.1
  cases hw : s.who.2 <;> simpa [hasStream, hw, inGroup] using this

end Sys2Proof.Machine
end

