-- ==== Sys2Proof/Tests/Slice0.lean ====
section
/-! SUPPORT. The model's own tests: every encoded instruction's word written out from the spec's encoding, ill-formed terms
refused, single steps with values of the spec, and for each statement a state and operands that meet its hypotheses. -/

namespace Sys2Proof.Tests
open Sys2Proof Sys2Proof.Machine
set_option maxRecDepth 20000

/-! ### The words the spec itself writes out (the worked encodings that close its chapters) -/

/-- Each word, of the given number of bits, is the instruction beside it. -/
def reads (xs : List (Nat × Nat × Instr)) : Bool := xs.all fun x => decodeTableWord x.1 x.2.1 == some x.2.2

/-- spec/02, spec/04, spec/05. -/
theorem words_scalar : reads [
    (16, 0x4862, .vadd_16 ⟨9, 3⟩), (32, 0x14000C49, .nops ⟨5, 0, 0, 0, 0⟩), (32, 0x00504449, .jfnc ⟨0, 5, 1, 0, 0⟩),
    (32, 0xFFF1FA29, .sli ⟨0x1FFFD, 7, 0⟩), (32, 0xFFF00041, .bra ⟨0x3FFC, 0, 0⟩), (32, 0x18412001, .sadd ⟨6, 4, 4, 2, 0⟩),
    (32, 0xFC71C011, .saddImm ⟨63, 7, 7, 0, 0⟩), (32, 0x20324419, .scmp 2 ⟨8, 3, 9, 0, 0⟩), (32, 0x08C28239, .sld_64 ⟨2, 12, 10, 0, 0⟩),
    (32, 0x28014159, .srd ⟨10, 0, 5, 0, 0⟩), (32, 0x08014149, .racq ⟨2, 0, 5, 0, 0⟩), (32, 0x08015149, .racq ⟨2, 0, 5, 1, 0⟩),
    (32, 0x08000349, .rrel ⟨2, 0, 0, 0, 0⟩), (32, 0x00018549, .rqry ⟨0, 0, 6, 0, 0⟩)] = true := by decide

/-- spec/06, spec/08, spec/11, spec/13. -/
theorem words_tails : reads [
    (64, 0x00000083282100C9, .vqblk ⟨10, 2, 4, 0, 0⟩ 0x83), (64, 0x00000003284182C9, .vdqblk ⟨10, 4, 6, 0, 0⟩ 3),
    (64, 0x0000006008400151, .ebeq ⟨2, 4, 0, 0, 0⟩ 0x60), (64, 0x000000600841C351, .eclm ⟨2, 4, 7, 0, 0⟩ 0x60),
    (64, 0x0000004020301B51, .phend ⟨8, 3, 0, 1, 0⟩ 0x40), (64, 0x4400200010614119, .atom 0 ⟨4, 6, 5, 0, 0⟩ 0x44002000),
    (64, 0x2E0024001061D919, .atom 4 ⟨4, 6, 7, 1, 0⟩ 0x2E002400), (64, 0x07140C0028421181, .cpy ⟨10, 4, 8, 1, 0⟩ 0x07140C00),
    (64, 0x0000000028021D81, .cpyz ⟨10, 0, 8, 1, 0⟩ 0)] = true := by decide

/-- spec/16, spec/17, spec/19, spec/20. -/
theorem words_system : reads [
    (32, 0x008141C9, .dbind ⟨0, 8, 5, 0, 0⟩), (32, 0x048187C9, .dqry ⟨1, 8, 6, 0, 0⟩), (32, 0x0001E5C9, .dinv ⟨0, 0, 7, 2, 0⟩),
    (64, 0x00005703310003C1, .mloopd ⟨12, 16, 0, 0, 0⟩ 0x5703), (96, 0x10000000000000FF01404061, .phint ⟨0, 20, 1, 0, 0⟩ 0xFF 0x10000000),
    (32, 0x140401D1, .wpop ⟨5, 0, 16, 0, 0⟩), (32, 0x103089D1, .corp ⟨4, 3, 2, 0, 0⟩), (32, 0x00420DD1, .xbind ⟨0, 4, 8, 0, 0⟩),
    (32, 0x00629FD1, .cntrd ⟨0, 6, 10, 1, 0⟩), (32, 0x00918359, .swr ⟨0, 9, 6, 0, 0⟩), (32, 0x143049D1, .corp ⟨5, 3, 1, 0, 0⟩),
    (32, 0x00088BD1, .corf ⟨0, 0, 34, 0, 0⟩), (32, 0x240401D1, .wpop ⟨9, 0, 16, 0, 0⟩), (32, 0x02328DD1, .xbind ⟨0, 35, 10, 0, 0⟩),
    (64, 0x0000000808D21981, .cpyp ⟨2, 13, 8, 1, 0⟩ 8), (32, 0x08028149, .racq ⟨2, 0, 10, 0, 0⟩),
    (32, 0xA0E32129, .fatom 0 ⟨40, 14, 12, 2, 0⟩)] = true := by decide

/-! ### What is no instruction (R41, R43) -/

/-- Each (major, minors) has no instruction. -/
def reserved (xs : List (Nat × List Nat)) : Bool :=
  xs.all fun x => x.2.all fun m => decode [BitVec.ofNat 16 (512 * m + 8 * x.1 + 1), 0, 0, 0, 0, 0] == .illegal

theorem reserved_majors : reserved ([0x0D, 0x0E, 0x0F, 0x1B, 0x1E, 0x1F, 0x27, 0x2C, 0x2D, 0x2E, 0x2F, 0x35, 0x36, 0x37, 0x3B, 0x3C, 0x3D,
    0x3E, 0x3F].map fun m => (m, [0, 7])) = true := by decide

theorem reserved_minors : reserved [(0x03, [7]), (0x04, [4, 7]), (0x06, [4, 7]), (0x07, [5, 7]), (0x08, [7]), (0x09, [7]), (0x0A, [5, 7]),
    (0x0B, [3, 7]), (0x12, [6]), (0x13, [6, 7]), (0x17, [5, 7]), (0x19, [2, 7]), (0x1A, [5, 7]), (0x1D, [3, 7]), (0x21, [6, 7]),
    (0x22, [6, 7]), (0x25, [3, 7]), (0x26, [3, 7]), (0x28, [7]), (0x29, [3, 7]), (0x2A, [6, 7]), (0x2B, [2, 7]), (0x31, [4, 7]),
    (0x32, [7]), (0x34, [2, 7]), (0x38, [7]), (0x39, [4, 7])] = true := by decide

/-- A halfword 0x0000 is VMOV v0, v0, and 0xFFFF is no instruction (the example after R46). -/
theorem test_decode_ends : decode [0] = .ok (.vmov_16 ⟨0, 0⟩) 1 ∧ decode [0xFFFF, 0, 0, 0] = .illegal ∧ decode [0x49] = .short := by decide

/-! ### Decoding (R38 to R43): one word of every instruction, written out from its encoding in the opcode map; operands at
boundaries of their fields -/

/-- Each list of halfwords decodes to its instruction, whole. -/
def decodes (xs : List (List (BitVec 16) × Instr)) : Bool := xs.all fun x => decode x.1 == .ok x.2 x.1.length

theorem decode_short_0 : decodes [
    ([0xacc0], .vmov_16 ⟨21, 38⟩),
    ([0xacc2], .vadd_16 ⟨21, 38⟩),
    ([0xacc4], .vsub_16 ⟨21, 38⟩),
    ([0xacc6], .vmul_16 ⟨21, 38⟩),
    ([0xacc8], .vmin_16 ⟨21, 38⟩),
    ([0xacca], .vmax_16 ⟨21, 38⟩),
    ([0xaccc], .vand_16 ⟨21, 38⟩),
    ([0xacce], .vor_16 ⟨21, 38⟩),
    ([0xacd0], .vxor_16 ⟨21, 38⟩),
    ([0xacd2], .vshl_16 ⟨21, 38⟩),
    ([0xacd4], .vshr_16 ⟨21, 38⟩),
    ([0xacd6], .vfadd_16 ⟨21, 38⟩)] = true := by decide

theorem decode_short_1 : decodes [
    ([0xacd8], .vfsub_16 ⟨21, 38⟩),
    ([0xacda], .vfmul_16 ⟨21, 38⟩),
    ([0xacdc], .vfmin_16 ⟨21, 38⟩),
    ([0xacde], .vfmax_16 ⟨21, 38⟩)] = true := by decide

theorem decode_scalar_0 : decodes [
    ([0x1005, 0x2842], .sadd ⟨10, 4, 8, 1, 2⟩),
    ([0x1205, 0x2842], .ssub ⟨10, 4, 8, 1, 2⟩),
    ([0x1405, 0x2842], .smul ⟨10, 4, 8, 1, 2⟩),
    ([0x1605, 0x2842], .smulh ⟨10, 4, 8, 1, 2⟩),
    ([0x1805, 0x2842], .sand ⟨10, 4, 8, 1, 2⟩),
    ([0x1a05, 0x2842], .sor ⟨10, 4, 8, 1, 2⟩),
    ([0x1c05, 0x2842], .sxor ⟨10, 4, 8, 1, 2⟩),
    ([0x1e05, 0x2842], .sshl ⟨10, 4, 8, 1, 2⟩),
    ([0x100d, 0x2842], .sshr ⟨10, 4, 8, 1, 2⟩),
    ([0x120d, 0x2842], .ssra ⟨10, 4, 8, 1, 2⟩),
    ([0x140d, 0x2842], .smin ⟨10, 4, 8, 1, 2⟩),
    ([0x160d, 0x2842], .smax ⟨10, 4, 8, 1, 2⟩)] = true := by decide

theorem decode_scalar_1 : decodes [
    ([0x180d, 0x2842], .ssel ⟨10, 4, 8, 1, 2⟩),
    ([0x1a0d, 0x2842], .sbfx ⟨10, 4, 8, 1, 2⟩),
    ([0x1c0d, 0x2842], .sbfi ⟨10, 4, 8, 1, 2⟩),
    ([0x1e0d, 0x42], .smov ⟨0, 4, 8, 1, 2⟩),
    ([0x1015, 0x2842], .saddImm ⟨10, 4, 8, 1, 2⟩),
    ([0x1215, 0x2842], .ssubImm ⟨10, 4, 8, 1, 2⟩),
    ([0x1415, 0x2842], .smulImm ⟨10, 4, 8, 1, 2⟩),
    ([0x1615, 0x2842], .smulhImm ⟨10, 4, 8, 1, 2⟩),
    ([0x1815, 0x2842], .sandImm ⟨10, 4, 8, 1, 2⟩),
    ([0x1a15, 0x2842], .sorImm ⟨10, 4, 8, 1, 2⟩),
    ([0x1c15, 0x2842], .sxorImm ⟨10, 4, 8, 1, 2⟩),
    ([0x1e15, 0x7c42], .sshlImm ⟨31, 4, 8, 1, 2⟩)] = true := by decide

theorem decode_scalar_2 : decodes [
    ([0x1c1d, 0x2842], .scmp 6 ⟨10, 4, 8, 1, 2⟩),
    ([0x1025, 0x42], .spopc ⟨0, 4, 8, 1, 2⟩),
    ([0x1225, 0x42], .sclz ⟨0, 4, 8, 1, 2⟩),
    ([0x1425, 0x42], .sffs ⟨0, 4, 8, 1, 2⟩),
    ([0x1625, 0x42], .srev ⟨0, 4, 8, 1, 2⟩),
    ([0x4e2b, 0xd2e2], .sli ⟨0x1a5c7, 9, 1⟩),
    ([0x435, 0x2, 0xcdef, 0x89ab], .slix 2 ⟨0, 0, 8, 0, 2⟩ 0x89abcdef),
    ([0x103d, 0x2842], .sld_32 ⟨10, 4, 8, 1, 2⟩),
    ([0x123d, 0x2842], .sld_64 ⟨10, 4, 8, 1, 2⟩),
    ([0x143d, 0x2842], .sst_32 ⟨10, 4, 8, 1, 2⟩),
    ([0x163d, 0x2842], .sst_64 ⟨10, 4, 8, 1, 2⟩),
    ([0x183d, 0x2842], .sldk ⟨10, 4, 8, 1, 2⟩)] = true := by decide

theorem decode_control_0 : decodes [
    ([0x43, 0x8014], .bra ⟨0x2005, 0, 1⟩),
    ([0xc243, 0x8014], .brz ⟨0x2005, 12, 1⟩),
    ([0xc443, 0x8014], .brnz ⟨0x2005, 12, 1⟩),
    ([0xc643, 0x8014], .call ⟨0x2005, 12, 1⟩),
    ([0xf843, 0x8017], .sdbnz ⟨0x2005, 63, 1⟩),
    ([0xca43, 0x8017], .bany ⟨0x2005, 60, 1⟩),
    ([0xc43, 0x8014], .ball ⟨0x2005, 0, 1⟩),
    ([0x4d, 0x40], .jmpr ⟨0, 4, 0, 0, 2⟩),
    ([0x24d, 0x40], .ret ⟨0, 4, 0, 0, 2⟩),
    ([0x44d, 0x42], .jfnc ⟨0, 4, 8, 0, 2⟩),
    ([0x64d, 0x0], .exit ⟨0, 0, 0, 0, 2⟩),
    ([0x84d, 0xb000], .trap ⟨44, 0, 0, 0, 2⟩)] = true := by decide

theorem decode_control_1 : decodes [
    ([0xa4d, 0xb400], .bkpt ⟨45, 0, 0, 0, 2⟩),
    ([0xc4d, 0xfc00], .nops ⟨63, 0, 0, 0, 2⟩),
    ([0x2053, 0x8014], .vbr ⟨0x2005, 2, 1⟩),
    ([0x4253, 0x8014], .vbrn ⟨0x2005, 4, 1⟩),
    ([0x6453, 0x0], .vbrk ⟨0x0, 6, 1⟩),
    ([0x653, 0x8014], .jtok ⟨0x2005, 0, 1⟩),
    ([0x853, 0x0], .join ⟨0x0, 0, 1⟩),
    ([0x305d, 0xfc00], .waite ⟨63, 0, 0, 3, 2⟩),
    ([0x325d, 0x1000], .fence ⟨4, 0, 0, 3, 2⟩),
    ([0x45d, 0x0], .idem ⟨0, 0, 0, 0, 2⟩),
    ([0x4065, 0x2845, 0x4567, 0x123, 0xcdef, 0x89ab], .phint ⟨10, 4, 21, 0, 2⟩ 0x1234567 0x89abcdef)] = true := by decide

theorem decode_lane_integer_0 : decodes [
    ([0x1085, 0x2842], .vadd ⟨10, 4, 8, 1, 2⟩),
    ([0x1285, 0x2842], .vsub ⟨10, 4, 8, 1, 2⟩),
    ([0x1485, 0x2842], .vmul ⟨10, 4, 8, 1, 2⟩),
    ([0x1685, 0x2842], .vmulh ⟨10, 4, 8, 1, 2⟩),
    ([0x1885, 0x2842], .vmin ⟨10, 4, 8, 1, 2⟩),
    ([0x1a85, 0x2842], .vmax ⟨10, 4, 8, 1, 2⟩),
    ([0x1c85, 0x42], .vabs ⟨0, 4, 8, 1, 2⟩),
    ([0x1e85, 0x2842], .vmad ⟨10, 4, 8, 1, 2⟩),
    ([0x108d, 0x2842], .vand ⟨10, 4, 8, 1, 2⟩),
    ([0x128d, 0x2842], .vor ⟨10, 4, 8, 1, 2⟩),
    ([0x148d, 0x2842], .vxor ⟨10, 4, 8, 1, 2⟩),
    ([0x168d, 0x2842], .vshl ⟨10, 4, 8, 1, 2⟩)] = true := by decide

theorem decode_lane_integer_1 : decodes [
    ([0x188d, 0x2842], .vshr ⟨10, 4, 8, 1, 2⟩),
    ([0x1a8d, 0x2842], .vsra ⟨10, 4, 8, 1, 2⟩),
    ([0x1c8d, 0x42], .vpopc ⟨0, 4, 8, 1, 2⟩),
    ([0x1e8d, 0x42], .vclz ⟨0, 4, 8, 1, 2⟩),
    ([0x1095, 0x2842], .vaddImm ⟨10, 4, 8, 1, 2⟩),
    ([0x1295, 0x2842], .vsubImm ⟨10, 4, 8, 1, 2⟩),
    ([0x1495, 0x2842], .vmulImm ⟨10, 4, 8, 1, 2⟩),
    ([0x1695, 0x2842], .vmulhImm ⟨10, 4, 8, 1, 2⟩),
    ([0x1895, 0x2842], .vminImm ⟨10, 4, 8, 1, 2⟩),
    ([0x1a95, 0x2842], .vmaxImm ⟨10, 4, 8, 1, 2⟩),
    ([0x1e95, 0x2842], .vmadImm ⟨10, 4, 8, 1, 2⟩),
    ([0x109d, 0x2842], .vandImm ⟨10, 4, 8, 1, 2⟩)] = true := by decide

theorem decode_lane_integer_2 : decodes [
    ([0x129d, 0x2842], .vorImm ⟨10, 4, 8, 1, 2⟩),
    ([0x149d, 0x2842], .vxorImm ⟨10, 4, 8, 1, 2⟩),
    ([0x169d, 0x3c42], .vshlImm ⟨15, 4, 8, 1, 2⟩),
    ([0x189d, 0x3c42], .vshrImm ⟨15, 4, 8, 1, 2⟩),
    ([0x2a9d, 0x1c42], .vsraImm ⟨7, 4, 8, 2, 2⟩)] = true := by decide

theorem decode_lane_float_0 : decodes [
    ([0x10a5, 0x2842], .vfadd ⟨10, 4, 8, 1, 2⟩),
    ([0x12a5, 0x2842], .vfsub ⟨10, 4, 8, 1, 2⟩),
    ([0x14a5, 0x2842], .vfmul ⟨10, 4, 8, 1, 2⟩),
    ([0x16a5, 0x2842], .vfma ⟨10, 4, 8, 1, 2⟩),
    ([0x18a5, 0x2842], .vfmin ⟨10, 4, 8, 1, 2⟩),
    ([0x1aa5, 0x2842], .vfmax ⟨10, 4, 8, 1, 2⟩),
    ([0x1ca5, 0x42], .vfabs ⟨0, 4, 8, 1, 2⟩),
    ([0x1ea5, 0x42], .vfneg ⟨0, 4, 8, 1, 2⟩),
    ([0x1aad, 0x284f], .vcmp 5 ⟨10, 4, 60, 1, 2⟩),
    ([0x10b5, 0x42], .vrcp ⟨0, 4, 8, 1, 2⟩),
    ([0x12b5, 0x42], .vrsq ⟨0, 4, 8, 1, 2⟩),
    ([0x14b5, 0x42], .vsqrt ⟨0, 4, 8, 1, 2⟩)] = true := by decide

theorem decode_lane_float_1 : decodes [
    ([0x16b5, 0x42], .vexp2 ⟨0, 4, 8, 1, 2⟩),
    ([0x18b5, 0x42], .vlog2 ⟨0, 4, 8, 1, 2⟩),
    ([0x1ab5, 0x42], .vsin ⟨0, 4, 8, 1, 2⟩),
    ([0x1cb5, 0x42], .vcos ⟨0, 4, 8, 1, 2⟩),
    ([0x1eb5, 0x42], .vtanh ⟨0, 4, 8, 1, 2⟩),
    ([0xbd, 0x42], .vmov ⟨0, 4, 8, 0, 2⟩),
    ([0x2bd, 0xf042], .vsel ⟨60, 4, 8, 0, 2⟩),
    ([0x4bd, 0x42], .vbcs ⟨0, 4, 8, 0, 2⟩),
    ([0x6bd, 0x2842], .vlaneV ⟨10, 4, 8, 0, 2⟩),
    ([0x16bd, 0x2842], .vlaneS ⟨10, 4, 8, 1, 2⟩),
    ([0x26bd, 0x2], .vlaneId ⟨0, 0, 8, 2, 2⟩),
    ([0x18bd, 0x42], .vfclass ⟨0, 4, 8, 1, 2⟩)] = true := by decide

theorem decode_lane_float_2 : decodes [
    ([0x34c5, 0xc42], .vcvt 2 ⟨3, 4, 8, 3, 2⟩),
    ([0x20cd, 0x2042, 0x59, 0x0], .vqblk ⟨8, 4, 8, 2, 2⟩ 0x59),
    ([0x2cd, 0x2042, 0x12, 0x0], .vdqblk ⟨8, 4, 8, 0, 2⟩ 0x12)] = true := by decide

theorem decode_lane_moves : decodes [
    ([0xd5, 0x2842], .vshfl ⟨10, 4, 8, 0, 2⟩),
    ([0x12d5, 0x2842], .vrot ⟨10, 4, 8, 1, 2⟩),
    ([0x4d5, 0x2842], .vbln ⟨10, 4, 8, 0, 2⟩),
    ([0x16d5, 0x2442], .vred ⟨9, 4, 8, 1, 2⟩),
    ([0x18d5, 0x2842], .vscan ⟨10, 4, 8, 1, 2⟩),
    ([0x4ee3, 0xd2e2], .vli ⟨0x1a5c7, 9, 1⟩),
    ([0x2ed, 0x2, 0xabcd, 0x0], .vlix 1 ⟨0, 0, 8, 0, 2⟩ 0xabcd)] = true := by decide

theorem decode_memory_0 : decodes [
    ([0x2d05, 0x284e], .vld 6 ⟨10, 4, 56, 2, 2⟩),
    ([0x970d, 0x284e], .vst 3 ⟨10, 4, 58, 1, 2⟩),
    ([0x115, 0x2842], .vlds_32 ⟨10, 4, 8, 0, 2⟩),
    ([0x8315, 0x284e], .vlds_64 ⟨10, 4, 58, 0, 2⟩),
    ([0x515, 0x284e], .vlds_128 ⟨10, 4, 56, 0, 2⟩),
    ([0x715, 0x2842], .vsts_32 ⟨10, 4, 8, 0, 2⟩),
    ([0x8915, 0x2840], .vsts_64 ⟨10, 4, 2, 0, 2⟩),
    ([0xb15, 0x2841], .vsts_128 ⟨10, 4, 4, 0, 2⟩),
    ([0xbf1d, 0x2842, 0x3a00, 0x920c], .atom 7 ⟨10, 4, 10, 3, 2⟩ 0x920c3a00),
    ([0xf25, 0x2842, 0x0, 0xd], .atoms 7 ⟨10, 4, 8, 0, 2⟩ 0xd0000),
    ([0x232d, 0x2842], .fatom 1 ⟨10, 4, 8, 2, 2⟩),
    ([0x135, 0x40], .mon ⟨0, 4, 0, 0, 2⟩)] = true := by decide

theorem decode_memory_1 : decodes [
    ([0x335, 0x2802], .mwait ⟨10, 0, 8, 0, 2⟩),
    ([0x535, 0x0], .mclr ⟨0, 0, 0, 0, 2⟩)] = true := by decide

theorem decode_sync_0 : decodes [
    ([0x1145, 0x14f0], .bari ⟨5, 15, 0, 1, 2⟩),
    ([0x1345, 0xf2], .bara ⟨0, 15, 8, 1, 2⟩),
    ([0x1545, 0x28f0], .barw ⟨10, 15, 0, 1, 2⟩),
    ([0x745, 0x2bf0], .barx ⟨10, 63, 0, 0, 2⟩),
    ([0x1945, 0x2842], .bred ⟨10, 4, 8, 1, 2⟩),
    ([0x1b45, 0xc42], .barq ⟨3, 4, 8, 1, 2⟩),
    ([0x1d45, 0x40], .barinv ⟨0, 4, 0, 1, 2⟩),
    ([0x114d, 0x3402], .racq ⟨13, 0, 8, 1, 2⟩),
    ([0x34d, 0x400], .rrel ⟨1, 0, 0, 0, 2⟩),
    ([0x54d, 0x2], .rqry ⟨0, 0, 8, 0, 2⟩),
    ([0x155, 0x2840, 0x1, 0x8000], .ebeq ⟨10, 4, 0, 0, 2⟩ 0x80000001),
    ([0xc355, 0x2840, 0x6, 0x0], .eclm ⟨10, 4, 3, 0, 2⟩ 0x6)] = true := by decide

theorem decode_sync_1 : decodes [
    ([0xd555, 0x3f, 0x0, 0x0], .edrop ⟨0, 3, 63, 1, 2⟩ 0x0),
    ([0x755, 0x2842, 0x0, 0x0], .eqry ⟨10, 4, 8, 0, 2⟩ 0x0),
    ([0x1955, 0x2842, 0x0, 0x0], .epin ⟨10, 4, 8, 1, 2⟩ 0x0),
    ([0x2b55, 0xf0f0, 0xfffe, 0xff], .phend ⟨60, 15, 0, 2, 2⟩ 0xfffffe),
    ([0x15d, 0x832], .srd ⟨2, 3, 8, 0, 2⟩),
    ([0x35d, 0x872], .swr ⟨2, 7, 8, 0, 2⟩)] = true := by decide

theorem decode_copies : decodes [
    ([0x8185, 0x2842, 0x7c00, 0xa5fe], .cpy ⟨10, 4, 10, 0, 2⟩ 0xa5fe7c00),
    ([0x1385, 0x2842, 0xf800, 0x105], .cpyt ⟨10, 4, 8, 1, 2⟩ 0x105f800),
    ([0x1585, 0x2842, 0x3ff, 0x700], .cpyg ⟨10, 4, 8, 1, 2⟩ 0x70003ff),
    ([0x1785, 0x2842, 0x201, 0x700], .cpys ⟨10, 4, 8, 1, 2⟩ 0x7000201),
    ([0x1985, 0x2843, 0x11, 0x900], .cpyp ⟨10, 4, 12, 1, 2⟩ 0x9000011),
    ([0xb85, 0x40, 0x400, 0xc000], .cfetch ⟨0, 4, 0, 0, 2⟩ 0xc0000400),
    ([0x1d85, 0x2802, 0x0, 0x310], .cpyz ⟨10, 0, 8, 1, 2⟩ 0x3100000),
    ([0x5f85, 0x2842, 0x0, 0x300], .cpya ⟨10, 4, 9, 1, 2⟩ 0x3000000),
    ([0x18d, 0x2842, 0x6, 0x100], .colg ⟨10, 4, 8, 0, 2⟩ 0x1000006),
    ([0x38d, 0x2842, 0x2803, 0x4], .cols ⟨10, 4, 8, 0, 2⟩ 0x42803),
    ([0x258d, 0x2842, 0x1, 0x0], .colr ⟨10, 4, 8, 2, 2⟩ 0x1),
    ([0x78d, 0x2842, 0x6, 0x0], .colb ⟨10, 4, 8, 0, 2⟩ 0x6)] = true := by decide

theorem decode_queues : decodes [
    ([0xc195, 0x40], .qpush ⟨0, 4, 3, 0, 2⟩),
    ([0xa395, 0x2850], .qld ⟨10, 5, 2, 2, 2⟩),
    ([0x5595, 0x2840], .qst ⟨10, 4, 1, 1, 2⟩),
    ([0x795, 0x40], .qtok ⟨0, 4, 0, 0, 2⟩),
    ([0x995, 0x2], .qwtok ⟨0, 0, 8, 0, 2⟩),
    ([0xb95, 0x3c00], .qdrn ⟨15, 0, 0, 0, 2⟩),
    ([0xd95, 0x2002], .qstat ⟨8, 0, 8, 0, 2⟩),
    ([0xc19d, 0x2840, 0xbc00, 0x1a], .qaff ⟨10, 4, 3, 0, 2⟩ 0x1abc00),
    ([0x1a5, 0xdc42], .tidq ⟨55, 4, 8, 0, 2⟩),
    ([0x3a5, 0x42], .tidld ⟨0, 4, 8, 0, 2⟩)] = true := by decide

theorem decode_engines_0 : decodes [
    ([0x11c5, 0x372, 0xffff, 0x1], .mloop ⟨0, 55, 8, 1, 2⟩ 0x1ffff),
    ([0x13c5, 0x8762, 0x3, 0x1], .mloopd ⟨33, 54, 8, 1, 2⟩ 0x10003),
    ([0x5c5, 0x2840, 0x0, 0x1], .accz ⟨10, 4, 0, 0, 2⟩ 0x10000),
    ([0x7c5, 0x42, 0x1, 0x1], .accrd ⟨0, 4, 8, 0, 2⟩ 0x10001),
    ([0x9c5, 0x2840, 0x1, 0x0], .accwr ⟨10, 4, 0, 0, 2⟩ 0x1),
    ([0xdbc5, 0x1841, 0x92, 0x1], .accdrn ⟨6, 4, 7, 1, 2⟩ 0x10092),
    ([0xdc5, 0x2842, 0x0, 0x0], .awset ⟨10, 4, 8, 0, 2⟩ 0x0),
    ([0x1cd, 0x382], .dbind ⟨0, 56, 8, 0, 2⟩),
    ([0x3cd, 0x42], .dref ⟨0, 4, 8, 0, 2⟩),
    ([0x15cd, 0x62], .dinv ⟨0, 6, 8, 1, 2⟩),
    ([0x7cd, 0x2442], .dqry ⟨9, 4, 8, 0, 2⟩),
    ([0x11d5, 0x283a], .wpop ⟨10, 3, 40, 1, 2⟩)] = true := by decide

theorem decode_engines_1 : decodes [
    ([0xc3d5, 0x2a80], .wpush ⟨10, 40, 3, 0, 2⟩),
    ([0x5d5, 0x2822], .wroom ⟨10, 2, 8, 0, 2⟩),
    ([0x7d5, 0x40], .gsig ⟨0, 4, 0, 0, 2⟩),
    ([0x9d5, 0x2842], .corp ⟨10, 4, 8, 0, 2⟩),
    ([0x1bd5, 0x2], .corf ⟨0, 0, 8, 1, 2⟩),
    ([0x9dd5, 0x4e], .xbind ⟨0, 4, 58, 1, 2⟩),
    ([0x1fd5, 0x42], .cntrd ⟨0, 4, 8, 1, 2⟩)] = true := by decide

/-! ### Ill-formed terms: each breaks one check of a term that decodes below (R43) -/

def refuses (xs : List Instr) : Bool := xs.all fun i => !i.wellFormed

theorem illformed_short : refuses [
    .vmov_16 ⟨21, 60⟩, .vmov_16 ⟨21, 63⟩, .vadd_16 ⟨21, 60⟩, .vadd_16 ⟨21, 63⟩, .vsub_16 ⟨21, 60⟩, .vsub_16 ⟨21, 63⟩,
    .vmul_16 ⟨21, 60⟩, .vmul_16 ⟨21, 63⟩, .vmin_16 ⟨21, 60⟩, .vmin_16 ⟨21, 63⟩, .vmax_16 ⟨21, 60⟩, .vmax_16 ⟨21, 63⟩,
    .vand_16 ⟨21, 60⟩, .vand_16 ⟨21, 63⟩, .vor_16 ⟨21, 60⟩, .vor_16 ⟨21, 63⟩, .vxor_16 ⟨21, 60⟩, .vxor_16 ⟨21, 63⟩,
    .vshl_16 ⟨21, 60⟩, .vshl_16 ⟨21, 63⟩, .vshr_16 ⟨21, 60⟩, .vshr_16 ⟨21, 63⟩, .vfadd_16 ⟨21, 60⟩,
    .vfadd_16 ⟨21, 63⟩, .vfsub_16 ⟨21, 60⟩, .vfsub_16 ⟨21, 63⟩, .vfmul_16 ⟨21, 60⟩, .vfmul_16 ⟨21, 63⟩,
    .vfmin_16 ⟨21, 60⟩, .vfmin_16 ⟨21, 63⟩, .vfmax_16 ⟨21, 60⟩, .vfmax_16 ⟨21, 63⟩] = true := by decide

theorem illformed_scalar : refuses [
    .sadd ⟨10, 4, 7, 2, 0⟩, .sadd ⟨10, 5, 8, 3, 0⟩, .sadd ⟨11, 4, 8, 2, 0⟩, .ssub ⟨10, 4, 7, 2, 0⟩,
    .ssub ⟨10, 5, 8, 3, 0⟩, .ssub ⟨11, 4, 8, 2, 0⟩, .smul ⟨10, 4, 7, 2, 0⟩, .smul ⟨10, 5, 8, 3, 0⟩,
    .smul ⟨11, 4, 8, 2, 0⟩, .smulh ⟨10, 4, 7, 2, 0⟩, .smulh ⟨10, 5, 8, 3, 0⟩, .smulh ⟨11, 4, 8, 2, 0⟩,
    .sand ⟨10, 4, 7, 2, 0⟩, .sand ⟨10, 5, 8, 3, 0⟩, .sand ⟨11, 4, 8, 2, 0⟩, .sor ⟨10, 4, 7, 2, 0⟩,
    .sor ⟨10, 5, 8, 3, 0⟩, .sor ⟨11, 4, 8, 2, 0⟩, .sxor ⟨10, 4, 7, 2, 0⟩, .sxor ⟨10, 5, 8, 3, 0⟩,
    .sxor ⟨11, 4, 8, 2, 0⟩, .sshl ⟨10, 4, 7, 2, 0⟩, .sshl ⟨10, 5, 8, 3, 0⟩, .sshl ⟨11, 4, 8, 2, 0⟩,
    .sshr ⟨10, 4, 7, 2, 0⟩, .sshr ⟨10, 5, 8, 3, 0⟩, .sshr ⟨11, 4, 8, 2, 0⟩, .ssra ⟨10, 4, 7, 2, 0⟩,
    .ssra ⟨10, 5, 8, 3, 0⟩, .ssra ⟨11, 4, 8, 2, 0⟩, .smin ⟨10, 4, 7, 2, 0⟩, .smin ⟨10, 5, 8, 3, 0⟩,
    .smin ⟨11, 4, 8, 2, 0⟩, .smax ⟨10, 4, 7, 2, 0⟩, .smax ⟨10, 5, 8, 3, 0⟩, .smax ⟨11, 4, 8, 2, 0⟩,
    .ssel ⟨10, 4, 7, 2, 0⟩, .ssel ⟨10, 5, 8, 3, 0⟩, .ssel ⟨11, 4, 8, 2, 0⟩, .sbfx ⟨10, 4, 7, 2, 0⟩,
    .sbfx ⟨10, 5, 8, 3, 0⟩, .sbfx ⟨11, 4, 8, 2, 0⟩, .sbfi ⟨10, 4, 7, 2, 0⟩, .sbfi ⟨10, 5, 8, 3, 0⟩,
    .sbfi ⟨11, 4, 8, 2, 0⟩, .smov ⟨1, 4, 8, 1, 0⟩, .smov ⟨0, 4, 7, 2, 0⟩, .smov ⟨0, 5, 8, 3, 0⟩,
    .saddImm ⟨10, 4, 7, 2, 0⟩, .saddImm ⟨10, 5, 8, 3, 0⟩, .ssubImm ⟨10, 4, 7, 2, 0⟩, .ssubImm ⟨10, 5, 8, 3, 0⟩,
    .smulImm ⟨10, 4, 7, 2, 0⟩, .smulImm ⟨10, 5, 8, 3, 0⟩, .smulhImm ⟨10, 4, 7, 2, 0⟩, .smulhImm ⟨10, 5, 8, 3, 0⟩,
    .sandImm ⟨10, 4, 7, 2, 0⟩, .sandImm ⟨10, 5, 8, 3, 0⟩, .sorImm ⟨10, 4, 7, 2, 0⟩, .sorImm ⟨10, 5, 8, 3, 0⟩,
    .sxorImm ⟨10, 4, 7, 2, 0⟩, .sxorImm ⟨10, 5, 8, 3, 0⟩, .sshlImm ⟨32, 4, 8, 1, 0⟩, .sshlImm ⟨31, 4, 7, 2, 0⟩,
    .scmp 7 ⟨10, 4, 8, 1, 0⟩, .scmp 6 ⟨10, 5, 8, 2, 0⟩, .scmp 6 ⟨11, 4, 8, 3, 0⟩, .spopc ⟨1, 4, 8, 1, 0⟩,
    .spopc ⟨0, 5, 8, 2, 0⟩, .sclz ⟨1, 4, 8, 1, 0⟩, .sclz ⟨0, 5, 8, 2, 0⟩, .sffs ⟨1, 4, 8, 1, 0⟩,
    .sffs ⟨0, 5, 8, 2, 0⟩, .srev ⟨1, 4, 8, 1, 0⟩, .srev ⟨0, 5, 8, 2, 0⟩, .srev ⟨0, 4, 9, 2, 0⟩,
    .slix 2 ⟨0, 1, 8, 0, 0⟩ 0x89abcdef, .slix 2 ⟨1, 0, 8, 0, 0⟩ 0x89abcdef, .slix 2 ⟨0, 0, 8, 1, 0⟩ 0x89abcdef,
    .slix 4 ⟨0, 0, 8, 0, 0⟩ 0x89abcdef, .slix 2 ⟨0, 0, 7, 0, 0⟩ 0x89abcdef, .sld_32 ⟨10, 4, 8, 2, 0⟩,
    .sld_32 ⟨10, 5, 8, 1, 0⟩, .sld_64 ⟨10, 4, 8, 2, 0⟩, .sld_64 ⟨10, 5, 8, 1, 0⟩, .sld_64 ⟨10, 4, 7, 1, 0⟩,
    .sst_32 ⟨10, 4, 8, 2, 0⟩, .sst_32 ⟨10, 5, 8, 1, 0⟩, .sst_64 ⟨10, 4, 8, 2, 0⟩, .sst_64 ⟨10, 5, 8, 1, 0⟩,
    .sst_64 ⟨10, 4, 7, 1, 0⟩, .sldk ⟨10, 4, 8, 2, 0⟩, .sldk ⟨10, 4, 7, 1, 0⟩, .sldk ⟨11, 4, 8, 1, 0⟩] = true := by decide

theorem illformed_control : refuses [
    .bra ⟨8197, 1, 0⟩, .sdbnz ⟨8197, 0, 0⟩, .bany ⟨8197, 62, 0⟩, .bany ⟨8197, 5, 0⟩, .ball ⟨8197, 62, 0⟩,
    .ball ⟨8197, 5, 0⟩, .jmpr ⟨1, 4, 0, 0, 0⟩, .jmpr ⟨0, 4, 1, 0, 0⟩, .jmpr ⟨0, 4, 0, 1, 0⟩, .ret ⟨1, 4, 0, 0, 0⟩,
    .ret ⟨0, 4, 1, 0, 0⟩, .ret ⟨0, 4, 0, 1, 0⟩, .jfnc ⟨1, 4, 8, 0, 0⟩, .jfnc ⟨0, 4, 8, 1, 0⟩, .exit ⟨1, 0, 0, 0, 0⟩,
    .exit ⟨0, 1, 0, 0, 0⟩, .exit ⟨0, 0, 1, 0, 0⟩, .exit ⟨0, 0, 0, 1, 0⟩, .trap ⟨44, 1, 0, 0, 0⟩,
    .trap ⟨44, 0, 1, 0, 0⟩, .trap ⟨44, 0, 0, 1, 0⟩, .bkpt ⟨45, 1, 0, 0, 0⟩, .bkpt ⟨45, 0, 1, 0, 0⟩,
    .bkpt ⟨45, 0, 0, 1, 0⟩, .nops ⟨0, 0, 0, 0, 0⟩, .nops ⟨63, 1, 0, 0, 0⟩, .nops ⟨63, 0, 1, 0, 0⟩,
    .nops ⟨63, 0, 0, 1, 0⟩, .vbr ⟨8197, 62, 0⟩, .vbr ⟨8197, 5, 0⟩, .vbrn ⟨8197, 62, 0⟩, .vbrn ⟨8197, 5, 0⟩,
    .vbrk ⟨0, 62, 0⟩, .vbrk ⟨1, 6, 0⟩, .jtok ⟨8197, 1, 0⟩, .join ⟨0, 1, 0⟩, .join ⟨1, 0, 0⟩, .waite ⟨63, 1, 0, 3, 0⟩,
    .waite ⟨63, 0, 1, 3, 0⟩, .fence ⟨4, 1, 0, 3, 0⟩, .fence ⟨4, 0, 1, 3, 0⟩, .fence ⟨5, 0, 0, 3, 0⟩,
    .idem ⟨1, 0, 0, 0, 0⟩, .idem ⟨0, 1, 0, 0, 0⟩, .idem ⟨0, 0, 1, 0, 0⟩, .idem ⟨0, 0, 0, 1, 0⟩,
    .phint ⟨10, 4, 21, 1, 0⟩ 0x1234567 0x89abcdef, .phint ⟨10, 4, 32, 0, 0⟩ 0x1234567 0x89abcdef] = true := by decide

theorem illformed_lane_integers : refuses [
    .vabs ⟨1, 4, 8, 1, 0⟩, .vmad ⟨10, 4, 60, 1, 0⟩, .vand ⟨10, 4, 8, 3, 0⟩, .vor ⟨10, 4, 8, 3, 0⟩,
    .vxor ⟨10, 4, 8, 3, 0⟩, .vshl ⟨10, 4, 8, 3, 0⟩, .vshr ⟨10, 4, 8, 3, 0⟩, .vsra ⟨10, 4, 8, 3, 0⟩,
    .vpopc ⟨0, 4, 8, 3, 0⟩, .vpopc ⟨1, 4, 8, 1, 0⟩, .vclz ⟨0, 4, 8, 3, 0⟩, .vclz ⟨1, 4, 8, 1, 0⟩,
    .vmadImm ⟨10, 4, 60, 1, 0⟩, .vandImm ⟨10, 4, 8, 3, 0⟩, .vorImm ⟨10, 4, 8, 3, 0⟩, .vxorImm ⟨10, 4, 8, 3, 0⟩,
    .vshlImm ⟨1, 4, 8, 3, 0⟩, .vshlImm ⟨32, 4, 8, 0, 0⟩, .vshlImm ⟨16, 4, 8, 1, 0⟩, .vshlImm ⟨8, 4, 8, 2, 0⟩,
    .vshrImm ⟨1, 4, 8, 3, 0⟩, .vshrImm ⟨32, 4, 8, 0, 0⟩, .vshrImm ⟨16, 4, 8, 1, 0⟩, .vshrImm ⟨8, 4, 8, 2, 0⟩,
    .vsraImm ⟨1, 4, 8, 3, 0⟩, .vsraImm ⟨32, 4, 8, 0, 0⟩, .vsraImm ⟨16, 4, 8, 1, 0⟩, .vsraImm ⟨8, 4, 8, 2, 0⟩] = true := by decide

theorem illformed_lane_floats : refuses [
    .vfadd ⟨10, 4, 8, 3, 0⟩, .vfsub ⟨10, 4, 8, 3, 0⟩, .vfmul ⟨10, 4, 8, 3, 0⟩, .vfma ⟨10, 4, 8, 3, 0⟩,
    .vfma ⟨10, 4, 60, 1, 0⟩, .vfmin ⟨10, 4, 8, 3, 0⟩, .vfmax ⟨10, 4, 8, 3, 0⟩, .vfabs ⟨0, 4, 8, 3, 0⟩,
    .vfabs ⟨1, 4, 8, 1, 0⟩, .vfneg ⟨0, 4, 8, 3, 0⟩, .vfneg ⟨1, 4, 8, 1, 0⟩, .vcmp 5 ⟨10, 4, 62, 1, 0⟩,
    .vcmp 5 ⟨10, 4, 9, 1, 0⟩, .vcmp 6 ⟨10, 4, 60, 1, 0⟩, .vrcp ⟨1, 4, 8, 1, 0⟩, .vrcp ⟨0, 4, 8, 2, 0⟩,
    .vrsq ⟨1, 4, 8, 1, 0⟩, .vrsq ⟨0, 4, 8, 2, 0⟩, .vsqrt ⟨1, 4, 8, 1, 0⟩, .vsqrt ⟨0, 4, 8, 2, 0⟩,
    .vexp2 ⟨1, 4, 8, 1, 0⟩, .vexp2 ⟨0, 4, 8, 2, 0⟩, .vlog2 ⟨1, 4, 8, 1, 0⟩, .vlog2 ⟨0, 4, 8, 2, 0⟩,
    .vsin ⟨1, 4, 8, 1, 0⟩, .vsin ⟨0, 4, 8, 2, 0⟩, .vcos ⟨1, 4, 8, 1, 0⟩, .vcos ⟨0, 4, 8, 2, 0⟩,
    .vtanh ⟨1, 4, 8, 1, 0⟩, .vtanh ⟨0, 4, 8, 2, 0⟩] = true := by decide

theorem illformed_lane_moves : refuses [
    .vmov ⟨1, 4, 8, 0, 0⟩, .vmov ⟨0, 4, 8, 1, 0⟩, .vsel ⟨60, 4, 8, 1, 0⟩, .vsel ⟨60, 4, 60, 0, 0⟩,
    .vsel ⟨62, 4, 8, 0, 0⟩, .vbcs ⟨1, 4, 8, 0, 0⟩, .vbcs ⟨0, 4, 8, 1, 0⟩, .vlaneV ⟨10, 4, 8, 3, 0⟩,
    .vlaneS ⟨10, 4, 8, 3, 0⟩, .vlaneId ⟨0, 0, 8, 3, 0⟩, .vlaneId ⟨0, 1, 8, 2, 0⟩, .vlaneId ⟨1, 0, 8, 2, 0⟩,
    .vfclass ⟨1, 4, 8, 1, 0⟩, .vfclass ⟨0, 4, 8, 2, 0⟩, .vcvt 2 ⟨11, 4, 8, 3, 0⟩, .vcvt 0 ⟨1, 4, 8, 3, 0⟩,
    .vcvt 0 ⟨2, 4, 8, 3, 0⟩, .vcvt 2 ⟨5, 4, 8, 3, 0⟩, .vcvt 2 ⟨3, 4, 60, 3, 0⟩, .vcvt 3 ⟨2, 4, 8, 1, 0⟩,
    .vcvt 3 ⟨1, 4, 8, 0, 0⟩, .vcvt 6 ⟨3, 4, 8, 3, 0⟩, .vcvt 7 ⟨3, 4, 60, 3, 0⟩, .vqblk ⟨9, 4, 8, 2, 0⟩ 0x59,
    .vqblk ⟨8, 4, 8, 2, 0⟩ 0x100, .vqblk ⟨8, 4, 8, 2, 0⟩ 0x4, .vqblk ⟨8, 4, 8, 2, 0⟩ 0x21,
    .vqblk ⟨8, 4, 8, 2, 0⟩ 0x40, .vqblk ⟨8, 4, 8, 2, 0⟩ 0x81, .vqblk ⟨8, 4, 60, 2, 0⟩ 0x59,
    .vdqblk ⟨9, 4, 8, 0, 0⟩ 0x12, .vdqblk ⟨8, 4, 8, 1, 0⟩ 0x12, .vdqblk ⟨8, 4, 8, 0, 0⟩ 0x41,
    .vdqblk ⟨8, 4, 8, 0, 0⟩ 0x83, .vdqblk ⟨8, 4, 8, 0, 0⟩ 0x80000000, .vshfl ⟨10, 4, 8, 1, 0⟩, .vrot ⟨10, 4, 8, 2, 0⟩,
    .vbln ⟨10, 4, 8, 1, 0⟩, .vred ⟨9, 4, 8, 2, 0⟩, .vred ⟨11, 4, 8, 1, 0⟩, .vscan ⟨10, 4, 8, 2, 0⟩,
    .vscan ⟨11, 4, 8, 1, 0⟩, .vlix 1 ⟨0, 1, 8, 0, 0⟩ 0xabcd, .vlix 1 ⟨1, 0, 8, 0, 0⟩ 0xabcd,
    .vlix 1 ⟨0, 0, 8, 1, 0⟩ 0xabcd, .vlix 3 ⟨0, 0, 8, 0, 0⟩ 0xabcd, .vlix 1 ⟨0, 0, 8, 0, 0⟩ 0x10000,
    .vlix 2 ⟨0, 0, 8, 0, 0⟩ 0x100] = true := by decide

theorem illformed_memory : refuses [
    .vld 6 ⟨11, 4, 56, 2, 0⟩, .vld 6 ⟨10, 4, 56, 3, 0⟩, .vld 6 ⟨10, 4, 57, 2, 0⟩, .vld 4 ⟨10, 4, 60, 2, 0⟩,
    .vld 5 ⟨10, 4, 57, 2, 0⟩, .vst 3 ⟨11, 4, 58, 1, 0⟩, .vst 3 ⟨10, 4, 58, 3, 0⟩, .vst 6 ⟨10, 4, 58, 1, 0⟩,
    .vst 3 ⟨10, 4, 57, 1, 0⟩, .vst 4 ⟨10, 4, 58, 1, 0⟩, .vlds_32 ⟨10, 4, 8, 1, 0⟩, .vlds_32 ⟨10, 4, 60, 0, 0⟩,
    .vlds_64 ⟨10, 4, 58, 1, 0⟩, .vlds_64 ⟨10, 4, 57, 0, 0⟩, .vlds_128 ⟨10, 4, 56, 1, 0⟩, .vlds_128 ⟨10, 4, 58, 0, 0⟩,
    .vsts_32 ⟨10, 4, 8, 1, 0⟩, .vsts_32 ⟨10, 4, 60, 0, 0⟩, .vsts_64 ⟨10, 4, 2, 1, 0⟩, .vsts_64 ⟨10, 4, 57, 0, 0⟩,
    .vsts_128 ⟨10, 4, 4, 1, 0⟩, .vsts_128 ⟨10, 4, 58, 0, 0⟩, .atom 7 ⟨10, 4, 60, 3, 0⟩ 0x920c3a00,
    .atom 7 ⟨10, 4, 9, 3, 0⟩ 0x920c3a00, .atom 7 ⟨10, 4, 10, 3, 0⟩ 0x920cf200, .atom 7 ⟨11, 4, 10, 3, 0⟩ 0x920c3a00,
    .atom 7 ⟨10, 4, 10, 3, 0⟩ 0x920c3e00, .atom 7 ⟨10, 4, 10, 3, 0⟩ 0x920d3a00, .atom 7 ⟨10, 4, 10, 3, 0⟩ 0x924c3a00,
    .atom 6 ⟨10, 4, 10, 3, 0⟩ 0x920c3a00, .atom 7 ⟨10, 4, 10, 3, 0⟩ 0xb20c3a00, .atom 7 ⟨10, 4, 10, 3, 0⟩ 0x340c3800,
    .atom 7 ⟨10, 4, 10, 3, 0⟩ 0x920c3b00, .atom 7 ⟨10, 4, 10, 3, 0⟩ 0x860c3a00, .atom 7 ⟨10, 4, 10, 3, 0⟩ 0x928c3a00,
    .atom 7 ⟨10, 4, 10, 3, 0⟩ 0x920c3a01, .atoms 7 ⟨10, 4, 8, 3, 0⟩ 0xd0000, .atoms 3 ⟨10, 4, 8, 2, 0⟩ 0x0,
    .atoms 7 ⟨10, 4, 60, 0, 0⟩ 0xd0000, .atoms 7 ⟨10, 4, 8, 0, 0⟩ 0x3c0000, .atoms 7 ⟨10, 4, 8, 0, 0⟩ 0x4d0000,
    .atoms 6 ⟨10, 4, 8, 0, 0⟩ 0xd0000, .atoms 7 ⟨10, 4, 8, 0, 0⟩ 0x800000, .atoms 7 ⟨10, 4, 8, 0, 0⟩ 0x400,
    .fatom 3 ⟨10, 4, 8, 2, 0⟩, .fatom 1 ⟨11, 4, 8, 2, 0⟩, .fatom 1 ⟨10, 4, 8, 3, 0⟩, .fatom 1 ⟨10, 4, 60, 2, 0⟩,
    .mon ⟨1, 4, 0, 0, 0⟩, .mon ⟨0, 4, 1, 0, 0⟩, .mon ⟨0, 4, 0, 2, 0⟩, .mon ⟨0, 5, 0, 0, 0⟩, .mwait ⟨10, 1, 8, 0, 0⟩,
    .mwait ⟨10, 0, 8, 1, 0⟩, .mclr ⟨1, 0, 0, 0, 0⟩, .mclr ⟨0, 1, 0, 0, 0⟩, .mclr ⟨0, 0, 1, 0, 0⟩,
    .mclr ⟨0, 0, 0, 1, 0⟩] = true := by decide

theorem illformed_barriers : refuses [
    .bari ⟨5, 15, 0, 2, 0⟩, .bari ⟨5, 16, 0, 1, 0⟩, .bari ⟨5, 15, 1, 1, 0⟩, .bara ⟨0, 15, 8, 2, 0⟩,
    .bara ⟨1, 15, 8, 1, 0⟩, .barw ⟨10, 15, 0, 3, 0⟩, .barw ⟨10, 15, 1, 1, 0⟩, .barx ⟨10, 63, 0, 2, 0⟩,
    .barx ⟨10, 63, 1, 0, 0⟩, .bred ⟨10, 4, 8, 2, 0⟩, .bred ⟨10, 16, 8, 1, 0⟩, .barq ⟨3, 4, 8, 2, 0⟩,
    .barq ⟨4, 4, 8, 1, 0⟩, .barinv ⟨0, 4, 0, 2, 0⟩, .barinv ⟨0, 4, 1, 1, 0⟩, .barinv ⟨1, 4, 0, 1, 0⟩,
    .racq ⟨13, 1, 8, 1, 0⟩, .racq ⟨13, 0, 8, 2, 0⟩, .racq ⟨0, 0, 8, 1, 0⟩, .racq ⟨14, 0, 8, 1, 0⟩,
    .rrel ⟨1, 1, 0, 0, 0⟩, .rrel ⟨1, 0, 1, 0, 0⟩, .rrel ⟨1, 0, 0, 1, 0⟩, .rrel ⟨0, 0, 0, 0, 0⟩, .rqry ⟨0, 1, 8, 0, 0⟩,
    .rqry ⟨1, 0, 8, 0, 0⟩, .rqry ⟨0, 0, 8, 1, 0⟩, .ebeq ⟨10, 4, 1, 0, 0⟩ 0x80000001,
    .ebeq ⟨10, 4, 0, 1, 0⟩ 0x80000001, .ebeq ⟨10, 5, 0, 0, 0⟩ 0x80000001, .ebeq ⟨10, 4, 0, 0, 0⟩ 0x0,
    .ebeq ⟨10, 4, 0, 0, 0⟩ 0x1ff, .eclm ⟨10, 4, 3, 1, 0⟩ 0x6, .eclm ⟨10, 5, 3, 0, 0⟩ 0x6, .eclm ⟨10, 4, 3, 0, 0⟩ 0x0,
    .eclm ⟨10, 4, 60, 0, 0⟩ 0x6, .eclm ⟨10, 4, 2, 0, 0⟩ 0x6, .edrop ⟨0, 3, 63, 1, 0⟩ 0x1, .edrop ⟨0, 3, 63, 2, 0⟩ 0x0,
    .edrop ⟨1, 3, 63, 1, 0⟩ 0x0, .edrop ⟨0, 3, 60, 0, 0⟩ 0x0, .eqry ⟨10, 4, 8, 0, 0⟩ 0x1, .eqry ⟨10, 4, 8, 1, 0⟩ 0x0,
    .eqry ⟨10, 4, 60, 0, 0⟩ 0x0, .epin ⟨10, 4, 8, 1, 0⟩ 0x1, .epin ⟨10, 4, 8, 2, 0⟩ 0x0, .epin ⟨10, 4, 60, 1, 0⟩ 0x0,
    .phend ⟨60, 15, 1, 2, 0⟩ 0xfffffe, .phend ⟨61, 15, 0, 2, 0⟩ 0xfffffe, .phend ⟨60, 15, 0, 3, 0⟩ 0xfffffe,
    .phend ⟨60, 1, 0, 0, 0⟩ 0xfffffe, .phend ⟨60, 16, 0, 2, 0⟩ 0xfffffe, .phend ⟨60, 15, 0, 2, 0⟩ 0x1000000,
    .phend ⟨60, 15, 0, 2, 0⟩ 0x1, .srd ⟨2, 3, 8, 1, 0⟩, .srd ⟨15, 0, 8, 0, 0⟩, .srd ⟨2, 9, 8, 0, 0⟩,
    .swr ⟨2, 7, 8, 1, 0⟩, .swr ⟨0, 0, 8, 0, 0⟩, .swr ⟨2, 3, 8, 0, 0⟩] = true := by decide

theorem illformed_copies : refuses [
    .cpy ⟨10, 4, 10, 0, 0⟩ 0x1, .cpy ⟨10, 4, 10, 0, 0⟩ 0x800, .cpy ⟨10, 4, 10, 0, 0⟩ 0x68000,
    .cpy ⟨10, 4, 7, 0, 0⟩ 0xa5fe7c00, .cpy ⟨10, 5, 10, 0, 0⟩ 0xa5fe7c00, .cpyt ⟨10, 4, 8, 1, 0⟩ 0x80000,
    .cpyt ⟨10, 4, 8, 1, 0⟩ 0x1, .cpyt ⟨10, 4, 8, 2, 0⟩ 0x105f800, .cpyg ⟨10, 4, 8, 1, 0⟩ 0x80000,
    .cpyg ⟨10, 4, 8, 2, 0⟩ 0x70003ff, .cpyg ⟨10, 5, 8, 1, 0⟩ 0x70003ff, .cpyg ⟨11, 4, 8, 1, 0⟩ 0x70003ff,
    .cpys ⟨10, 4, 8, 1, 0⟩ 0x80000, .cpys ⟨10, 4, 8, 2, 0⟩ 0x7000201, .cpys ⟨10, 4, 7, 1, 0⟩ 0x7000201,
    .cpys ⟨11, 4, 8, 1, 0⟩ 0x7000201, .cpyp ⟨10, 4, 12, 1, 0⟩ 0x80000, .cpyp ⟨10, 4, 12, 2, 0⟩ 0x9000011,
    .cpyp ⟨10, 4, 10, 1, 0⟩ 0x9000011, .cpyp ⟨10, 4, 12, 1, 0⟩ 0x20, .cfetch ⟨0, 4, 0, 0, 0⟩ 0x80000,
    .cfetch ⟨0, 4, 0, 0, 0⟩ 0x1, .cfetch ⟨0, 4, 0, 0, 0⟩ 0x40000, .cfetch ⟨0, 4, 1, 0, 0⟩ 0xc0000400,
    .cfetch ⟨1, 4, 0, 0, 0⟩ 0xc0000400, .cfetch ⟨0, 4, 0, 1, 0⟩ 0xc0000400, .cpyz ⟨10, 0, 8, 1, 0⟩ 0x1,
    .cpyz ⟨10, 1, 8, 1, 0⟩ 0x3100000, .cpyz ⟨10, 0, 8, 2, 0⟩ 0x3100000, .cpyz ⟨10, 0, 7, 0, 0⟩ 0x3100000,
    .cpya ⟨10, 4, 9, 1, 0⟩ 0x80000, .cpya ⟨10, 4, 9, 1, 0⟩ 0x1, .cpya ⟨10, 4, 7, 2, 0⟩ 0x3000000,
    .colg ⟨10, 4, 8, 1, 0⟩ 0x1000006, .colg ⟨10, 4, 8, 0, 0⟩ 0x7, .colg ⟨10, 4, 8, 0, 0⟩ 0x80000,
    .colg ⟨10, 4, 8, 0, 0⟩ 0x8, .colg ⟨10, 4, 7, 0, 0⟩ 0x1000006, .colg ⟨10, 5, 8, 0, 0⟩ 0x1000006,
    .colg ⟨11, 4, 8, 0, 0⟩ 0x1000006, .cols ⟨10, 4, 8, 1, 0⟩ 0x42803, .cols ⟨10, 4, 8, 0, 0⟩ 0x7,
    .cols ⟨10, 4, 8, 0, 0⟩ 0x80000, .cols ⟨10, 4, 8, 0, 0⟩ 0x8, .cols ⟨10, 4, 7, 0, 0⟩ 0x42803,
    .cols ⟨10, 5, 8, 0, 0⟩ 0x42803, .cols ⟨11, 4, 8, 0, 0⟩ 0x42803, .colr ⟨10, 4, 8, 3, 0⟩ 0x1,
    .colr ⟨10, 4, 8, 2, 0⟩ 0x2, .colr ⟨10, 4, 7, 2, 0⟩ 0x1, .colb ⟨10, 4, 8, 1, 0⟩ 0x6, .colb ⟨10, 4, 8, 0, 0⟩ 0x2,
    .colb ⟨10, 5, 8, 0, 0⟩ 0x6] = true := by decide

theorem illformed_queues : refuses [
    .qpush ⟨1, 4, 3, 0, 0⟩, .qpush ⟨0, 4, 3, 1, 0⟩, .qpush ⟨0, 4, 4, 0, 0⟩, .qld ⟨10, 5, 4, 2, 0⟩,
    .qld ⟨10, 5, 2, 3, 0⟩, .qld ⟨10, 5, 2, 0, 0⟩, .qst ⟨10, 4, 4, 1, 0⟩, .qst ⟨10, 4, 1, 3, 0⟩, .qst ⟨10, 5, 1, 1, 0⟩,
    .qtok ⟨1, 4, 0, 0, 0⟩, .qtok ⟨0, 4, 1, 0, 0⟩, .qtok ⟨0, 4, 0, 1, 0⟩, .qwtok ⟨0, 1, 8, 0, 0⟩,
    .qwtok ⟨1, 0, 8, 0, 0⟩, .qwtok ⟨0, 0, 8, 1, 0⟩, .qdrn ⟨15, 1, 0, 0, 0⟩, .qdrn ⟨15, 0, 1, 0, 0⟩,
    .qdrn ⟨0, 0, 0, 3, 0⟩, .qdrn ⟨1, 0, 0, 2, 0⟩, .qdrn ⟨16, 0, 0, 0, 0⟩, .qstat ⟨8, 1, 8, 0, 0⟩,
    .qstat ⟨8, 0, 8, 1, 0⟩, .qstat ⟨9, 0, 8, 0, 0⟩, .qaff ⟨10, 4, 3, 1, 0⟩ 0x1abc00, .qaff ⟨10, 4, 4, 0, 0⟩ 0x1abc00,
    .qaff ⟨11, 4, 3, 0, 0⟩ 0x1abc00, .qaff ⟨10, 4, 3, 0, 0⟩ 0x5abc00, .qaff ⟨10, 4, 3, 0, 0⟩ 0x1abc01,
    .qaff ⟨10, 4, 3, 0, 0⟩ 0x3abc00, .qaff ⟨10, 4, 3, 0, 0⟩ 0x100000, .qaff ⟨10, 5, 3, 0, 0⟩ 0x1abc00,
    .tidq ⟨55, 4, 8, 1, 0⟩, .tidq ⟨11, 4, 8, 0, 0⟩, .tidq ⟨28, 4, 8, 0, 0⟩, .tidq ⟨56, 4, 8, 0, 0⟩,
    .tidld ⟨0, 4, 8, 1, 0⟩, .tidld ⟨1, 4, 8, 0, 0⟩, .tidld ⟨0, 5, 8, 0, 0⟩] = true := by decide

theorem illformed_engines : refuses [
    .mloop ⟨1, 55, 8, 1, 0⟩ 0x1ffff, .mloop ⟨0, 56, 8, 1, 0⟩ 0x1ffff, .mloop ⟨0, 55, 8, 2, 0⟩ 0x1ffff,
    .mloop ⟨0, 55, 8, 1, 0⟩ 0x20000, .mloopd ⟨33, 56, 8, 1, 0⟩ 0x10003, .mloopd ⟨33, 54, 8, 2, 0⟩ 0x10003,
    .mloopd ⟨33, 54, 8, 1, 0⟩ 0x80000000, .accz ⟨10, 4, 1, 0, 0⟩ 0x10000, .accz ⟨10, 4, 0, 1, 0⟩ 0x10000,
    .accz ⟨10, 4, 0, 0, 0⟩ 0x1, .accz ⟨10, 4, 0, 0, 0⟩ 0x20000, .accrd ⟨1, 4, 8, 0, 0⟩ 0x10001,
    .accrd ⟨0, 4, 8, 1, 0⟩ 0x10001, .accrd ⟨0, 4, 60, 0, 0⟩ 0x10001, .accrd ⟨0, 4, 8, 0, 0⟩ 0x2,
    .accwr ⟨10, 4, 1, 0, 0⟩ 0x1, .accwr ⟨10, 4, 0, 1, 0⟩ 0x1, .accwr ⟨10, 4, 0, 0, 0⟩ 0x8000,
    .accdrn ⟨6, 4, 7, 2, 0⟩ 0x10092, .accdrn ⟨6, 4, 7, 1, 0⟩ 0x30092, .accdrn ⟨6, 4, 7, 1, 0⟩ 0x10192,
    .accdrn ⟨6, 4, 7, 1, 0⟩ 0x6, .accdrn ⟨6, 4, 7, 0, 0⟩ 0x10092, .accdrn ⟨7, 4, 6, 0, 0⟩ 0x10092,
    .accdrn ⟨6, 4, 7, 1, 0⟩ 0x4, .accdrn ⟨6, 4, 7, 1, 0⟩ 0x100d2, .accdrn ⟨6, 4, 7, 1, 0⟩ 0x100b2,
    .awset ⟨10, 4, 8, 1, 0⟩ 0x0, .awset ⟨10, 4, 8, 0, 0⟩ 0x1, .dbind ⟨1, 56, 8, 0, 0⟩, .dbind ⟨0, 56, 8, 1, 0⟩,
    .dbind ⟨0, 57, 8, 0, 0⟩, .dbind ⟨0, 4, 8, 0, 0⟩, .dref ⟨1, 4, 8, 0, 0⟩, .dref ⟨0, 4, 8, 1, 0⟩,
    .dref ⟨0, 5, 8, 0, 0⟩, .dinv ⟨1, 6, 8, 1, 0⟩, .dinv ⟨0, 6, 8, 3, 0⟩, .dinv ⟨0, 6, 8, 2, 0⟩, .dinv ⟨0, 5, 8, 0, 0⟩,
    .dqry ⟨9, 4, 8, 1, 0⟩, .dqry ⟨9, 5, 8, 0, 0⟩, .dqry ⟨10, 4, 8, 0, 0⟩] = true := by decide

theorem illformed_work : refuses [
    .wpop ⟨10, 3, 40, 2, 0⟩, .wpop ⟨10, 4, 40, 1, 0⟩, .wpop ⟨10, 3, 4, 1, 0⟩, .wpop ⟨10, 3, 0, 1, 0⟩,
    .wpop ⟨10, 3, 48, 1, 0⟩, .wpush ⟨10, 40, 3, 1, 0⟩, .wpush ⟨10, 40, 4, 0, 0⟩, .wpush ⟨10, 4, 3, 0, 0⟩,
    .wroom ⟨10, 2, 8, 1, 0⟩, .wroom ⟨10, 4, 8, 0, 0⟩, .gsig ⟨1, 4, 0, 0, 0⟩, .gsig ⟨0, 4, 1, 0, 0⟩,
    .gsig ⟨0, 4, 0, 1, 0⟩, .corp ⟨10, 4, 8, 1, 0⟩, .corp ⟨10, 4, 60, 0, 0⟩, .corf ⟨0, 0, 8, 2, 0⟩,
    .corf ⟨0, 1, 8, 1, 0⟩, .corf ⟨1, 0, 8, 1, 0⟩, .xbind ⟨0, 4, 58, 2, 0⟩, .xbind ⟨1, 4, 58, 1, 0⟩,
    .xbind ⟨0, 4, 60, 1, 0⟩, .xbind ⟨0, 4, 7, 1, 0⟩, .cntrd ⟨0, 4, 8, 2, 0⟩, .cntrd ⟨1, 4, 8, 1, 0⟩,
    .cntrd ⟨0, 4, 7, 1, 0⟩] = true := by decide

/-- An event has no encoding. -/
theorem illformed_events : refuses [.illegalInstruction, .scrubPass, .tempThrottle] = true := by decide

/-! ### A small world: one group of three lanes on core 0, whose context maps its first gigabyte onto itself -/

/-- The three levels of a page table with one 1 GB leaf, readable and writable (R250). -/
def tables : Cells 8 := setBytes (setBytes (setBytes [] 0x10000 (leBytes 0x11001 8)) 0x11000 (leBytes 0x12001 8)) 0x12000 (leBytes 0xF 8)

def leafOf : TlbEntry := { ctx := 1, size := .large, page := 0, frame := 0, r := true, w := true, uc := false }

/-- Group 1 of team 1, launch 1 and context 1, in partition 0; `f`, `t` and `c` change the group, its team and its context. -/
def world (f : Group → Group := id) (t : Team → Team := id) (c : Ctx → Ctx := id) : State :=
  let s := withGroup State.reset
  let s := { s with
    who := (1, .split 0), serving := List.range 12, mem := tables
    parts := [(0, { running := true, clusters := [0], slots := [0], hbmSize := 0x100000000 })]
    ctxs := [(1, c { live := true, ptroot := 0x10000, ctlw := 1, trapl := 4 })] }
  let s := updCore s 0 fun k => { k with tlb := [leafOf] }
  let s := updTeam s 1 fun x => t { x with
    spsize := 4096, bars := [(0, { exp := 1 })], pools := [(0, { size := 4, free := 4 })], windows := [(0, (0, 8))], accn := 8 }
  updGrp s 1 fun g => f { g with items := 7, splits := [(0, { members := 7, am := 7 })] }

def sreg (r : Nat) (v : Word) (g : Group) : Group := putS g (.split 0) r v
def vreg (k : Nat) (v : Nat → Word) (g : Group) : Group := writeV g k 7 v
def head (b a d ty : Nat) : Head := ⟨BitVec.ofNat 6 b, BitVec.ofNat 6 a, BitVec.ofNat 6 d, BitVec.ofNat 2 ty, 0⟩

/-- The state an instruction or an event leads to. -/
def afterOf (i : Instr) (s : State) : State := match exec i s with | .next t => t | _ => {}

/-- The registers whose results are in flight behind an instruction, with their value in a lane, or a scalar's in lane 0. -/
def flies (i : Instr) (s : State) (lane : Nat) : List (Nat × Word) := (me (afterOf i s)).fly.map fun f => (f.w.reg, cellGet f.w.vals lane)

/-- Each instruction is ready. -/
def allReady (s : State) (xs : List Instr) : Bool := xs.all (ready s)

/-- The vector sources are given, and no lane of them is bad. -/
def given (s : State) (a b : Option Reg) : Bool := match sources s a b with | .go _ _ bad => bad == 0 | _ => false

/-- Split 0 with this mask. -/
def masked (m : Lanes) (g : Group) : Group := updSplit g 0 fun p => { p with am := m }

/-- Several scalar registers. -/
def sregs (xs : List (Nat × Word)) (g : Group) : Group := xs.foldl (fun g x => sreg x.1 x.2 g) g

/-! ### Registers: a state that meets the premises of each statement -/

theorem witness_registers :
    (let g := grp (world) 1
     (mapGet g.splits 0).isSome ∧ (mapGet g.splits 0).isSome = true ∧ 1 ≤ 60 ∧ 61 ≤ 63)
      ∧ (grp (world fun g => { g with aslice := some {} }) 1).aslice.isSome = true := by decide

/-- The pools of RACQ: refused past the file's end, turned away, granted, waiting; RREL past its blocks, or with them. -/
theorem witness_registerBlocks :
    let s := world (fun g => { g with rbase := 24 })
    let g := me s
    let p := poolOf (teamOf s g) g.quad
    let low := world (fun g => { g with rbase := 24 }) (fun t => { t with pools := [(0, { size := 9, free := 1 })] })
    let held := world (fun g => { g with rbase := 24, rext := 2 })
    allReady s [.racq (head 4 0 5 0), .rrel (head 1 0 0 0), .rqry (head 0 0 6 0)] = true ∧ ((60 - g.rbase) / 4 < g.rext + 10 ∨ p.size < 10)
      ∧ ¬ ((60 - g.rbase) / 4 < g.rext + 4 ∨ p.size < 4) ∧ p.waiting = [] ∧ 4 ≤ p.free ∧ g.state = .running
      ∧ (poolOf (teamOf low (me low)) 0).free < 2 ∧ ¬ (9 < 2 ∨ (poolOf (teamOf low (me low)) 0).size < 2) ∧ allReady low [.racq (head 2 0 5 0)] = true
      ∧ g.rext < 1 ∧ allReady held [.rrel (head 2 0 0 0)] = true ∧ 2 ≤ (me held).rext
      ∧ (∀ j, topReg (me held) - 8 ≤ j → j < topReg (me held) → pendsV (me held) j = false) := by
  refine ⟨by decide, by decide, by decide, by decide, by decide, by decide, by decide, by decide, by decide, by decide, by decide, by decide, ?_⟩
  intro j _ _; rfl

theorem witness_specialRegisters : allReady (world) [.srd (head 0x10 0 5 0), .srd (head 2 7 63 0), .srd (head 1 5 5 0), .swr (head 2 7 5 0), .swr (head 0 4 0 0)] = true := by decide

/-! ### Scalar arithmetic -/

/-- s4 = 5, s5 = 0x80000000, s6 = 0x144 (the field of the example after R108). -/
def scalars : State := world fun g => sreg 7 3 (sreg 6 0x144 (sreg 5 0x80000000 (sreg 4 0xABCDE1F5 g)))

/-- The forms that the statements of R107 to R112 speak of, at TY 0 to 3. -/
def scalarForms (f : Head) : List Instr := [.sadd f, .ssub f, .smul f, .smulh f, .sand f, .sor f, .sxor f, .sshl f, .sshr f, .ssra f, .smin f, .smax f,
  .ssel f, .sbfx f, .sbfi f, .smov f, .saddImm f, .ssubImm f, .smulImm f, .smulhImm f, .sandImm f, .sorImm f, .sxorImm f, .sshlImm f, .scmp 0 f, .scmp 6 f,
  .spopc f, .sclz f, .sffs f, .srev f, .slix 0 f 9, .slix 1 f 9, .slix 2 f 9, .slix 3 f 9, .sldk f]

theorem witness_scalar : (List.range 4).all (fun ty => allReady scalars (scalarForms (head 6 4 8 ty))) = true ∧ allReady scalars [.sli ⟨0x1FFFF, 8, 0⟩] = true := by decide

theorem test_sbfx : flies (.sbfx (head 6 4 8 1)) scalars 0 = [(8, 0x1F)] ∧ flies (.sbfx (head 6 4 8 0)) scalars 0 = [(8, 0xFFFFFFFF)] := by decide
/-- SBFI writes bits 8:4 of sD from a[4:0] (the example after R108). -/
theorem test_sbfi : flies (.sbfi (head 6 4 7 0)) scalars 0 = [(7, 0x153)] := by decide

/-! ### Lane arithmetic -/

/-- v2 = 2, 3, 4 and v4 = −1, 5, 0x8000FFFF by lane; s10 and s11 hold scale words; v6 holds 9. -/
def lanes : State := world fun g =>
  vreg 6 (fun _ => 9) (vreg 4 (fun i => if i = 0 then 0xFFFFFFFF else if i = 1 then 5 else 0x8000FFFF)
    (vreg 2 (fun i => BitVec.ofNat 32 (i + 2)) (sreg 12 1 (sreg 10 0x007F007F g))))

/-- The lane instructions that name `f` as their head, by the vector sources they are given. -/
def twoSources (f : Head) : List Instr := [.vadd f, .vsub f, .vmul f, .vmulh f, .vmin f, .vmax f, .vmad f, .vand f, .vor f, .vxor f, .vshl f, .vshr f,
  .vsra f, .vfadd f, .vfsub f, .vfmul f, .vfma f, .vfmin f, .vfmax f, .vcmp 0 f, .vcmp 7 f, .vshfl f]
def oneSource (f : Head) : List Instr := [.vabs f, .vpopc f, .vclz f, .vaddImm f, .vsubImm f, .vmulImm f, .vmulhImm f, .vminImm f, .vmaxImm f, .vmadImm f,
  .vandImm f, .vorImm f, .vxorImm f, .vshlImm f, .vshrImm f, .vsraImm f, .vfabs f, .vfneg f, .vrcp f, .vrsq f, .vsqrt f, .vexp2 f, .vlog2 f,
  .vsin f, .vcos f, .vtanh f, .vcvt 0 f, .vcvt 7 f, .vqblk f 3, .vdqblk f 3, .vfclass f, .vmov f, .vsel f, .vlaneV f, .vlaneS f, .vrot f, .vbln f, .vred f, .vscan f]
def shortForms (h : Short) : List Instr := [.vmov_16 h, .vadd_16 h, .vsub_16 h, .vmul_16 h, .vmin_16 h, .vmax_16 h, .vand_16 h, .vor_16 h, .vxor_16 h,
  .vshl_16 h, .vshr_16 h, .vfadd_16 h, .vfsub_16 h, .vfmul_16 h, .vfmin_16 h, .vfmax_16 h]

/-- Every lane form is ready with its sources given, the destination a register or a store-data queue, and Active(g) empty or not. -/
theorem witness_lanes :
    (List.range 4).all (fun ty => [6, 59].all fun d => allReady lanes (twoSources (head 2 4 d ty)) && allReady lanes (oneSource (head 12 4 d ty))) = true
      ∧ given lanes (some 4) (some 2) = true ∧ given lanes (some 4) none = true ∧ given lanes (some 6) (some 2) = true
      ∧ allReady lanes (shortForms ⟨2, 6⟩) = true
      ∧ allReady lanes [.vli ⟨0x1FFFF, 6, 0⟩, .vlix 0 (head 0 0 6 0) 9, .vlix 2 (head 0 0 6 0) 9, .vbcs (head 0 4 6 0), .vlaneId (head 0 0 6 2)] = true := by decide

theorem witness_laneBounds : let s := world fun g => { g with splits := [(0, { members := 7, am := 0 })], aslice := some {} }
    active (me s) s.who.2 = 0 ∧ given s (some 4) none = true ∧ allReady s [.vlaneS (head 2 60 8 1), .vred (head 0 4 8 0)] = true := by
  decide

/-- A code of each format that is no NaN: the largest finite one, an infinity, zero, the smallest subnormal. -/
theorem witness_codes : [fp32.val 0x7F7FFFFF, fp32.val 0x7F800000, fp16.val 1, bf16.val 0, e4m3.val 0x7E, e5m2.val 0x7C, e2m1.val 7].all (· != .nan) = true
    ∧ 0x7F < 2 * e4m3.sign ∧ 15 < 2 * e2m1.sign ∧ (7 : Nat) ≠ 8 ∧ e2m1.val 15 ≠ .nan := by decide

/-- The exact cases of R176: 1 / 0 = ∞, √(−1) is no number, log2 1 = 0, cos of a quarter turn = 0. -/
theorem test_exactCases : sfuExact fp32 0 0 = some 0x7F800000 ∧ sfuExact fp32 2 0xBF800000 = some 0x7FC00000 ∧ sfuExact fp32 4 0x3F800000 = some 0
    ∧ sfuExact fp32 6 0x3E800000 = some 0 := by decide

/-- −1 + 2 and |−2^15| in halves, by lane. -/
theorem test_vadd : let i := Instr.vadd (head 2 4 6 0)
    flies i lanes 0 = [(6, 1)] ∧ flies i lanes 1 = [(6, 8)] ∧ ((me (afterOf i lanes)).fly.map fun f => f.w.mask) = [7] := by decide
theorem test_vabs_halves : flies (.vabs (head 0 4 6 2)) lanes 2 = [(6, 0x80000001)] := by decide
theorem test_vshl_full : flies (.vshl (head 4 2 6 0)) lanes 0 = [(6, 0)] ∧ flies (.vshl (head 4 2 6 0)) lanes 1 = [(6, 0x60)] := by decide
/-- VRED.add.s32 over three lanes lands in the scalar after nine cycles (R143, R49). -/
theorem test_vred : ((me (afterOf (.vred (head 0 2 8 0)) lanes)).fly.map fun f => (f.due, f.w.reg, cellGet f.w.vals 0)) = [(9, 8, 9)] := by decide
theorem test_vcmp : ((me (afterOf (.vcmp 2 (head 2 4 8 0)) lanes)).fly.map fun f => (f.w.reg, cellGet f.w.vals 0)) = [(8, 5), (9, 0), (10, 0)] := by decide

/-! ### Control and traps -/

/-- s2 = 1 with triple s2.m = lanes 0 only; s10 = segment 0 offset 8; s11 to s14 = addresses that R34 refuses; s20.m none, s24.m all. -/
def control : State := world fun g =>
  sreg 24 7 (sreg 14 0x1000 (sreg 13 0x00000009 (sreg 12 0x01000000 (sreg 10 8 (sreg 2 1 g)))))
def jump (off s : Nat) : JHead := ⟨BitVec.ofNat 14 off, BitVec.ofNat 6 s, 0⟩

/-- Every branch is ready in a segment of 4096 bytes; its ends are inside, and the halfwords beyond them are not. -/
theorem witness_branches :
    allReady control [.bra (jump 2047 0), .brz (jump 0 0), .brnz (jump 0 2), .call (jump 1 5), .sdbnz (jump 1 2), .bany (jump 1 2), .ball (jump 1 2)] = true
      ∧ segOf control (me control) (pcOf (me control) (.split 0)) = some { base := 0, len := 4096, preload := true }
      ∧ branchTarget control (me control) 0 0 = some 0 ∧ branchTarget control (me control) 0 2047 = some 4094
      ∧ branchTarget control (me control) 0 2048 = none ∧ branchTarget control (me control) 0 0x3FFF = none
      ∧ sget control 0 = 0 ∧ sget control 2 ≠ 0 ∧ sget control 2 - 1 = 0 ∧ sget control 24 - 1 ≠ 0
      ∧ active (me control) (.split 0) &&& tget control 2 = 1 ∧ active (me control) (.split 0) &&& tget control 20 = 0
      ∧ active (me control) (.split 0) &&& tget control 24 = 7 := by decide

/-- The addresses of JFNC, JMPR and RET: refused by their bits or their segment, absent, past the end, resident, loading. -/
theorem witness_transfers : let s := control
    let loading := updCore s 0 fun k => { k with slots := [(31, { st := .loading, ctx := 1, base := 0, len := 4096 })] }
    let none_ := updCore s 0 fun k => { k with slots := [] }
    let short := updLaunch s 1 fun l => { l with kernel := { l.kernel with segs := [{ base := 0, len := 8, preload := true }] } }
    allReady s [.jmpr (head 0 10 0 0), .ret (head 0 10 0 0), .jfnc (head 0 10 1 0)] = true
      ∧ (sget s 12).extractLsb' 24 8 ≠ 0 ∧ (sget s 13).getLsbD 0 = true ∧ segOf s (me s) (sget s 14) = none ∧ (segOf s (me s) (sget s 10)).isSome = true
      ∧ (slotFor s 0 1 0).isSome = true ∧ ((slotFor loading 0 1 0).map fun x => x.2.st) = some .loading ∧ slotFor none_ 0 1 0 = none
      ∧ 8 ≤ (sget short 10).toNat % 4096 ∧ allReady short [.jmpr (head 0 10 0 0)] = true := by decide

/-- VBR with no lane to send, with all, with some; with four splits and a token to defer on, or none. -/
def four (toks : AMap Token) (chain : List Nat) : State := world fun g =>
  sreg 2 1 { g with splits := (List.range 4).map fun n => (n, { members := 7 <<< (3 * n), am := 7 <<< (3 * n), chain := if n = 0 then chain else [] }), tokens := toks }
theorem witness_divergence :
    allReady control [.vbr (jump 4 20), .vbr (jump 4 24), .vbr (jump 4 2), .vbrn (jump 4 2), .vbr (jump 2048 24)] = true
      ∧ (me control).splits.length < 4 ∧ mapGet (me control).splits (freeSplit (me control)) = none
      ∧ allReady (four [] []) [.vbr (jump 4 2)] = true ∧ 4 ≤ (me (four [] [])).splits.length ∧ innermost (me (four [] [])) 0 = none
      ∧ (let s := four [(0, .join 8 7 0 0 [])] [0]
         allReady s [.vbr (jump 4 2), .vbrk (jump 0 2)] = true ∧ innermost (me s) 0 = some 0 ∧ freeTok (me s) = some 1) := by decide

/-- JTOK with room and without, JOIN with no token, with lanes still missing, and with every lane there. -/
theorem witness_joins :
    let full := world fun g => { g with tokens := (List.range 8).map fun n => (n, Token.join 0 0 0 0 []) }
    let at_ := fun (l p : Lanes) => world fun g => { g with splits := [(0, { members := 7, am := 7, chain := [3] })], tokens := [(3, .join 0 l p p [])] }
    allReady control [.jtok (jump 2047 0), .jtok (jump 2048 0), .vbrk (jump 0 2), .join (jump 0 0)] = true ∧ freeTok (me control) = some 0
      ∧ innermost (me control) 0 = none ∧ (me control).splits = [(0, split (me control) 0)] ∧ (split (me control) 0).chain = []
      ∧ freeTok (me full) = none ∧ allReady full [.jtok (jump 4 0)] = true
      ∧ allReady (at_ 0x1F 8) [.join (jump 0 0)] = true ∧ allReady (at_ 0x0F 8) [.join (jump 0 0)] = true
      ∧ (0x1F &&& ~~~ ((7 : Lanes) ||| 8) ≠ 0) ∧ (0x0F &&& ~~~ ((7 : Lanes) ||| 8) = 0) := by decide

theorem witness_ends : allReady control [.exit (head 0 0 0 0), .trap (head 63 0 0 0), .bkpt (head 0 0 0 0), .nops (head 63 0 0 0), .nops (head 1 0 0 0)] = true
    ∧ allReady { world (fun g => { g with aslice := some {} }) with who := (1, .aslice) } [.exit (head 0 0 0 0)] = true := by decide

/-- The example after R46 is the kill of a group; CALL and its link; a lane that leaves by VBR; the last EXIT. -/
theorem test_call : let t := afterOf (.call (jump 4 5)) control
    pcOf (me t) (.split 0) = 8 ∧ flies (.call (jump 4 5)) control 0 = [(5, 4)] := by decide
theorem test_vbr : let t := afterOf (.vbr (jump 4 2)) control
    (split (me t) 1).pc = 8 ∧ (split (me t) 1).members = 1 ∧ (split (me t) 0).members = 6 ∧ (split (me t) 0).pc = 4 := by decide
theorem test_exit : (me (afterOf (.exit (head 0 0 0 0)) control)).state = .gone := by decide
theorem test_illegal : let t := afterOf .illegalInstruction control
    (me t).state = .gone ∧ (launch t 1).killed = 1 ∧ (ctx t 1).ctxerr = 2 := by decide

/-- Room in the trap ring of 16 records, and none. -/
theorem witness_trapEntry : let s := world
    let full := world id id fun c => { c with trapn := 16 }
    (grp s 1).monitor = none ∧ (ctx s 1).recWait = [] ∧ ((ctx s 1).trapn - (ctx s 1).trapc).toNat < 2 ^ (ctx s 1).trapl
      ∧ 2 ^ (ctx full 1).trapl ≤ ((ctx full 1).trapn - (ctx full 1).trapc).toNat := by decide

/-- TRAP 5 stops the group at its own address with cause 13 in TCAUSE and its record counted (R92, R401, R405). -/
theorem test_trap : let t := afterOf (.trap (head 5 0 0 0)) (world fun g => { g with rbase := 8 })
    pcOf (me t) (.split 0) = 0 ∧ (me t).tcause = 13 ∧ (ctx t 1).trapn = 1 ∧ (ctx t 1).ctxerr = 0 := by decide +kernel

/-! ### Stopped groups -/

/-- A group stopped by TRAP 5, with the word of TRAP 5 at its address; and one stopped by a failed fetch. -/
def stopped (t : TrapInfo) (h : Group → Group := id) : State :=
  let s := placeWord (world) 32 (2 ^ 26 * 5 + 2 ^ 9 * 4 + 8 * 9 + 1)
  updGrp s 1 fun g => h { g with state := .stopped t (.split 0) }

theorem witness_groupCommands :
    let s := stopped { cause := .swtrap, code := 5 }
    let past := updGrp s 1 fun g => setPc g (.split 0) 0x1000
    isStopped (world) 0 1 = false ∧ isStopped s 0 1 = true ∧ (grp s 1).state = .stopped { cause := .swtrap, code := 5 } (.split 0)
      ∧ (teamOf s (grp s 1)).placed = true ∧ goesOnNow s 1 = true ∧ (readImage s 1).2 = true
      ∧ (let u := updTeam s 1 fun t => { t with placed := false }
         goesOnNow u 1 = false ∧ isStopped u 0 1 = true ∧ (readImage u 1).2 = true) ∧ (mapGet (grp (readImage s 1).1 1).splits 0).isSome = true
      ∧ stoppedLen s 1 { cause := .swtrap } (.split 0) = some 4 ∧ stoppedLen past 1 { cause := .fetch } (.split 0) = none := by decide

theorem witness_stepsAndHalts :
    let s := world fun g => { g with stepLeft := some 0 }
    let frozen := world (fun g => { g with state := .stopped { cause := .bkpt, halt := true } (.split 0) }) id fun c => { c with dbgw := 2 }
    (grp s 1).state = .running ∧ (grp s 1).resident = true ∧ (grp s 1).stepLeft = some 0 ∧ (grp (world) 1).stepLeft ≠ some 0
      ∧ mapGet s.launches 9 = none ∧ (mapGet s.launches 1).isSome = true ∧ (launch s 1).part = 0 ∧ groupsOf s 1 = [1] ∧ partOf s (grp s 1) = 0
      ∧ engineFrozen frozen 0 = true ∧ freezers frozen 0 = [1] ∧ freezeOver frozen 0 = false
      ∧ (let u := updCore { frozen with time := 100000007 } 0 fun k => { k with frozenAt := some 7 }
         (Machine.core u 0).frozenAt = some 7 ∧ freezeOver u 0 = true) := by decide

/-- RESUME after TRAP goes on behind it, RESUME after PRIV at the instruction (R401). -/
theorem test_resume : let t := afterOf (.resume 0 1) (stopped { cause := .swtrap, code := 5 })
    let u := afterOf (.resume 0 1) (stopped { cause := .priv })
    (grp t 1).state = .running ∧ pcOf (grp t 1) (.split 0) = 4 ∧ pcOf (grp u 1) (.split 0) = 0 := by decide

theorem witness_systemOps :
    let s := world fun g => { g with classes := [(0, [(1, false), (2, true)])] }
    let slice := { world (fun g => { g with aslice := some {} }) with who := (1, .aslice) }
    let save := world fun g => { g with preempt := true, rbase := 24 }
    let far := world fun g => sreg 6 (0x00010040) { g with rbase := 24 }
    allReady s [.waite (head 2 0 0 0), .waite (head 1 0 0 0), .fence (head 4 0 0 0), .fence (head 2 0 0 1), .fence (head 3 0 0 2), .fence (head 1 0 0 3),
      .idem (head 0 0 0 0), .phint (head 0 0 0 0) 0xFF 0] = true
      ∧ classCount (me s) 0 = 2 ∧ (mapGet (me s).splits 0).isSome = true ∧ accessesOut (me s) (.split 0) = false
      ∧ accessesOut (me (world fun g => { g with pend := [{ id := 9, writes := [], op := some 1, stream := .split 0 }] })) (.split 0) = true
      ∧ (me save).preempt = true ∧ (me save).splits.length = 1 ∧ (me save).toks = [] ∧ allReady save [.phint (head 0 0 0 0) 0xFF 0] = true
      ∧ allReady far [.phint (head 6 0 0 0) 0 0] = true ∧ (teamOf far (me far)).spsize < ((sget far 6).toNat % 65536 + (sget far 6).toNat / 65536) * 64
      ∧ topReg (me far) = 24 ∧ active (me slice) slice.who.2 = 0 := by decide

/-! ### Memory -/

/-- The pair s4:s5 holds 0x2000, v4 offsets 0, 4 and 8, v6 data; s8:s9 is an odd byte, s10:s11 lies outside the page. -/
def mems (g : Group) : Group :=
  vreg 6 (fun i => BitVec.ofNat 32 (0x11223344 + i)) (vreg 4 (fun i => BitVec.ofNat 32 (4 * i)) (sreg 11 0x10 (sreg 8 0x2001 (sreg 6 0x55667788 (sreg 4 0x2000 g)))))
def memory : State := world mems

/-- A class 0 that holds 63 operations. -/
def fullClass (g : Group) : Group := { g with classes := [(0, (List.range 63).map fun n => (n, false))] }

def okAt (s : State) (acc : List (Nat × Addr)) (size kind : Nat) (refuse : Nat → Option Nat) : Option (List (Nat × Nat × Bool)) :=
  match checkAccesses s acc size kind refuse with | .ok xs => some xs | .stop _ => none

theorem witness_loads : let s := memory
    let off := fun (n : Nat) => (lanesOf 7).map fun x => (x, (0x2000 : Addr) + BitVec.ofNat 64 (n * x))
    allReady s ([.sld_32 (head 0 4 20 0), .sld_64 (head 0 4 20 0), .sld_32 (head 0 8 20 0)] ++ (List.range 8).map fun k => .vld (BitVec.ofNat 3 k) (head 4 4 20 0)) = true
      ∧ given s (some 4) none = true ∧ classCount (me s) 0 < 63 ∧ 63 ≤ classCount (me (world fun g => fullClass (mems g))) 0
      ∧ okAt s [(96, 0x2000)] 4 0 noRefusal = some [(96, 0x2000, false)] ∧ okAt s [(96, 0x2000)] 8 0 noRefusal = some [(96, 0x2000, false)]
      ∧ (pget s 8).toNat % 4 ≠ 0 ∧ okAt s (off 4) 4 0 noRefusal = some [(0, 0x2000, false), (1, 0x2004, false), (2, 0x2008, false)]
      ∧ (okAt s (off 16) 16 0 noRefusal).isSome = true ∧ coreBad s 0 0x2000 4 = false
      ∧ coreBad (poisonSector s 0x100) 0 0x2000 4 = true ∧ coreBad (poisonSector s 0x101) 0 0x2000 32 = false := by decide

theorem witness_stores : let s := memory
    allReady s ([.sst_32 (head 0 4 6 0), .sst_64 (head 0 4 6 0), .sst_64 (head 0 8 6 0)] ++ (List.range 6).map fun k => .vst (BitVec.ofNat 3 k) (head 4 4 20 0)) = true
      ∧ okAt s [(96, 0x2000)] 4 1 noRefusal = some [(96, 0x2000, false)] ∧ cached s 0x2000 = true ∧ linkDown s 0x2000 = false
      ∧ refusedOutside s 0x2000 4 = false ∧ (∀ e ∈ s.groups, e.2.monitor = none) ∧ (∀ e ∈ s.ctxs, e.2.tids = [] ∧ e.2.ddir = []) := by decide

theorem witness_atomics : let s := memory
    let off := (lanesOf 7).map fun x => (x, (0x2000 : Addr) + BitVec.ofNat 64 (4 * x))
    allReady s ((List.range 8).map fun k => .atom (BitVec.ofNat 3 k) (head 4 4 20 0) (2 ^ 10 * 6)) = true ∧ allReady s [.fatom 0 (head 4 4 6 0), .fatom 1 (head 4 4 6 0), .fatom 2 (head 4 4 6 0)] = true
      ∧ (okAt s off 4 2 (hostAtomic s 0)).isSome = true ∧ (okAt s off 4 2 fun pa => if cached s pa then none else some 9).isSome = true
      ∧ 16 * (heldIn s 0 + 3) ≤ (part s 0).addSize ∧ poisoned s 0x2000 4 = false
      ∧ (let t := updPart s 0 fun q => { q with addSize := 47 }; (part t 0).addSize < 16 * (heldIn t 0 + 3)) := by decide

/-- A loaded word, sign-extended halves, and what an atomic leaves. -/
def held (s : State) : State := { s with mem := setBytes s.mem 0x2000 [0xFE, 0xFF, 0x80, 0, 1, 0, 0, 0] }
theorem test_vld : let t := afterOf (.vld 3 (head 4 4 20 0)) (held memory)
    ((me t).pend.map fun p => p.writes.map fun w => (w.reg, w.mask, cellGet w.vals 0, cellGet w.vals 1)) = [[(20, 7, 0xFFFFFFFE, 1)]] := by decide
theorem test_sst : let t := afterOf (.sst_32 (head 0 4 6 0)) memory
    seen t 0 0x2000 = 0x88 ∧ seen t 0 0x2003 = 0x55 ∧ cellGet t.mem 0x2000 = 0 := by decide
theorem test_atom_add : let s := world fun g => vreg 4 (fun _ => 0) (mems g)
    leNat (homeRead (afterOf (.atom 0 (head 4 4 20 0) (2 ^ 10 * 6)) s) 0x2000 4) = (3 * 0x11223344 + 3) := by decide

theorem witness_memoryEvents :
    let s := world fun g => { g with pend := [{ id := 5, writes := [{ isV := true, reg := 3, mask := 3, vals := [(0, 8)], stream := .split 0 }], op := some 1, stream := .split 0 }] }
    let sc := world fun g => { g with pend := [{ id := 5, writes := [{ isV := false, reg := 60, vals := [(0, 8)], stream := .split 0 }], op := none, stream := .split 0 }] }
    let w := fun (va : Addr) => world fun g => setWait g (.split 0) (some (.xlate [(0, 0x2000, 0), (2, va, 1)]))
    let line := updCore (world) 0 fun k => { k with l1 := [(0x80, { bytes := List.replicate 64 7, dirty := 3, seq := 1 })] }
    ((grp s 1).pend.find? fun p => p.id == 9) = none ∧ ((grp s 1).pend.find? fun p => p.id == 5).isSome = true ∧ ((grp sc 1).pend.find? fun p => p.id == 5).isSome = true
      ∧ (grp s 1).image = none ∧ (grp s 1).hintRegs = none ∧ waitOf (grp s 1) (.split 0) = none
      ∧ waitOf (grp (w 0) 1) (.split 0) = some (.xlate [(0, 0x2000, 0), (2, 0, 1)])
      ∧ [(0, (0x2000 : Addr), 0), (2, 0, 1)].length ≤ 256 ∧ xlateTlb (w 0) 0 1 0 1 = .ok 0 false ∧ xlateWalk (w 0) 1 0x40000000 1 = .fail 1 ∧ xlateTlb (w 0) 0 1 0x40000000 1 = .miss
      ∧ mapGet (Machine.core (world) 0).l1 0x80 = none ∧ (mapGet (Machine.core line 0).l1 0x80).isSome = true ∧ linkDown line 0x2000 = false := by decide

theorem witness_scratchpad :
    let s := world (fun g => vreg 4 (fun i => BitVec.ofNat 32 (16 * i)) (vreg 2 (fun _ => 3) (vreg 8 (fun i => BitVec.ofNat 32 (4096 - 16 * i)) (vreg 10 (fun i => BitVec.ofNat 32 i) g))))
    allReady s [.vlds_32 (head 0 4 20 0), .vlds_64 (head 0 4 20 0), .vlds_128 (head 255 4 20 0), .vsts_32 (head 0 4 2 0), .vsts_64 (head 0 8 2 0), .vsts_128 (head 0 10 4 0),
        .atoms 0 (head 2 4 20 0) 0, .atoms 7 (head 2 4 20 0) (2 ^ 16 * 4), .atoms 2 (head 2 4 0 2) (2 ^ 22)] = true
      ∧ given s (some 4) none = true ∧ given s (some 4) (some 2) = true ∧ (∀ e ∈ s.groups, e.2.monitor = none) ∧ (teamOf s (me s)).spsize = 4096
      ∧ banksShared (Machine.core s 0) = false ∧ banksShared { (Machine.core s 0) with outgoing := [5] } = true
      ∧ bankCost [0, 16, 32] + 0 ≤ 11 ∧ 11 < bankCost [0, 16, 32] + 8 + 4 ∧ 11 < bankCost ((List.range 12).map fun i => 8192 * i) := by decide
theorem test_vsts : let s := world fun g => vreg 4 (fun _ => 8) (vreg 2 (fun i => BitVec.ofNat 32 (i + 1)) g)
    cellGet (team (afterOf (.vsts_32 (head 0 4 2 0)) s) 1).sp 8 = 3 := by decide

/-! ### Barriers and monitors -/

theorem witness_barriers :
    let s := world fun g => sreg 10 0x1001 (sreg 9 0x7FFFFFFF (sreg 8 0x21 (sreg 6 1 (sreg 7 1 g))))
    let there := world (fun g => sreg 6 0 g) fun t => { t with bars := [(0, { exp := 2, arr := 1, arrived := [0], ph := 4, tx := 1 })] }
    let last := world (fun g => { g with splits := [(0, { members := 7, wait := some (.bred false 0 4 5) })] })
      fun t => { t with bars := [(0, { exp := 1, arr := 1, arrived := [0], ph := 4, payload := [(0, 9)] })] }
    let all := fun (a b : Nat) => let f := head b a 5 0; [Instr.bari f, .bara f, .barw f, .barx f, .bred f, .barq f, .barinv f]
    allReady s (all 0 6) = true ∧ allReady s (all 1 6) = true ∧ allReady there (all 0 6) = true ∧ (launchOf s (me s)).kernel.nbar = 1
      ∧ ¬ ((sget s 6).toNat % 512 = 0 ∨ (barOf s 1 false 0).arr ≠ 0) ∧ 32 < (sget s 8).toNat % 512 ∧ (barOf there 1 false 0).arr ≠ 0
      ∧ barKey there (me there) ∈ (barOf there 1 false 0).arrived ∧ barKey s (me s) ∉ (barOf s 1 false 0).arrived
      ∧ (barOf s 1 false 0).ph = sget s 0 ∧ (barOf s 1 false 0).ph ≠ sget s 6 ∧ 2 ^ 31 - 1 < (barOf there 1 false 0).tx.toInt + (sget s 9).toNat
      ∧ (barOf s 1 false 0).tx.toInt + (sget s 9).toNat ≤ 2 ^ 31 - 1
      ∧ (barOf last 1 false 0).exp ≤ (barOf last 1 false 0).arr ∧ (barOf last 1 false 0).tx = 0 ∧ 1 ∈ barGroups last 1 false
      ∧ (grp last 1).state = .running ∧ (let t := updGrp last 1 fun g => { g with state := .parked }; (grp t 1).state ≠ .running ∧ (grp t 1).splits = (grp last 1).splits) := by decide

/-- The only arrival completes the phase; BARQ 0 packs EXP, ARR and PH. -/
theorem test_bara : let t := afterOf (.bara (head 0 0 5 0)) (world)
    (barOf t 1 false 0).ph = 1 ∧ (barOf t 1 false 0).arr = 0 ∧ readS (me t) (.split 0) 5 = 0 := by decide
theorem test_barq : readS (me (afterOf (.barq (head 0 0 5 0)) (world fun g => g) )) (.split 0) 5 = 0x00800000 := by decide

theorem witness_monitors :
    let m : Monitor := { sp := false, line := 0x2000, latch := false }
    let s := world fun g => { mems g with monitor := some m }
    let w := fun (t : Option Addr) => world fun g =>
      { g with monitor := some m, splits := [(0, { members := 3, am := 3 }), (1, { members := 4, wait := some (.mwait t 7) })] }
    allReady s [.mon (head 0 4 0 0), .mon (head 0 10 0 0), .mon (head 0 4 0 1), .mon (head 0 0 0 1), .mwait (head 0 0 7 0), .mclr (head 0 0 0 0)] = true
      ∧ xlateAccess s (me s) 0 noRefusal 0x2000 = .ok 0x2000 false ∧ xlateAccess s (me s) 0 noRefusal (pget s 10) = .fail 1
      ∧ xlateAccess (updCore s 0 fun k => { k with tlb := [] }) (me s) 0 noRefusal 0x2000 = .miss ∧ xlateAccess s (me s) 0 noRefusal 0x0200000000000000 = .fail 2
      ∧ (me s).monitor = some m ∧ (me (world)).monitor = none ∧ (teamOf s (me s)).spsize ≤ (sget s 8).toNat
      ∧ allReady (w none) [.mclr (head 0 0 0 0)] = true ∧ waitOf (me (w none)) (.split 1) = some (.mwait none 7)
      ∧ waitOf (me (w (some 0))) (.split 1) = some (.mwait (some 0) 7) ∧ (0 : Addr) ≤ (w (some 0)).time ∧ (w (some 1)).time < (1 : Addr)
      ∧ (grp (w none) 1).state = .running ∧ (grp (updGrp (w none) 1 fun g => { g with state := .parked }) 1).state ≠ .running := by decide
theorem test_mwait : let s := world fun g => { g with monitor := some { sp := true, line := 0, latch := true } }
    let t := afterOf (.mwait (head 0 0 7 0)) s
    (me t).monitor = none ∧ readS (me t) (.split 0) 7 = 0 ∧ readS (me (afterOf (.mwait (head 0 0 7 0)) (world))) (.split 0) 7 = 3 := by decide

/-! ### Queues -/

/-- A two-slice group whose compute slice's first split runs; its address slice issues in `qa`. -/
def qc (h : Group → Group := id) : State := world (fun g => h { g with aslice := some {} }) fun t => { t with spsize := 4096 }
def qa (h : Group → Group := id) : State := { qc (fun g => h { g with sregs := [], aslice := some { sregs := [(0, 7), (6, 0x2000), (8, 4)] } }) with who := (1, .aslice) }
def entry (n : Nat) : QEntry := { id := n, mask := 7, vals := [(0, 9), (1, 8)] }
def opWith (es : List QEntry) (g : Group) : Group := { g with q := [(0, es)] }
def stWith (es : List QEntry) (g : Group) : Group := { g with sq := [(0, es)] }

theorem witness_queues :
    let h := fun (b a d ty : Nat) => head b a d ty
    let f8 := qa (opWith ((List.range 8).map entry))
    let stream : Affine := { q := 0, kind := 0, base := 0x2000, stride := 4, step := 64, left := 3 }
    let st := fun (e : QEntry) => qa (stWith [e])
    let d := fun (_ : State) (n : Addr) => ({ kind := 0, base := n, stride := 4 } : LoadDesc)
    let wt := qa fun g => { g with toks := [5, 6] }
    let lossy := qa fun g => { g with qloss := 0x7FFFFFFF }
    let gone := qa fun g => { g with exited := 7, splits := [] }
    allReady (qa) [.qpush (h 0 6 0 0), .qld (h 8 6 0 0), .qld (h 8 6 0 2), .qst (h 8 6 0 0), .qaff (h 8 6 0 0) 0, .qdrn (h 1 0 0 0), .qdrn (h 2 0 0 1), .qdrn (h 0 0 0 2)] = true
      ∧ allReady (qc) [.qtok (h 0 6 0 0)] = true ∧ allReady (qa) [.qwtok (h 0 0 7 0), .qstat (h 0 0 7 0), .qstat (h 4 0 7 0), .qstat (h 8 0 7 0)] = true
      ∧ streaming (me (qa)) 0 = false ∧ streaming (me (qa fun g => { g with affine := [stream] })) 0 = true ∧ 8 ≤ (opQ (me f8) 0).length ∧ allReady f8 [.qpush (h 0 6 0 0)] = true
      ∧ loadWaits (qa) 1 (d (qa) 0x2000) (loadLanes (me (qa))) = none ∧ checkLane (qa) 1 (d (qa) 0x2000) 0 0 = .mem 0x2000 false
      ∧ (match checkLane (qa) 1 (d (qa) 0x3FFFFFFE) 0 0 with | .fail _ => true | _ => false) = true
      ∧ checkLane (qa) 1 { kind := 2, base := 8, stride := 4 } 0 1 = .sp 12 ∧ spBad (qa) 1 8 4 = false ∧ coreBad (poisonSector (qa) 0x100) 0 0x2000 4 = true
      ∧ stQ (me (qa)) 0 = [] ∧ computeGone (me (qa)) = false ∧ computeGone (me gone) = true
      ∧ stQ (me (st (entry 1))) 0 = [entry 1] ∧ (entry 1).due ≤ nowOf (st (entry 1)) (me (st (entry 1))) ∧ classCount (me (st (entry 1))) 0 < 63
      ∧ nowOf (st (entry 1)) (me (st (entry 1))) < ({ entry 1 with due := 99 } : QEntry).due ∧ cached (qa) 0x2000 = true ∧ linkDown (qa) 0x2000 = false
      ∧ refusedOutside (qa) 0x2000 4 = false
      ∧ (me wt).toks = [5, 6] ∧ (me (qa)).toks = [] ∧ (me (qa)).qwCounted = false ∧ (me lossy).qloss.toNat % 2 ^ 31 = 2 ^ 31 - 1 ∧ (me lossy).qlossAt ≠ lossy.clk.toNat + 1 ∧ (∀ e ∈ (qa).ctxs, e.2.tids = [] ∧ e.2.ddir = [])
      ∧ (let u := qa fun g => { g with qloss := 0x7FFFFFFF, qlossAt := 1 }; (me u).qlossAt = u.clk.toNat + 1)
      ∧ 16 ≤ (me (qc fun g => { g with toks := List.replicate 16 0 })).toks.length ∧ (grp (qa fun g => { g with affine := [stream] }) 1).affine = [stream]
      ∧ waitOf (grp (qc fun g => setWait g (.split 0) (some .pop)) 1) (.split 0) = some .pop := by decide

theorem witness_queuePops :
    let s := fun (es : List QEntry) (h : Group → Group) => qc fun g => h (vreg 5 (fun i => BitVec.ofNat 32 i) (opWith es g))
    let info : TrapInfo := { cause := .prot }
    let bad : QEntry := { entry 1 with faults := [(1, info), (2, info)] }
    let out := fun (h : Group → Group) => world (fun g => h { g with aslice := some { exited := true } })
    let idle := fun g => masked 0 g
    allReady (s [entry 1] id) [.vadd (head 5 60 4 0)] = true ∧ active (me (s [] id)) (.split 0) = 7
      ∧ unpopped (opQ (me (s [] id)) 0) = [] ∧ (slice (me (s [] id))).exited = false ∧ (slice (me (out id))).exited = true ∧ streaming (me (out id)) 0 = false
      ∧ unpopped (opQ (me (s [entry 1, entry 2] id)) 0) = [entry 1, entry 2] ∧ (bad.faults.map (·.1)).Pairwise (· < ·) ∧ unpopped (opQ (me (s [bad] id)) 0) = [bad]
      ∧ 8 ≤ (opQ (me (s ((List.range 8).map fun n => { entry n with held := true }) id)) 0).length - (unpopped (opQ (me (s ((List.range 8).map fun n => { entry n with held := true }) id)) 0)).length
      ∧ active (me (s [entry 1] idle)) (.split 0) = 0 ∧ (∀ x ∈ opQ (me (s [entry 1] id)) 0, x.held = false) ∧ (me (s [entry 1] fun g => { g with idem := true })).idem = true := by decide

/-- A pop adds the head's values; QSTAT 0 counts one filled entry of one in flight. -/
theorem test_pop : let t := afterOf (.vadd (head 5 60 4 0)) (qc fun g => vreg 5 (fun _ => 1) (opWith [entry 1] g))
    opQ (me t) 0 = [] ∧ ((me t).fly.map fun y => (y.w.reg, cellGet y.w.vals 0)) ++ [(4, readV (me t) 4 0)] ∈ [[(4, 0), (4, 10)], [(4, 10), (4, 0)], [(4, 10)]] := by decide
theorem test_qstat : ((me (afterOf (.qstat (head 0 0 7 0)) (qa (opWith [entry 1])))).fly.map fun y => (y.due, y.w.reg, cellGet y.w.vals 0)) = [(2, 7, 0x01000101)] := by decide

/-! ### Estates and phases -/

def est (ns ident : Word) (h : Estate → Estate := id) : Estate :=
  h { ns := ns, ident := ident, tags := 0, regs := [3, 4], isOpen := true, launch := 2, lin := 0, gix := 0, lane := 0, group := 9, core := some 0 }

/-- The namespace is 5 and the identities 10, 11 and 12; launch 1 is ordered after launch 2. -/
def estates (es : List Estate) (h : Group → Group := id) : State :=
  let s := world (fun g => h (vreg 4 (fun i => BitVec.ofNat 32 (10 + i)) (sreg 6 5 g))) id fun c => { c with estates := es }
  updLaunch s 1 fun l => { l with after := [2] }

theorem witness_estates :
    let s := estates [est 5 10]
    let f := head 4 6 20 0
    let none_ := estates []
    let pend := est 5 11 fun e => { e with isOpen := false, launch := 1 }
    let one := estates [est 5 10] fun g => masked 1 g
    let far := estates [est 5 10 fun e => { e with core := none, slot := some 3 }] fun g => masked 1 g
    allReady s [.ebeq f 0x300, .eclm f 0x300, .edrop f 0, .edrop (head 0 6 20 1) 0, .eqry f 0, .epin f 0, .epin (head 4 6 20 1) 0] = true
      ∧ given s none (some 4) = true ∧ sget s 6 = 5 ∧ sget (estates [] fun g => sreg 6 0 g) 6 = 0
      ∧ allReady (estates [] fun g => sreg 6 0 g) [.ebeq f 0x300, .eclm f 0x300, .edrop f 0, .eqry f 0, .epin f 0] = true
      ∧ hayUsed s 0 + 3 ≤ 4096 ∧ (∀ z ∈ lanesOf 7, findPending s 1 1 5 (BitVec.ofNat 32 (10 + z)) = none)
      ∧ findOpen s 1 1 5 10 = some (est 5 10) ∧ findOpen none_ 1 1 5 10 = none ∧ findPending (estates [pend]) 1 1 5 11 = some pend
      ∧ active (me one) (.split 0) = 1 ∧ allReady one [.epin f 0] = true ∧ findOpen far 1 1 5 10 = some (est 5 10 fun e => { e with core := none, slot := some 3 })
      ∧ allReady (estates [] fun g => masked 0 g) [.eclm f 0x300] = true ∧ given (estates [] fun g => masked 0 g) none (some 4) = true := by decide

/-! ### Claims and phases -/

def claimOf (todo : List (Nat × Word)) (h : Claim → Claim := id) : Claim :=
  h { id := 4, heir := false, todo := todo, ns := 5, tags := 0, regs := [20, 21], vs := 22, mask := 7 }

theorem witness_claims :
    let s := fun (es : List Estate) (k : Claim) => estates es fun g => { g with claims := [k] }
    let k := claimOf [(0, 10), (95, 11)]
    let away := est 5 10 fun e => { e with core := some 1 }
    let lineOut := est 5 10 fun e => { e with core := none, slot := some 0 }
    let nowhere := est 5 10 fun e => { e with core := none }
    let mv := claimOf [(0, 10)] fun c => { c with moving := some (0, 10) }
    let raw := claimOf [(0, 10)] fun c => { c with tags := 0xA }
    let lost := est 5 10 fun e => { e with lost := true }
    ((grp (s [] k) 1).claims.find? (fun c => c.id == 4)) = some k ∧ ((grp (s [] k) 1).claims.find? (fun c => c.id == 5)) = none ∧ k.moving = none ∧ mv.moving ≠ none
      ∧ k.todo = (0, 10) :: [(95, 11)] ∧ findOpen (s [] k) 1 1 5 10 = none ∧ findOpen (s [est 5 10] k) 1 1 5 10 = some (est 5 10)
      ∧ findOpen (s [nowhere] k) 1 1 5 10 = some nowhere ∧ findOpen (s [away] k) 1 1 5 10 = some away ∧ findOpen (s [lineOut] k) 1 1 5 10 = some lineOut
      ∧ findOpen (s [lost] k) 1 1 5 10 = some lost ∧ hayUsed (s [] mv) 0 < 4096
      ∧ ((ctx (s [est 5 10 fun e => { e with moving := true, mover := 4 }] mv) 1).estates.find? fun e => e.moving && e.mover == 4).isSome = true
      ∧ raw.tags.toNat % 16 ≠ (est 5 10 fun e => { e with tags := 3 }).tags.toNat % 16 ∧ (claimOf []).lost = []
      ∧ (claimOf []).todo = [] ∧ (claimOf []).regs.Nodup ∧ (claimOf []).vs ∉ (claimOf []).regs ∧ (me (s [] (claimOf []))).dead.getLsbD 2 = false := by decide

/-- A queued phase of group 1: nothing else holds registers of its core. -/
def phased (h : Group → Group := id) : State :=
  let s := world (fun g => h { g with state := .phase, resident := false, carry := 1 }) id fun c => { c with phss := 4096 }
  updCore s 0 fun k => { k with paddock := [1], ready := [1] }

theorem witness_phases :
    let s := updLaunch (world) 1 fun l => { l with kernel := { l.kernel with phased := true, nbar := 2 } }
    let i := fun (b a ty : Nat) => Instr.phend (head b a 0 ty) 64
    let with_ := fun (h : Group → Group) => updMe s h
    let due := phased fun g => { g with recordDue := true }
    let busy := updGrp (phased fun g => { g with rext := 60 }) 1 id
    let out := updCore (phased) 0 fun k => { k with phaseOut := [1], paddock := [1], ready := [1] }
    let early := world fun g => { g with state := .phase, phaseWait := some { span := false, n := 0, phase := 0 } }
    allReady s [i 60 0 0, i 61 0 0, i 4 1 1, i 4 63 2] = true ∧ (launchOf s (me s)).kernel.phased = true ∧ (launchOf (world) (me (world))).kernel.phased = false
      ∧ (me s).splits.length ≤ 1 ∧ (me s).tokens = [] ∧ (me s).rbase + 4 * (me s).rext = 60 ∧ hayUsed s 0 + (5 + 6 * 60) ≤ 4096
      ∧ (poolOf (teamOf s (me s)) 0).waiting = [] ∧ (me s).monitor = none ∧ (me s).pend = [] ∧ (me s).claims = []
      ∧ barKey s (me s) ∉ (barOf s 1 false 0).arrived ∧ 1 ∈ barGroups s 1 false ∧ (barOf s 1 false 0).exp ≤ (barOf s 1 false 0).arr + 1
      ∧ (barOf s 1 false 1).tx = 0 ∧ allReady (with_ fun g => { g with claims := [claimOf []] }) [i 4 0 0] = true
      ∧ (let t := updTeam s 1 fun t => { t with bars := [(0, { exp := 2 })] }; (barOf t 1 false 0).arr + 1 < (barOf t 1 false 0).exp)
      ∧ (me s).fly = [] ∧ (teamOf s (me s)).placed = true ∧ phaseReady (phased) 1 = true ∧ recordHere (phased) 1 = true ∧ phaseReady early 1 = false
      ∧ recordHere out 1 = false ∧ (resumePlace out 1).isSome = true ∧ (paddockOrder due 0).filter (fun z => (grp due z).recordDue && groupCtx due z == groupCtx due 1) = [1]
      ∧ keysOf due.cores = [0] ∧ (Machine.core (updCore due 0 fun k => { k with outgoing := [5, 11] }) 0).outgoing.headD 0 = 5
      ∧ resumePlace (phased) 1 = some (0, 0) ∧ (grp (phased) 1).recErr = 0 ∧ (grp (phased) 1).failDue = none ∧ (Machine.core (world) 0).paddock = []
      ∧ (Machine.core due 0).paddock = [1] ∧ (grp due 1).recordDue = true ∧ 1 ∉ (Machine.core due 0).phaseOut ∧ 320 + 384 * (grp due 1).carry ≤ (ctx due (groupCtx due 1)).phss
      ∧ (ctx due (groupCtx due 1)).phased = [] ∧ (grp busy 1).rext = 60 := by decide

/-- With every slot of every quad taken no phase can resume. -/
theorem witness_noPlace :
    let s := phased fun g => { g with rbase := 200, rext := 1 }
    let s := { s with groups := mapPut s.groups 2 { (grp s 1) with state := .running, resident := true, slot := 1 } }
    resumePlace s 1 = none := by decide

/-! ### Tensor identifiers and the delta directory -/

/-- A descriptor: base 0x4000, scales at `sb`, format, rank 2, flags, dimensions 64 and 2, strides 1 and 64 elements. -/
def descriptor (fmt fl sb : Nat) : List Byte :=
  leBytes 0x4000 8 ++ leBytes sb 8 ++ leBytes 0 8 ++ leBytes fmt 1 ++ leBytes 1 1 ++ leBytes 2 1 ++ leBytes fl 1 ++ leBytes 0 12 ++ leBytes 0 8
    ++ leBytes 64 4 ++ leBytes 2 4 ++ leBytes 0 40 ++ leBytes 1 8 ++ leBytes 64 8 ++ leBytes 0 144

def tensors (va : Nat) (t : Word) (h : Ctx → Ctx := id) : State :=
  { world (fun g => sreg 8 t (sreg 6 (BitVec.ofNat 32 va) g)) id h with mem := setBytes tables 0x2000 (descriptor 3 2 0x8000) }

theorem witness_tensorIds :
    let s := tensors 0x2000 1023
    let f := head 0 6 8 0
    allReady s [.tidq (head 0 8 7 0), .tidq (head 47 8 7 0), .tidld f] = true ∧ (sget s 8).toNat = 1023 ∧ (sget (tensors 0x2000 1024) 8).toNat = 1024
      ∧ (ctx s 1).ctlw.getLsbD 0 = true ∧ (ctx (tensors 0x2000 1 fun c => { c with ctlw := 0 }) 1).ctlw.getLsbD 0 = false
      ∧ (pget s 6).toNat % 64 = 0 ∧ (pget (tensors 0x2004 1) 6).toNat % 64 ≠ 0 ∧ (match checkRange s 1 0x2000 256 0 with | .ok => true | _ => false) = true
      ∧ (match checkRange s 1 0x3FFFFFC0 256 0 with | .trap _ => true | _ => false) = true
      ∧ readLines s 0 1 0x2000 4 = (descriptor 3 2 0x8000, false) ∧ (readLines (poisonSector s 0x100) 0 1 0x2000 4).2 = true
      ∧ descriptorOk (descriptor 3 2 0x8000) = true ∧ descriptorOk (descriptor 7 0 0) = false ∧ descriptorOk (descriptor 8 0 0) = false
      ∧ (match checkRange { s with mem := setBytes s.mem 0x12000 [0x1F] } 1 0x2000 256 0 with | .zero _ => true | _ => false) = true
      ∧ waitOf (grp (world fun g => setWait g (.split 0) (some (.tidld 3))) 1) (.split 0) = some (.tidld 3) := by decide

/-- DBIND reads s8 to s15: key 0x77, stream 1, weight identifier 5, granule 1, 4 steps, X at 0x4000 and Y at 0x8000. -/
def binding (w : Word) (ks : Word) (x : Word) (h : Ctx → Ctx := id) : State :=
  world (fun g => sreg 14 0x8000 (sreg 12 x (sreg 11 ks (sreg 10 w (sreg 9 1 (sreg 8 0x77 g)))))) id
    fun c => h { c with tids := [(5, { valid := true, delta := true, wver := 3 })] }

def made (h : DEntry → DEntry := id) : DEntry :=
  h { tag := 0x77, strm := 1, wid := 5, ks := 4, xaddr := 0x4000, yaddr := 0x8000, wseen := 3, used := true }

/-- A directory of 8192 busy entries. -/
def fullDir : Ctx := { ddir := (List.range' 0 8192).map fun n => (n, { used := true, busy := true }) }

theorem mapGet_range' {β : Type} (e : β) (n : Nat) : ∀ a j, a ≤ j → j < a + n → mapGet ((List.range' a n).map fun k => (k, e)) j = some e := by
  induction n with
  | zero => omega
  | succ n ih =>
    intro a j h1 h2
    rw [List.range'_succ, List.map_cons, mapGet]
    split
    · rfl
    · exact ih (a + 1) j (by omega) (by omega)

theorem takeEntry_none (c : Ctx) (h1 : ∀ n, n < 8192 → ∃ e, mapGet c.ddir n = some e ∧ e.used = true)
    (h2 : ∀ e ∈ c.ddir, e.2.busy = true) : takeEntry c = none := by
  have hb : (c.ddir.filter fun e => !e.2.busy) = [] := List.filter_eq_nil_iff.mpr fun e he => by simp [h2 e he]
  unfold takeEntry
  split
  · rename_i n hn
    obtain ⟨e, h, hu⟩ := h1 n (by simpa using List.mem_of_find?_eq_some hn)
    have := List.find?_some hn
    simp [h, hu] at this
  · rw [hb]; rfl

theorem findKey_none (c : Ctx) (tag strm : Word) (h : ∀ e ∈ c.ddir, e.2.tag ≠ tag) : findKey c tag strm = none := by
  unfold findKey
  rw [List.find?_eq_none.mpr fun e he => by simp [h e he]]
  rfl

theorem witness_fullDirectory : takeEntry fullDir = none ∧ findKey fullDir 0x77 1 = none := by
  have h : ∀ e ∈ fullDir.ddir, e.2.busy = true ∧ e.2.tag ≠ 0x77 := by
    intro e he
    obtain ⟨n, -, rfl⟩ := List.mem_map.mp he
    exact ⟨rfl, (by decide : (0 : Word) ≠ 0x77)⟩
  exact ⟨takeEntry_none _ (fun n hn => ⟨_, mapGet_range' _ _ 0 n (Nat.zero_le n) (by omega), rfl⟩) fun e he => (h e he).1,
    findKey_none _ _ _ fun e he => (h e he).2⟩

theorem witness_deltaDirectory :
    let w := 2 ^ 16 + 5
    let s := binding w 4 0x4000
    let has_ := fun (e : DEntry) => binding w 4 0x4000 fun c => { c with ddir := [(0, e)] }
    let eq := fun (e : DEntry) => e.wid = 5 ∧ e.ks = 4 ∧ e.xaddr = 0x4000 ∧ e.yaddr = 0x8000 ∧ e.wseen = 3
    let u := fun (s : State) => dropClean (endBinding s 1) 0
    let bound := updGrp (has_ (made fun e => { e with busy := true })) 1 fun g => { g with dstat := 0x10000000, binding := some { entry := 0, wid := 5, steps := 4, xaddr := 0, yaddr := 0, wver := 3 } }
    allReady s [.dbind (head 0 8 7 0), .dref (head 0 8 7 0), .dinv (head 0 8 7 0), .dinv (head 0 8 7 1), .dinv (head 0 8 7 2), .dqry (head 0 8 7 0), .dqry (head 9 8 7 0)] = true
      ∧ tidOf s 1 5 = { valid := true, delta := true, wver := 3 } ∧ (tidOf (binding 6 4 0x4000) 1 6).valid = false
      ∧ (sget (binding w 0 0x4000) 11).toNat = 0 ∧ (sget (binding w 257 0x4000) 11).toNat = 257 ∧ (sget (binding (192 * 2 ^ 16) 4 0) 10).toNat / 65536 % 256 = 192
      ∧ (sget (binding w 4 0x4001) 12).toNat % 64 ≠ 0 ∧ findKey (ctx (u s) 1) 0x77 1 = none ∧ takeEntry (ctx (u s) 1) = some 0
      ∧ findKey (ctx (u (has_ (made))) 1) 0x77 1 = some 0 ∧ eq (made) ∧ takeEntry (ctx (u (has_ (made fun e => { e with tag := 1 }))) 1) = some 1
      ∧ (me (u (has_ (made)))).dri.toNat = 16 ∧ (made fun e => { e with cnt := 16 }).cnt = 16 ∧ findKey (ctx (has_ (made fun e => { e with busy := true })) 1) 0x77 1 = some 0
      ∧ findKey (ctx (u (has_ (made fun e => { e with busy := true }))) 1) 0x77 1 = some 0
      ∧ (grp bound 1).binding.isSome = true ∧ (grp bound 1).dstat.toNat / 2 ^ 29 = 0 ∧ (mapGet (ctx bound (ctxOf bound (grp bound 1))).ddir 0).isSome = true
      ∧ (grp bound 1).dstat.getLsbD 28 = true ∧ ¬ eq (made fun e => { e with ks := 5 }) := by decide

/-- The first binding of a key is status 0 with a new entry; a second DBIND with it unchanged is status 1 (R390, R376). -/
theorem test_dbind : let s := binding (2 ^ 16 + 5) 4 0x4000
    let t := afterOf (.dbind (head 0 8 7 0)) s
    let u := afterOf (.dbind (head 0 8 7 0)) (binding (2 ^ 16 + 5) 4 0x4000 fun c => { c with ddir := [(0, made)] })
    (me t).dstat = 0x00100000 ∧ (me u).dstat = 0x20100000 := by decide

/-! ### Copies and collectives -/

/-- s4:s5 is 0x2000, s8:s9 is 0x3000, s6 and s7 are 64, s12 names tensors 2 and 3; ring 0 lies at 0x5000 with its records at 0x6000. -/
def copies (ops : List CopyOp) (h : Group → Group := id) (ts : List (Nat × Tid) := []) : State :=
  let s := world (fun g => h { sreg 12 (2 + 65536 * 3) (sreg 8 0x3000 (sreg 7 64 (sreg 6 64 (sreg 4 0x2000 g)))) with cring := 16 }) id
    fun c => { c with ringt := 0x5000, tids := ts }
  let s := updCore s 0 fun k => { k with copies := ops }
  { s with mem := setBytes s.mem 0x5000 (leBytes 0x6000 8 ++ [3] ++ leBytes 0 7) }

def noChecks : CopyChecks := {}
def passes (s : State) (t : Word) (k : CopyChecks) : Bool := (copyFails s t k).isNone

theorem witness_copyIssue :
    let s := copies []
    let row := copies [] fun g => sreg 9 16 g
    let tt : Tid := { valid := true, rank := 1, dims := [64], strides := [1], fmt := 0, base := 0x2000 }
    let box : Tid := { valid := true, rank := 1, dims := [32], strides := [1], fmt := 0 }
    let ten := copies [] (sreg 6 0) [(2, tt), (3, box)]
    let t : Word := 2 ^ 18
    let open_ : CopyOp := { id := 9, min := 0, team := 1, np := 1, started := false, issued := [7] }
    let two := copies [open_] fun g => { g with gix := 1 }
    let owned := updCore s 0 fun k => { k with eng0 := [{ id := 3, eng := 0, group := 1, row := 0, rows := 8, form := .plain }] }
    let bars := updLaunch s 1 fun l => { l with kernel := { l.kernel with nbar := 64 } }
    allReady s ([0, 1, 2, 3].flatMap fun ty => [.cpy (head 6 4 8 ty) 0, .cpyz (head 6 0 8 0) 0, .cpyg (head 6 4 8 0) 0, .cpys (head 6 4 8 0) 0, .cpya (head 6 4 8 ty) 0, .cfetch (head 0 7 0 0) 0,
        .colg (head 6 4 8 0) 0, .cols (head 6 4 8 0) 0, .colr (head 6 4 8 ty) 0, .colb (head 6 4 8 0) 0]) = true
      ∧ allReady ten [.cpyt (head 6 12 8 0) 0, .cpyt (head 6 12 8 1) 0, .cpyp (head 6 12 8 0) 0, .cpyp (head 6 12 8 1) 0] = true
      ∧ 128 ≤ (Machine.core (copies (List.replicate 128 open_)) 0).copies.length ∧ classCount (me s) 1 < 63 ∧ (Machine.core s 0).copies.length < 128
      ∧ passes s 0 noChecks = true ∧ passes s t noChecks = true ∧ passes s (t + 2048 * 63) noChecks = false ∧ passes bars (t + 2048 * 63) noChecks = true ∧ passes s (t + 2 ^ 17) noChecks = false
      ∧ passes s 1024 noChecks = true ∧ passes (copies [] fun g => { g with cring := 0 }) 1024 noChecks = false ∧ passes (copies [] fun g => { g with cring := 17 }) 1024 noChecks = false
      ∧ passes s 0 { copy := true } = false ∧ passes s 0 { tensor := true } = false ∧ passes s 0 { align := true } = false ∧ passes s 0 { awin := true } = false
      ∧ passes s 0 { sp := [(0, 4096), (4096, 0)] } = true ∧ passes s 0 { sp := [(-1, 1)] } = false ∧ passes s 0 { sp := [(4093, 4)] } = false
      ∧ passes s 0 { mem := [(0x2000, 64, 1)] } = true ∧ passes s 0 { mem := [(0x40000000, 1, 0)] } = false ∧ passes s 0 { mem := [(0, 0, 0)] } = true
      ∧ (List.range 1).any (fun k => pendsS (me s) s.who.2 (6 + k)) = false ∧ tidOf ten 1 2 = tt ∧ coordsBeyond ten 6 1 = false ∧ coordsBeyond ten 60 2 = true
      ∧ passes ten 0 { sp := [boxRange 64 0 box], mem := (boxFirst tt box tt.base [0] 0).take 1 } = true ∧ planesOk tt 8 = true
      ∧ openCollective s 0 = none ∧ openCollective two 0 = some (0, open_) ∧ ((slotFor s 0 1 0).map fun x => (x.1, x.2.st)) = some (31, .resident)
      ∧ ((slotFor (updCore s 0 fun k => { k with slots := [(4, { st := .loading, ctx := 1, base := 0, len := 4096 })] }) 0 1 0).map fun x => (x.1, x.2.st)) = some (4, .loading)
      ∧ passes two (2 ^ 19) noChecks = true
      ∧ rowsOwned owned 0 1 0 7 1 = true ∧ rowsOwned owned 0 1 0 8 1 = false ∧ rowsOwned owned 0 1 1 0 8 = false
      ∧ segOf s (me s) 0x00000FFF = some { base := 0, len := 4096, preload := true } ∧ segOf s (me s) 0x1000 = none ∧ (slotFor s 0 1 0).isSome = true
      ∧ slotFor (updCore s 0 fun k => { k with slots := [] }) 0 1 0 = none ∧ chooseSlot (updCore s 0 fun k => { k with slots := [] }) 0 = some 0
      ∧ chooseSlot (updCore s 0 fun k => { k with slots := (List.range 32).map fun n => (n, { st := .loading, ctx := 9, base := 0x77000 }) }) 0 = none
      ∧ allReady row [.cpyg (head 6 4 8 1) 3] = true
      ∧ (let u := copies [] (fun g => sreg 6 0 { g with fly := [{ due := 9, w := { isV := false, reg := 7, vals := [(0, 8)], stream := .split 0 } }] }) [(2, { tt with rank := 2, dims := [64, 1], strides := [1, 1] }), (3, box)]
         let u := updCtx u 1 fun c => { c with dbgw := 1 }
         scores u (me u) = true ∧ readsEarly (me u) u.who.2 { sr := spanRegs 6 2 } = true ∧ scores ten (me ten) = false ∧ allReady u [.cpyt (head 6 12 8 0) 0] = true)
      ∧ ringZero s 1 0 = false ∧ ringZero { s with mem := setBytes s.mem 0x12000 (leBytes 0x1F 8) } 1 0 = true := by decide

/-- One operation in the engine of core 0. -/
def op0 (h : CopyOp → CopyOp := id) : CopyOp :=
  h { id := 9, min := 0, ty := 1, group := 1, team := 1, ctx := 1, dst := 64, src := 0x2000, len := 32, issued := [1] }

theorem witness_copyCompletion :
    let o := op0
    let s := fun (o : CopyOp) => copies [o]
    let ring := op0 fun o => { o with ring := some 0, clash := true }
    let noRing := op0 fun o => { o with ring := some 1, clash := true }
    let frozen := { s o with groups := mapPut (s o).groups 1 { (me (s o)) with state := .stopped { cause := .bkpt, halt := true } (.split 0) } }
    let frozen := updCtx frozen 1 fun c => { c with dbgw := 2 }
    let page := op0 fun o => { o with src := 0x40000000 }
    let bad := op0 fun o => { o with src := 0x0200000000000000 }
    let run := fun (o : CopyOp) => (runCpy o 0 { s := s o }).halt
    let next := writeVa (countEvent (s ring) 0 9 0) 0 1 (0x5000 + 12) (leBytes 1 4)
    findCopy (s o) 0 9 = some o ∧ findCopy (s o) 0 8 = none ∧ accBlocked (s o) 0 o = false ∧ engineFrozen (s o) 0 = false ∧ engineFrozen frozen 0 = true
      ∧ run o = none ∧ run page = some (.service 0x40000000) ∧ run bad = some (.fault 0x0200000000000000 2 0) ∧ run (op0 fun o => { o with src := 0x40000000, failed := [0x40000000] }) = some (.fault 0x40000000 1 0)
      ∧ ringZero (s ring) 1 0 = false ∧ ringZero { s ring with mem := setBytes (s ring).mem 0x12000 (leBytes 0x1F 8) } 1 0 = true
      ∧ ringEntry (s ring) 1 0 = some (0x6000, 3, 0) ∧ ringEntry (s noRing) 1 1 = none ∧ (pieces next ring 0x6000 32 1).2 = none
      ∧ (∀ gid ∈ (team (s o) 1).groups, decide (o.np < (grp (s o) gid).gix) || has o.issued gid || (grp (s o) gid).state == .gone)
      ∧ (∃ gid ∈ (team (s o) 1).groups, (decide ((1 : Nat) < (grp (s o) gid).gix) || has [7] gid || (grp (s o) gid).state == .gone) = false) := by decide

theorem witness_copyContents :
    let s := copies []
    let t1 : Tid := { valid := true, rank := 1, dims := [64], strides := [1], fmt := 1, base := 0x2000 }
    let x : Tid := { valid := true, rank := 1, dims := [2], strides := [1], fmt := 1 }
    let x1 : Tid := { x with dims := [1] }
    let clear := fun (o : CopyOp) (p : Place) (n : Nat) => (readPlace s o p n).halt.isNone && (readPlace s o p n).bad.isEmpty
    let open_ := fun (o : CopyOp) (va : Addr) (n : Nat) => (pieces s o va n 1).2.isNone
      && (pieces s o va n 1).1.all fun e => !linkDown s e.2.1 && !refusedOutside s e.2.1 e.2.2
    let p : CopyOp := op0 fun o => { o with min := 4, tensor := some { t1 with fmt := 0 }, box := some { x with dims := [32], fmt := 0 }, coords := [0], arg := 8 }
    clear (op0) (.mem 0x2000) 32 = true ∧ clear (op0) (.sp 64) 32 = true ∧ clear (op0) (.acc 256) 256 = true ∧ open_ (op0) 0x2000 32 = true
      ∧ elemBits 1 / 8 = 2 ∧ inRange t1 (shifted [63] [0]) = true ∧ inRange t1 (shifted [63] [1]) = false ∧ positions x1.dims = [[0]]
      ∧ (∀ b ∈ (blocksOf ((positions [32]).map (shifted [0]))), ∀ e ∈ b.map (readElem s p { t1 with fmt := 0 }), e.halt = none ∧ e.bad = none) := by decide

theorem witness_fetches :
    let z : Ended := { status := 2, fcode := 4, faddr := 0x2000 }
    let f := op0 fun o => { o with min := 5, aux := 31, src := 0 }
    let s := copies [f]
    let done := op0 fun o => { o with min := 5, aux := 31, src := 0, ended := some z }
    let ring := { done with ring := some 0 }
    let noted := countEvent (setCtxErr (copies [ring]) 1 22) 0 9 0
    let next := writeVa noted 0 1 (0x5000 + 12) (leBytes 1 4) 1
    let empty := { s with groups := [] }
    let slot := fun (sl : Slot) (s : State) => updCore s 0 fun k => { k with slots := [(3, sl)] }
    let at_ := fun (va : Addr) => ({ st := .loading, ctx := 1, base := va, len := 64 } : Slot)
    let load := slot (at_ 0x2000) s
    let page := slot (at_ 0x40000000) s
    let bad := slot (at_ 0x0200000000000000) empty
    let needs := updLaunch (slot (at_ 0x0200000000000000) s) 1 fun l => { l with kernel := { l.kernel with segs := [{ base := 0x0200000000000000, len := 64, preload := false }] } }
    let wait := updGrp needs 1 fun g => setWait g (.split 0) (some (.segment 0))
    let hurt := poisonSector load 0x101
    findCopy s 0 9 = some f ∧ f.ended = none ∧ (slotAt (slot { (at_ 0) with len := 4096 } (copies [{ f with aux := 3 }])) 0 3).st = .loading ∧ (slotAt (slot (at_ 0) s) 0 3).ctx = f.ctx
      ∧ findCopy (copies [done]) 0 9 = some done ∧ done.ended = some z ∧ done.service = none ∧ done.bar = none ∧ done.ring = none ∧ engineFrozen s 0 = false
      ∧ engineFrozen (copies [ring]) 0 = false ∧ ringZero noted 1 0 = false ∧ ringEntry noted 1 0 = some (0x6000, 3, 0) ∧ (pieces next ring 0x6000 32 1).2 = none
      ∧ (segmentBytes load 1 0x2000 64 [] []).2 = none ∧ (segmentBytes page 1 0x40000000 64 [] []).2 = some (.service 0x40000000)
      ∧ (segmentBytes bad 1 0x0200000000000000 64 [] []).2 = some (.fault 0x0200000000000000 2 3) ∧ (slotAt bad 0 3).st = .loading ∧ bad.groups = []
      ∧ (segmentBytes wait 1 0x0200000000000000 64 [] []).2 = some (.fault 0x0200000000000000 2 3) ∧ wait.groups = [(1, grp wait 1)] ∧ coreOf wait (grp wait 1) = 0
      ∧ (grp wait 1).state = .running ∧ waitingFor wait (slotAt wait 0 3) (grp wait 1) = [(.split 0, 0)]
      ∧ (readPlace hurt { id := 0, min := 5, ctx := 1 } (.mem 0x2000) 64).bad ≠ [] ∧ (readPlace load { id := 0, min := 5, ctx := 1 } (.mem 0x2000) 64).bad = []
      ∧ (slotAt load 0 3).service = none ∧ (slotAt (slot { (at_ 0x2000) with service := some 0x2000 } s) 0 3).service ≠ none
      ∧ missingSeg s 0 false = none ∧ missingSeg s 0 true = none ∧ (slotAt s 0 3).st = .empty ∧ (slotAt s 0 31).st = .resident
      ∧ (mapGet wait.groups 1).isSome = true ∧ waitOf (grp wait 1) (.split 0) = some (.segment 0)
      ∧ (launchOf s (grp s 1)).kernel.segs[0]? = some { base := 0, len := 4096, preload := true } := by decide

theorem witness_collectives :
    let c := op0 fun o => { o with coll := true, min := 2, arg := 0, aux := 4, len := 2, dst := 0x3000 }
    let b := op0 fun o => { o with coll := true, min := 3, arg := 0, aux := 4 + 256, len := 2, dst := 0x3000 }
    let ring := { c with ring := some 0 }
    let mk := fun (paths : AMap (BitVec 12)) (o : CopyOp) => { updPart (copies [o]) 0 (fun q => { q with sets := [(4, [8, 0])] }) with paths := paths, ports := 3 }
    let s := mk [(8, 2)] c
    let each := sentBytes c 2
    let wrote := putBytes ring 0 { s := mk [] ring } (.mem 0x3000) (List.replicate 8 1) false
    let noted := countEvent (mk [(8, 2)] ring) 0 9 0
    let next := writeVa noted 0 1 (0x5000 + 12) (leBytes 1 4) 1
    let lost := countEvent wrote.s 0 9 (endOf wrote).bytes
    let after_ := writeVa lost 0 1 (0x5000 + 12) (leBytes 1 4) 1
    findCopy s 0 9 = some c ∧ mapGetD (part s (ctx s c.ctx).part).sets (c.aux % 256) [] = [8, 0] ∧ ([8, 0].idxOf? s.device) = some 1 ∧ each = 8
      ∧ (∀ d ∈ [8, 0], d = s.device ∨ s.reaches d = true) ∧ ¬ (∀ d ∈ [8, 0], d = (mk [] c).device ∨ (mk [(8, 4)] c).reaches d = true)
      ∧ (readPlace s c (.mem c.src) each).halt = none ∧ (readPlace s c (.mem c.src) each).bad = [] ∧ b.aux / 256 = 1 ∧ gotBytes c 2 = 8
      ∧ (pieces s c 0x3000 8 1).2 = none ∧ (∀ e ∈ (pieces s c 0x3000 8 1).1, downIn s e.2.1 e.2.2 = false ∧ refusedOutside s e.2.1 e.2.2 = false)
      ∧ (colResult c 2 1 [leBytes 1 8, leBytes 2 8]).length = 8
      ∧ ({ bytes := List.replicate 16 0 } : Arrival).differ = false ∧ ({ bytes := List.replicate 16 0 } : Arrival).bad = []
      ∧ ({ bytes := List.replicate 16 0, differ := true } : Arrival).differ = true
      ∧ wrote.halt = none ∧ engineFrozen wrote.s 0 = false ∧ ringZero lost 1 0 = false ∧ ringEntry lost 1 0 = some (0x6000, 3, 0) ∧ (pieces after_ ring 0x6000 32 1).2 = none
      ∧ ringZero noted 1 0 = false ∧ ringEntry noted 1 0 = some (0x6000, 3, 0) ∧ (pieces next ring 0x6000 32 1).2 = none := by decide

/-- Two ranks' ones add to two; COLB gives the root's bytes (R312, R315). -/
theorem test_colr : colResult (op0 fun o => { o with coll := true, min := 2, ty := 0, arg := 0, len := 1 }) 2 0 [leBytes 0x3F800000 4, leBytes 0x3F800000 4]
    = leBytes 0x40000000 4 := by decide
theorem test_copy : let t := afterOf (.copyComplete 0 9) { copies [op0] with mem := setBytes (copies [op0]).mem 0x2000 [1, 2, 3, 4] }
    spRead t 1 64 5 = [1, 2, 3, 4, 0] ∧ (Machine.core t 0).copies = [] := by decide

/-! ### Accumulators and matrix operations -/

/-- s8 to s13 are the six operands of MLOOP, s4 is row 0, s5 is 512, s14 row 509 and s15 row 510; the window is the whole store of 512 rows. -/
def matrix (ops : List MatOp) (h : Group → Group := id) : State :=
  let s := world (fun g => h (sregs [(5, 512), (6, 3), (9, 512), (10, 256), (11, 768), (14, 509), (15, 510)] (vreg 2 (fun i => BitVec.ofNat 32 i) g)))
    fun t => { t with accn := 512, windows := [(0, (0, 512))] }
  updCore s 0 fun k => { k with eng0 := ops }

def opOf (form : Form) (h : MatOp → MatOp := id) : MatOp := h { id := 4, eng := 0, group := 1, row := 0, rows := 64, form := form, steps := 1, pa := 1, pb := 1, regs := List.replicate 6 0 }

theorem witness_accumulators :
    let s := matrix []
    let own := matrix [opOf .plain]
    let dry := matrix [] (masked 0)
    let low := matrix [] fun g => { g with gix := 1 }
    let at_ := fun (s : State) => mapGetD (teamOf s (me s)).windows (me s).gix (0, 0)
    allReady s [.accz (head 5 4 0 0) 0, .accz (head 6 4 0 0) 0x10000, .accrd (head 0 14 7 0) 1, .accrd (head 0 15 7 0) 0, .accwr (head 2 14 0 0) 0x10001, .awset (head 5 4 4 0) 0] = true
      ∧ allReady dry [.accrd (head 0 14 7 0) 0, .accwr (head 2 14 0 0) 0] = true ∧ given dry none (some 2) = true ∧ allReady own [.accz (head 5 4 0 0) 0, .accwr (head 2 4 0 0) 0] = true
      ∧ given s none (some 2) = true ∧ at_ s = (0, 512) ∧ (sget s 4).toNat = 0 ∧ (sget s 5).toNat = 512 ∧ (sget s 14).toNat + 3 = 512 ∧ 512 < (sget s 15).toNat + 3
      ∧ (∃ o ∈ engQ (Machine.core own 0) 0, o.committed = false ∧ (grp own o.group).team = (me own).team ∧ o.row < 0 + 1 ∧ 0 < o.row + o.rows)
      ∧ (me low).gix ≠ 0 ∧ allReady low [.awset (head 5 4 4 0) 0] = true ∧ (launchOf s (me s)).kernel.team = 1 ∧ (sget s 0).toNat = 0
      ∧ (launchOf s (me s)).kernel.team ≤ (sget s 6).toNat ∧ (sget s 6).toNat = 3 ∧ (sget s 5).toNat < 513 := by decide

theorem witness_matrixIssue :
    let s := matrix []
    let i := Instr.mloop (head 0 8 4 0)
    let d := fun (st : Nat) (b : Option Binding) => matrix [] fun g => { g with dstat := BitVec.ofNat 32 (st * 2 ^ 29 + 2 ^ 20), binding := b }
    let b : Binding := { entry := 0, wid := 5, steps := 1, xaddr := 0, yaddr := 0, wver := 3 }
    let st := fun (st : Nat) (b : Option Binding) => let s := d st b; updMe s fun g => sreg 16 (g.dstat) g
    let rows := fun (v : Word) (dst : Word) => matrix [] fun g => sreg 18 dst (sreg 17 v g)
    allReady s [i 0, i 0xFFFF, i 0x10000, .mloop (head 0 8 4 1) 0] = true ∧ allReady (st 7 none) [.mloopd (head 16 8 4 0) 0] = true
      ∧ (engQ (Machine.core s 0) 0).length < 8 ∧ (classOps (me s) 2).length < 63 ∧ 8 ≤ ((engQ (Machine.core (matrix (List.replicate 8 (opOf .plain))) 0) 0).filter fun o => !o.committed).length
      ∧ (teamOf s (me s)).spsize = 4096 ∧ (readS (me s) (.split 0) 9).toNat = 512 ∧ (readS (me s) (.split 0) 11).toNat + 64 ≤ 4096
      ∧ (∀ k, k < 4 → let u := st k (some b); sget u 16 ^^^ (me u).dstat = 0 ∧ (me u).dstat.toNat / 2 ^ 29 = k ∧ (me u).binding.map (·.steps) = some 1)
      ∧ (me (st 7 none)).dstat.toNat / 2 ^ 29 = 7 ∧ (me (st 4 none)).dstat.toNat / 2 ^ 29 = 4 ∧ 4096 < 4096 * ((me (st 0 (some b))).dstat.toNat / 2 ^ 20 % 256) + 6272 * 1
      ∧ (let u := updTeam (st 0 (some b)) 1 fun t => { t with spsize := 65536 }; 4096 * ((me u).dstat.toNat / 2 ^ 20 % 256) + 6272 * 1 ≤ (teamOf u (me u)).spsize
          ∧ allReady u [.mloopd (head 16 8 4 0) 0] = true)
      ∧ allReady (rows (2 ^ 16 * 8) 0x2000) [.accdrn (head 18 17 18 0) 4, .accdrn (head 18 17 18 1) 0] = true ∧ (sget (rows 0 0) 17).toNat = 0 ∧ pget (rows (2 ^ 16 * 8) 0x2000) 18 = 0x2000
      ∧ (match checkRange (rows (2 ^ 16 * 8) 0x2000) 1 0x2000 (8 * 256) 1 with | .ok => true | _ => false) = true := by decide

theorem witness_matrixOperations :
    let s := fun (o : MatOp) => matrix [o]
    let go := opOf .plain
    let on := opOf .plain fun o => { o with started := true, begun := [{}] }
    let dr := opOf .drain fun o => { o with started := true, rows := 2, drain := some { fmt := 5, rnd := 0, sat := false, xopt := false, zero := true, sp := true, dst := 0, sdst := 0 } }
    let re := opOf (.reuseDelta 3) fun o => { o with id := 5 }
    let fo := opOf (.formFull 2)
    let b : Binding := { entry := 0, wid := 5, steps := 1, xaddr := 0, yaddr := 0, wver := 3 }
    let bound := updCtx (s (opOf .formDelta fun o => { o with started := true, bind := some b })) 1 fun c => { c with ddir := [(0, { used := true })] }
    let find := fun (s : State) => (engQ (Machine.core s 0) 0).find? fun x => !x.committed
    let more := opOf .plain fun o => { o with started := true, steps := 2, begun := [{}] }
    let behind := opOf .plain fun o => { o with id := 5, row := 64 }
    let same := opOf .plain fun o => { o with id := 5 }
    find (matrix []) = none ∧ find (s go) = some go ∧ waitsForming (s go) 0 go = false ∧ waitsForming (matrix [fo, re]) 0 re = true
      ∧ canStart (s go) 0 0 = true ∧ canStart (matrix [on, behind]) 0 0 = true ∧ canStart (matrix [on, same]) 0 0 = false ∧ canStart (matrix [more, behind]) 0 0 = false
      ∧ canStart (matrix []) 0 0 = false ∧ engNext (s go) 0 0 = some go ∧ engNext (matrix [on, behind]) 0 0 = some behind
      ∧ engLast (s more) 0 0 = some more ∧ more.drain = none ∧ more.begun.length < more.steps
      ∧ on.begun[0]? = some ({} : StepRead) ∧ go.begun[0]? = none
      ∧ find (s on) = some on ∧ on.started = true ∧ on.drain = none ∧ find (s dr) = some dr ∧ dr.drain.isSome = true
      ∧ ((engQ (Machine.core (s { dr with committed := true }) 0) 0).find? fun x => x.committed) = some { dr with committed := true }
      ∧ (mapGetD (ctx bound 1).ddir b.entry {}).used = true ∧ (mapGetD (ctx bound 1).ddir b.entry {}).dead = false ∧ (mapGetD (ctx bound 1).ddir b.entry {}).gen = b.gen := by decide

/-- ACCWR puts lane 33 into column 1 of the second row, and ACCZ clears it (R356). -/
theorem test_accwr : let t := afterOf (.accwr (head 2 4 0 0) 0) (updMe (matrix []) fun g => vreg 2 (fun i => BitVec.ofNat 32 (i + 1)) { g with items := BitVec.allOnes 96, splits := [(0, { members := BitVec.allOnes 96, am := BitVec.allOnes 96 })] })
    accGet (team t 1) 0 0 2 = 3 ∧ accGet (team (afterOf (.accz (head 5 4 0 0) 0) t) 1) 0 0 2 = 0 := by decide

/-! ### Work feeds, experts and the Corral -/

/-- Feed 9 of partition 0, and a group of its context; s4 onwards hold the record to push. -/
def feeds (x : Feed) (h : Group → Group := id) : State := updPart (world h) 0 fun q => { q with feeds := [(9, x)] }
def feed9 (h : Feed → Feed := id) : Feed := h { created := true, ctx := 1, cap := 16 }

theorem witness_workFeeds :
    let word := List.replicate 16 (7 : Word)
    let s := feeds (feed9)
    let full := feeds (feed9 fun x => { x with recs := List.replicate 16 word })
    let shut := feeds (feed9 fun x => { x with closed := true })
    let sleeper := { (me s) with splits := [(0, { members := 7, am := 7, wait := some (.wpop 9 45) })] }
    let slept := fun (x : Feed) => let s := feeds x; { s with groups := mapPut s.groups 2 sleeper }
    let awake := feed9 fun x => { x with sleepers := [(2, .split 0, 45)] }
    let cr := feeds (feed9) id
    allReady s [.wpop (head 9 0 45 0), .wpop (head 9 0 20 1), .wpop (head 8 0 20 0), .wpush (head 9 20 0 0), .wroom (head 9 0 7 0)] = true
      ∧ mapGetD (part s 0).feeds 9 {} = feed9 ∧ partOf s (me s) = 0 ∧ (mapGetD (part s 0).feeds 8 {}).created = false ∧ (mapGetD (part full 0).feeds 9 {}).recs ≠ []
      ∧ (mapGetD (part shut 0).feeds 9 {}).closed = true ∧ (readS (me s) (.split 0) 20).getLsbD 31 = false
      ∧ (awake.sleepers.find? (asleep (slept awake) 9)) = some (2, .split 0, 45) ∧ (feed9).sleepers.find? (asleep s 9) = none ∧ (grp (slept awake) 2).state = .running
      ∧ (grp (slept awake) 2).image = none ∧ (grp (slept awake) 2).hintRegs = none ∧ ((45 : Reg).toNat) + 15 ≤ 60
      ∧ (ctx cr 1).live = true ∧ (ctx cr 1).part = 0 ∧ (ctx cr 1).dying = false ∧ 4096 = 16 * 2 ^ 8 ∧ schedUsed cr 0 + 64 * 4096 ≤ schedSize (part cr 0)
      ∧ (let u := updGrp (slept awake) 2 fun g => { g with state := .stopped { cause := .bkpt } (.split 0) }; asleep u 9 (2, .split 0, 45) = true ∧ (grp u 2).state ≠ .running) := by decide

theorem witness_experts :
    let e : Tid := { valid := true, expert := true, xnum := 4, res := 2, base := 0x20000000, back := 0x2000, rank := 1, dims := [1], strides := [1], fmt := 0 }
    let s := fun (e : Tid) => updPart (world (sreg 4 3) id fun c => { c with tids := [(3, e)] }) 0 fun q => { q with xpol := 3 }
    let far := world (sreg 4 1024)
    let m : Migration := { id := 6, ctx := 1, tid := 3, back := 2, group := 1, cls := 8 }
    let mv := fun (e : Tid) => updPart (s e) 0 fun q => { q with migrations := [m] }
    allReady (s e) [.xbind (head 0 4 20 0), .xbind (head 0 4 20 1), .cntrd (head 0 4 20 0), .cntrd (head 0 4 20 1)] = true ∧ allReady far [.xbind (head 0 4 20 0)] = true
      ∧ (sget (s e) 4).toNat = 3 ∧ (sget far 4).toNat = 1024 ∧ tidOf (s e) 1 3 = e ∧ (part (s e) 0).xpol.getLsbD 0 = true
      ∧ (part (s e) 0).migrations.length < (part (s e) 0).xpol.toNat / 2 % 128 ∧ ¬ (part (mv e) 0).migrations.length < (part (mv e) 0).xpol.toNat / 2 % 128
      ∧ (classOps (me (s e)) 3).length < 63 ∧ ((part (mv e) 0).migrations.find? fun x => x.id == 6) = some m ∧ ((part (mv e) 0).migrations.find? fun x => x.id == 7) = none
      ∧ (migrateAll (mv e) 1 e).isSome = true ∧ migrateAll (mv { e with back := 0x40000000 }) 1 { e with back := 0x40000000 } = none
      ∧ (m.entry.getD (tidOf (mv e) 1 3)) = e ∧ ({ m with entry := some { e with base := 0 } } : Migration).entry.isSome = true ∧ migrationZp (mv e) m = false ∧ migrationZp { mv e with mem := setBytes tables 0x12000 (leBytes 0x1F 8) } m = true ∧ m.claimed = false := by decide +kernel

/-- Session 7 collects experts 0 to 3 for feed 9, two records a batch. -/
def corral (x : Session) (h : Part → Part := id) : State :=
  updPart (world fun g => { vreg 6 (fun _ => 0x3F800000) (vreg 4 (fun i => BitVec.ofNat 32 (2 - i)) g) with csess := 7 }) 0
    fun q => h { q with sessions := [(7, x)], feeds := [(9, feed9)] }
def session (h : Session → Session := id) : Session := h { mode := 1, feed := 9, batch := 2, xbase := 100, xcnt := 3, ctx := 1, nslot := 4, area := 0x4000 }

theorem witness_corral :
    let s := corral (session)
    let i := Instr.corp (head 6 4 8 0)
    let wild := corral (session fun x => { x with xcnt := 1 })
    let em : Emission := { id := 5, die := 0, session := 7, e := 1, recs := [], head := 0, addr := 0x4000, step := 2 }
    let es := fun (em : Emission) (x : Session) (f : Feed) => updPart (corral x fun q => { q with emissions := [em] }) 0 fun q => { q with feeds := [(9, f)] }
    let dirty := { es em (session) (feed9) with mem := setBytes tables 0x4000 [1] }
    let full := feed9 fun x => { x with recs := List.replicate 16 [] }
    let busy := corral (session) fun q => { q with commands := [{ id := 3, queue := 0, index := 0, cmd := 0x0B, args := [7] }] }
    let on4 := { em with step := 4 }
    allReady s [i, .corf (head 0 0 7 0), .corf (head 0 0 7 1)] = true ∧ given s (some 4) (some 6) = true ∧ (mapGetD (part s 0).sessions 7 {}) = session
      ∧ allReady wild [i] = true ∧ (readV (me wild) 4 0).toNat % 65536 = 2 ∧ (readV (me wild) 4 1).toNat % 65536 = 1
      ∧ storeUsed s 0 + 3 ≤ 262144 ∧ (counterNow s 0 102).count + 3 < 2 ^ 48 ∧ launchZp s 1 0x40000000 = false
      ∧ launchZp { s with mem := setBytes tables 0x12000 (leBytes 0x1F 8) } 1 0x4000 = true ∧ bucketOf s 0 0 7 1 = none ∧ (∃ c ∈ (part busy 0).commands, c.cmd = 0x0B ∧ c.args.head? = some 7) ∧ allReady busy [i, .corf (head 0 0 7 0)] = true
      ∧ (mapGetD (part (corral (session fun x => { x with mode := 0 })) 0).sessions 7 {}).mode = 0
      ∧ ((part (es em (session) (feed9)) 0).emissions.find? fun y => y.id == 5) = some em ∧ slotFault (es em (session) (feed9)) 1 em 4 0 = none ∧ slotFault (es em (session) (feed9)) 1 em 64 1 = none
      ∧ wordVa (es em (session) (feed9)) 1 0x4000 = some 0 ∧ wordVa dirty 1 0x4000 = some 1
      ∧ slotFault (es em (session) (feed9)) 1 { em with addr := 0x0200000000000000 } 4 0 = some (0x0200000000000000, .fail 2)
      ∧ slotFault (es em (session) (feed9)) 1 { em with addr := 0x40000000, failed := [0x40000000] } 4 0 = some (0x40000000, .fail 1)
      ∧ slotFault { es em (session) (feed9) with mem := setBytes tables 0x12000 (leBytes 0x1F 8) } 1 em 4 0 = some (0x4000, .zero)
      ∧ (let u := { es em (session) (feed9) with mem := setBytes tables 0x12000 (leBytes 7 8) }
         slotFault u 1 em 4 0 = none ∧ wordVa u 1 0x4000 = some 0 ∧ slotFault u 1 em 64 1 = some (0x4000, .fail 6))
      ∧ mapGetD (part (es on4 (session) full) 0).feeds 9 {} = full ∧ full.cap ≤ full.recs.length ∧ (feed9).sleepers = []
      ∧ (mapGetD (part (es on4 (session fun x => { x with mode := 2 }) (feed9)) 0).sessions 7 {}).mode = 2 ∧ (feed9 fun x => { x with ctx := 2 }).ctx ≠ 1 := by decide +kernel

/-- WROOM of an open feed of 16 with one record, and CNTRD's low word. -/
theorem test_wroom : ((me (afterOf (.wroom (head 9 0 7 0)) (feeds (feed9 fun x => { x with recs := [[]] })))).pend.map fun e => e.writes.map fun w => (w.reg, cellGet w.vals 0)) = [[(7, 15)]] := by decide

/-! ### Launches, packets, graphs and teams -/

/-- Partition 0 of `world` with a queue 3 of its own, whose packets lie at 0x2000 in HBM. -/
def queues (x : Queue) (ws : List Word) (h : Part → Part := id) : State :=
  let s := updPart (world) 0 fun q => h { q with queues := [(3, x)] }
  { s with mem := setBytes s.mem 0x2000 (ws.flatMap fun w => leBytes w.toNat 4) }
def queue3 (h : Queue → Queue := id) : Queue := h { created := true, pring := 0x2000, cmpr := 0x3000, log := 3, clog := 3, tail := 2, runtime := true }

theorem witness_launches :
    let s := fun (h : Launch → Launch) => updPart (updLaunch (world) 1 fun l => h { l with wi := 97 }) 0 fun q => { q with runlist := [.launch 1] }
    let ended := fun (h : Launch → Launch) => updTeam (s h) 1 fun t => { t with ended := true }
    let dead : Casualty := { team := 0, gix := 0, lane := 4, cause := 1, round := 0, time := 0 }
    let rerun := ended fun l => { l with casualties := [dead], cancelled := false, kernel := { l.kernel with rerun := true } }
    let c := fun (lane : Nat) (v : Word) => ({ pa := 0x4000, bf16 := false, lin := 0, gix := 0, lane := lane, k := 0, val := v } : Contribution)
    let sums := ended fun l => { l with contribs := [c 1 0x40000000, c 0 0x3F800000] }
    let fin := ended fun l => { l with applied := true }
    let lease := fin |> fun s => updLaunch s 1 fun l => { l with heirns := 5, leaseWait := some 0x2000, willFill := 0 }
    let from_ := updPart (updLaunch fin 1 fun l => { l with origin := .packet 3 9 }) 0 fun q => { q with queues := [(3, queue3 fun x => { x with packets := [{ index := 4, words := [0x201], launch := some 1 }] })] }
    let g := newGroup (launch (s id) 1) 1 0 1
    (launch (s id) 1).round = 0 ∧ g.items ≠ 0 ∧ (newGroup { (launch (s id) 1) with wi := 0 } 1 0 0).items = 0 ∧ (part (world) 0).runlist = []
      ∧ (part (s id) 0).runlist = [.launch 1] ∧ nextSpan (launch (s fun l => { l with stopped := true }) 1) = none ∧ (launch (s id) 1).spans = spanCount (launch (s id) 1)
      ∧ (let u := s fun l => { l with spans := 0 }; (launch u 1).spans < spanCount (launch u 1) ∧ (placeFor u 1 0).isSome = true
          ∧ (∀ x ∈ (placeFor u 1 0).getD [], ∀ k ∈ preloads (launch u 1).kernel, segReady u 1 x.2 k = true))
      ∧ roundEnded rerun 1 = true ∧ lastCasualties (launch rerun 1) ≠ [] ∧ (launch rerun 1).round < 2 ∧ roundEnded (s id) 1 = false
      ∧ launchEnded sums 1 = true ∧ (launch sums 1).applied = false ∧ (ctx sums 1).dying = false ∧ downIn sums 0x4000 4 = false ∧ refusedOutside sums 0x4000 4 = false
      ∧ (sortBy contribLe (launch sums 1).contribs).map (·.lane) = [0, 1] ∧ (launch fin 1).done = false ∧ (launch fin 1).applied = true ∧ (launch fin 1).heirns = 0
      ∧ (launch lease 1).refused = 0 ∧ (launch lease 1).heirns ≠ 0 ∧ pageReady lease 1 0x2000 = true ∧ pageReady lease 1 0x40000000 = false
      ∧ walkerBehind (s id) 0 1 = false ∧ (launch rerun 1).cancelled = false ∧ enginesOut fin 1 = false ∧ enginesOut (updCore fin 0 fun k => { k with copies := [{ id := 9, min := 0, team := 1 }] }) 1 = true
      ∧ (let u := s fun l => { l with spans := 0 }
         let cores := (placeFor u 1 0).getD []
         match recordRoom (useSegs u 1 (cores.flatMap fun c => (preloads (launch u 1).kernel).map fun k => (c.2, k))) (startLines (launch u 1).kernel) (cores.map (·.2)) with
          | .free v => decide (launch v 1 = launch u 1)
          | _ => false) = true
      ∧ (launch from_ 1).origin = .packet 3 9 ∧ ((queueOf from_ 0 3).packets.find? fun z => z.launch == some 1).isSome = true := by decide

/-- An estate of namespace 5 whose will area lies at this address. -/
def willed (va : Word) : State :=
  let e : Estate := { ns := 5, ident := 1, tags := 0, regs := [3], isOpen := true, launch := 1, lin := 0, gix := 0, lane := 0, group := 1, core := some 0 }
  let s := world id id fun c => { c with estates := [e] }
  updLaunch s 1 fun l => { l with applied := true, heirns := 5, args := [(0, va), (2, 4096)], argl := 12, kernel := { l.kernel with willk := some 0 } }

/-- Closing the lease waits where the will area lies on an absent page, and ends where it does not. -/
theorem witness_leaseWait : (closeOwn (openBequests (willed 0x40000000) 1 1) 1).2 = some 0x40000000 ∧ (closeOwn (openBequests (willed 0x2000) 1 1) 1).2 = none
    ∧ (let by_ := fun (s : State) => beginLease { s with nextId := s.nextId + 1 } 1 5 (2 * s.nextId + 1)
       (match (goOnLease (by_ (willed 0x40000000)) 1 (2 * (willed 0).nextId + 1) false 0 0).2 with | .waits .. => true | _ => false) = true
         ∧ (match (goOnLease (by_ (willed 0x2000)) 1 (2 * (willed 0).nextId + 1) false 0 0).2 with | .done _ => true | _ => false) = true) := by decide +kernel

theorem witness_packets :
    let s := fun (w : Word) (ws : List Word) => queues (queue3) (w :: ws ++ List.replicate (15 - ws.length) 0)
    let owner := fun (s : State) => updQueue s 0 3 fun x => { x with ctx := some 1 }
    let open_ := updQueue (s 0x102 []) 0 3 fun x => { x with packets := [{ index := 7, words := [] }] }
    let stop := updQueue (s 1 []) 0 3 fun x => { x with stopped := true }
    let wait := fun (v : Word) => updQueue (s 2 []) 0 3 fun x => { x with packets := [{ index := 7, words := [3, 0, 0x4000, 0, v, 2] }] }
    let image := leBytes 0x6000 8 ++ leBytes 0x7000 8 ++ [3, 4, 0, 1] ++ leBytes 0xFFFFFFFF 4 ++ List.replicate 40 0
    let make := queues (queue3) (bytesWords image)
    (queueOf (s 1 []) 0 3).created = true ∧ (queueOf (s 1 []) 0 3).stopped = false ∧ (queueOf (s 1 []) 0 4).created = false
      ∧ (queueOf (s 1 []) 0 3).head = 0 ∧ nextWords (s 1 []) 0 3 = some (1 :: List.replicate 15 0) ∧ packetBad (1 :: List.replicate 15 0) = false
      ∧ packetBad (5 :: List.replicate 15 0) = true ∧ (queueOf (owner (s 1 [])) 0 3).ctx = some 1 ∧ (nextWords (owner (s 1 [])) 0 3).isSome = true
      ∧ (nextWords (s 2 [0, 0x4000, 0, 9]) 0 3) = some (2 :: 0 :: 0x4000 :: 0 :: 9 :: List.replicate 11 0) ∧ packetBad (2 :: 0 :: 0x4000 :: 0 :: 9 :: List.replicate 11 0) = false
      ∧ regionOf (s 2 []) 0x4000 = .hbm ∧ owns (s 2 []) 0 0x4000 8 = true ∧ linkDown (s 2 []) 0x4000 = false ∧ refusedOutside (s 2 []) 0x4000 8 = false
      ∧ packetBad (3 :: 0 :: 0x4000 :: 0 :: 9 :: 2 :: List.replicate 10 0) = false ∧ nextWords (s 3 [0, 0x4000, 0, 9, 2]) 0 3 = some (3 :: 0 :: 0x4000 :: 0 :: 9 :: 2 :: List.replicate 10 0)
      ∧ nextWords open_ 0 3 = some (0x102 :: List.replicate 15 0) ∧ (queueOf open_ 0 3).packets ≠ [] ∧ (queueOf stop 0 3).stopped = true ∧ nextWords stop 0 3 = some (1 :: List.replicate 15 0)
      ∧ ((waitPackets (wait 1) 0 3).find? fun a => a.index == 7).isSome = true ∧ readFor (wait 1) 0 none 0x4000 4 = some (leBytes 0 4) ∧ readFor (wait 1) 0 none 0x200000000 4 = none
      ∧ (waitPackets (wait 1) 0 3).find? (fun a => a.index == 8) = none ∧ readFor make 0 none 0x2000 64 = some image ∧ (queueImage make 0 image).isSome = true
      ∧ queueImage make 0 (List.replicate 64 0) = none ∧ (0x2000 : Addr).toNat % 64 = 0 ∧ slotZp (owner (s 1 [])) 0 3 = false
      ∧ (let zp := fun (s : State) => { owner s with mem := setBytes s.mem 0x12000 (leBytes 0x1F 8) }
         slotZp (zp (s 1 [])) 0 3 = true
           ∧ (let far := fun (w : Word) => updQueue (owner (s w [0, 0x4000])) 0 3 fun x => { x with pring := 0x40002000 }
              let far := fun (w : Word) => { far w with mem := setBytes (setBytes (s w [0, 0x4000]).mem 0x12000 (leBytes 0x1F 8)) 0x12008 (leBytes 0xF 8) }
              slotZp (far 1) 0 3 = false ∧ (nextWords (far 1) 0 3).isSome = true ∧ wordsZp (far 1) 0 3 (1 :: 0 :: 0x4000 :: List.replicate 13 0) = true
                ∧ nextWords (far 1) 0 3 = some (1 :: 0 :: 0x4000 :: List.replicate 13 0)
                ∧ nextWords (far 2) 0 3 = some (2 :: 0 :: 0x4000 :: List.replicate 13 0) ∧ wordsZp (far 2) 0 3 (2 :: 0 :: 0x4000 :: List.replicate 13 0) = true))
      ∧ wordsZp (owner (s 2 [0, 0x4000, 0, 9])) 0 3 (2 :: 0 :: 0x4000 :: 0 :: 9 :: List.replicate 11 0) = false
      ∧ (queueOf (s 1 []) 0 3).ctx = none ∧ (let y : Packet := { index := 7, words := [], number := some 1 }
         y ∈ (queueOf (updQueue (s 1 []) 0 3 fun x => { x with packets := [y] }) 0 3).packets)
      ∧ zpIn (world) 1 0x4000 4 0 = false ∧ zpIn { world with mem := setBytes tables 0x12000 (leBytes 0x1F 8) } 1 0x4000 4 0 = true := by decide +kernel

theorem witness_graphs :
    let d := fun (type n st : Nat) => ({ type := type, prio := 3, init := n, succ := 0, nsucc := 1, nelse := 0, count := n, payload := List.replicate 128 0, st := st } : Node)
    let gr := fun (ds : List Node) (h : Graph → Graph) => h { nodes := ds, edges := [(1, false)], ctx := 1, ring := 0x5000, walking := true }
    let s := fun (g : Graph) => updPart (updLaunch (world (sreg 4 1)) 1 fun l => { l with origin := .node 6 0 }) 0 fun q => { q with graphs := [(6, g)] }
    let leaf := { d 2 2 0 with nsucc := 0 }
    let two := fun (type n st : Nat) => gr [d type 0 st, { leaf with count := n, init := n }] id
    let w := updGrp (s (two 0 2 2)) 1 fun g => setWait g (.split 0) (some (.gsig 1))
    let w0 := updGrp (s (two 0 0 2)) 1 fun g => setWait g (.split 0) (some (.gsig 1))
    let hdr := leBytes 0x4752415A 4 ++ leBytes 1 4 ++ leBytes 0 4 ++ leBytes 1 4 ++ leBytes 0x5000 8 ++ [4] ++ List.replicate 39 0
    let node0 := [2, 3] ++ List.replicate 254 (0 : Byte)
    let up := { updPart (world) 0 (fun q => { q with slots := [0] }) with mem := setBytes tables 0x2000 (hdr ++ node0) }
    allReady (s (two 0 1 2)) [.gsig (head 0 4 0 0)] = true ∧ (launchOf (world) (me (world))).origin = .packet 0 0 ∧ (sget (s (two 0 1 2)) 4).toNat = 1
      ∧ (graphOf (s (two 0 1 2)) 0 6).nodes.length = 2 ∧ waitOf (grp w 1) (.split 0) = some (.gsig 1) ∧ (nodeOf (graphOf w 0 6) 1).count = 2 ∧ (nodeOf (graphOf w0 0 6) 1).count = 0
      ∧ (nodeOf (graphOf w 0 6) 1).st = 0 ∧ (grp w 1).state = .running ∧ (grp (updGrp w 1 fun g => { g with state := .parked }) 1).state ≠ .running ∧ walkOver (gr [d 0 0 2] id) = false ∧ (gr [d 0 0 2] id).walking = true
      ∧ readyHead (s (gr [d 0 0 1, leaf] id)) 0 = some (6, 0) ∧ readyHead (s (gr [d 2 0 1, leaf] id)) 0 = some (6, 0) ∧ readyHead (s (two 0 1 2)) 0 = none ∧ nodeZp (s (two 0 1 2)) (two 0 1 2) (d 2 0 1) = false
      ∧ ((part (s (two 0 1 2)) 0).graphs.map (·.1)).Nodup ∧ (nodeOf (two 1 2 2) 0).st = 2 ∧ (nodeOf (two 1 2 2) 0).type = 1
      ∧ succEdges (gr [{ d 0 0 2 with ended := true }, leaf] id) 0 = [(1, false, true)] ∧ (nodeOf (gr [{ d 0 0 2 with ended := true }, leaf] id) 0).ended = true
      ∧ mapGet (part (world) 0).graphs 6 = none ∧ graphImage (world) 0 none 0x2000 = none ∧ (graphImage up 0 none 0x2000).isSome = true := by decide +kernel

theorem witness_teams :
    let s := world
    let asked := updTeam s 1 fun t => { t with preempt := true }
    let req := updGrp asked 1 fun g => { g with preempt := true }
    let saved := updGrp asked 1 fun g => { g with state := .parked, image := some (0x2000, 4096) }
    let queued := updGrp asked 1 fun g => { g with state := .phase, resident := false }
    (team s 1).placed = true ∧ (team s 1).ended = false ∧ (team s 1).preempt = false ∧ (grp req 1).preempt = true ∧ (grp req 1).resident = true ∧ (grp req 1).state = .running
      ∧ (∀ x ∈ (team saved 1).groups, isSaved saved x = true) ∧ (writeOutPhases saved 0 [1]).2 = none ∧ (writeOutPhases queued 0 [1]).2 = some 1 ∧ isSaved queued 1 = true
      ∧ (let low := updLaunch (updCore s 0 fun k => { k with released := true }) 1 fun l => { l with level := 5 }
         let two := { low with launches := mapPut low.launches 2 { (launch low 1) with level := 0, spans := 0, stopped := false, kernel := { (launch low 1).kernel with nbar := 64 } } }
         let two := updPart two 0 fun q => { q with runlist := [.launch 2] }
         entryBehind two 0 (.launch 2) = false ∧ (match tryEntry two (.launch 2) with | .noRoom => true | _ => false) = true
           ∧ victimsFor two 0 (.launch 2) = some [1] ∧ (keysOf two.teams).Nodup)
      ∧ (me s).state ≠ .gone ∧ (me (world fun g => { g with state := .gone })).state = .gone ∧ (launchOf s (me s)).killed = 0 := by decide

/-- A group of work-items starts at the entry with its own lanes (R66). -/
theorem test_newGroup : (newGroup { (launch (world) 1) with wi := 97 } 1 0 1).items = 1 := by decide

/-! ### Contexts and their commands -/

def ctxImage : List Byte := leBytes 0x10000 8 ++ List.replicate 32 0 ++ [1] ++ List.replicate 63 0 ++ leBytes 0 152

theorem witness_contexts :
    let s := updPart { world with mem := setBytes tables 0x2000 ctxImage } 0 fun q => { q with slots := [0], queues := [(3, queue3)] }
    let c := ctx s 1
    let w := updCtx s 1 fun c => { c with recWait := [(1, List.replicate 64 1, false)] }
    c.live = true ∧ c.part = 0 ∧ c.dying = false ∧ (ctx s 2).live = false ∧ readFor s 0 (queueOf s 0 3).ctx 0x2000 256 = some ctxImage ∧ ctxImage.length = 256
      ∧ readFor s 0 none 0x1F0000000 256 = none ∧ leNat ((ctxImage.drop 40).take 1) = 1 ∧ leNat ((ctxImage.drop 104).take 4) / 16 % 32 / 4 ∈ (part s 0).slots
      ∧ (∀ e ∈ s.groups, e.2.recordDue = false) ∧ (∀ k, k < 256 → 116 ≤ k → ctxImage.getD k 0 = 0) ∧ c.phss ≤ 0 ∧ c.saves ≤ 0 ∧ c.ests ≤ 0 ∧ (c.trapn - 0).toNat < 2 ^ c.trapl ∧ c.recWait = []
      ∧ (ctx w 1).recWait = [(1, List.replicate 64 1, false)] ∧ ¬ ((ctx w 1).trapn - 0xFFFFFFF0).toNat < 2 ^ (ctx w 1).trapl := by decide +kernel

theorem witness_contextCommands :
    let s := world
    let at_ := fun (c : Command) => updPart s 0 fun q => { q with commands := [c] }
    let inv : Command := { id := 6, queue := 0, index := 0, cmd := 4, args := [1, 0, 0x10000] }
    let zr : Command := { id := 6, queue := 512, index := 0, cmd := 5, args := [0x10000, 16] }
    let e : Tid := { valid := true, expert := true, xnum := 4, res := 0, base := 0x2000, back := 0x2000, rank := 1, dims := [1], strides := [1] }
    let ex := fun (e : Tid) => updCtx s 1 fun c => { c with tids := [(3, e)] }
    let m : Migration := { id := 6, ctx := 1, tid := 3, back := 2, group := 1, cls := 8 }
    let ses := leBytes 0 64
    let mode1 := [1, 9] ++ leBytes 2 2 ++ leBytes 100 2 ++ leBytes 3 2 ++ leBytes 1 4 ++ leBytes 4 4 ++ leBytes 0x4000 8 ++ leBytes 0 40
    let tier := { updPart (ex { e with back := 0x2000 }) 0 (fun q => { q with tierSize := 0x40000000 }) with mem := setBytes tables 0x12000 (leBytes (0x10000000000 + 0xF) 8), tierGb := 4, tierPorts := [0] }
    let svc := updCore s 0 fun k => { k with copies := [{ id := 9, min := 0, ctx := 1, service := some 0x40000000 }] }
    (ctx s 1).live = true ∧ (ctx s 1).part = 0 ∧ (ctx s 2).live = false ∧ ((part (at_ inv) 0).commands.find? fun k => k.id == 6) = some inv
      ∧ (regionOf s 0x10000 = .hbm ∧ owns s 0 0x10000 0x10000 = true ∧ 0x10000 % 2 ^ 16 = 0) ∧ owns s 0 0x100000000 0x10000 = false
      ∧ ((part (at_ zr) 0).commands.find? fun k => k.cmd == 5 && k.args == [0x10000, 16]) = some zr ∧ tidOf (ex e) 1 3 = e ∧ awayRes (ex e) 1 e = none ∧ awayRes tier 1 e = some 3
      ∧ (part (updPart (ex e) 0 fun q => { q with migrations := [m] }) 0).migrations = [m] ∧ sessionFits s 0 ses = true ∧ sessionFits s 0 mode1 = true ∧ sessionBusy s 0 7 = false
      ∧ sessionBusy (at_ { id := 6, queue := 512, index := 0, cmd := 0x0B, args := [7] }) 0 7 = true
      ∧ sessionFits s 0 [] = false ∧ (∃ o ∈ (Machine.core svc 0).copies, o.ctx = 1 ∧ o.service = some 0x40000000)
      ∧ (0xFFFFFF81 : Word).toNat % 256 / 2 ≤ 64 ∧ ¬ (0x83 : Word).toNat % 256 / 2 ≤ 64 := by decide +kernel

/-! ### Reliability, trace, the outside world and starts -/

theorem witness_errors :
    let s := world
    let p := { (split (grp s 1) 0) with restartable := false }
    let stuck := updGrp s 1 fun g => { g with splits := [(0, p)] }
    let tried := updGrp s 1 fun g => updSplit g 0 fun q => { q with tries := 4 }
    let two := world fun g => { g with aslice := some {} }
    let on := matrix [opOf .plain fun o => { o with started := true }]
    let wrong := fun (err m : BitVec 136) => (List.range 136).countP (err &&& m).getLsbD
    let pass := world fun g => { g with pass := some { due := 96, reg := 3, beat := 0, lanes := 2 }, exited := 2 }
    livingLanes (grp s 1) = 7 ∧ (5 : Lanes) &&& livingLanes (grp s 1) ≠ 0 ∧ (8 : Lanes) &&& livingLanes (grp s 1) = 0
      ∧ (grp s 1).state = .running ∧ (grp s 1).resident = true ∧ mapGet (grp s 1).splits 1 = none ∧ (mapGet (grp s 1).splits 0).isSome = true
      ∧ mapGet (grp stuck 1).splits 0 = some p ∧ (split (grp tried 1) 0).tries = 4 ∧ (split (grp s 1) 0).restartable = true ∧ (grp s 1).monitor = none
      ∧ (grp s 1).pass = none ∧ 59 < topReg (grp s 1) ∧ 4 < wrong 0x1F (BitVec.allOnes 136) ∧ wrong 0x1F (~~~ ownBytes 0) = 1 ∧ ¬ wrong 0x1F (~~~ ownBytes 1) ≤ 2
      ∧ (grp pass 1).pass = some { due := 96, reg := 3, beat := 0, lanes := 2 } ∧ pass.clk.toNat < 96 ∧ 96 ≤ ({ pass with clk := 96 } : State).clk.toNat ∧ (grp s 1).aslice = none ∧ (grp two 1).aslice ≠ none
      ∧ (poolOf (teamOf s (grp s 1)) 0).waiting = [] ∧ engHead s 0 0 = none ∧ engLast s 0 0 = none ∧ engLast on 0 0 = some (opOf .plain fun o => { o with started := true }) ∧ engHead on 0 0 = some (opOf .plain fun o => { o with started := true }) ∧ (team s 1).placed = true ∧ 7 < (team s 1).accn := by decide

theorem witness_spares :
    let s := world
    let sp : Spare := { bank := 5, row := 77, spare := 0, serving := false }
    let one := { s with spares := [sp] }
    let done := { s with spares := [{ sp with serving := true }] }
    let free := fun (s : State) => (List.range 16).filter fun n => !s.spares.any fun y => y.bank == 5 && y.spare == n
    let full := { s with spares := (List.range 16).map fun n => { sp with row := 100 + n, spare := n, serving := true } }
    let idle := updTeam s 1 fun t => { t with placed := false }
    let idle := updPart (updCore idle 0 fun k => { k with released := true }) 0 fun q => { q with hbmSize := 0x100000000 }
    let scan := fun (n : Nat) => updCore s 0 fun k => { k with scanning := true, scanFails := n }
    regionOf s 0x2000 = .hbm ∧ regionOf s 0xE00000000000 ≠ .hbm ∧ partOfPa s 0x2000 = some 0 ∧ (part s 0).tctl.getLsbD 0 = false
      ∧ (∃ y ∈ one.spares, (y.bank == 5 && y.row == 77 && !y.bad && !y.serving) = true) ∧ ¬ (∃ y ∈ done.spares, (y.bank == 5 && y.row == 77 && !y.bad && !y.serving) = true) ∧ ((free s).drop 15).head? = some 15 ∧ (free full).drop 0 = [] ∧ (free s).drop 16 = []
      ∧ (one.spares.find? fun y => y.bank == 5 && y.row == 77 && !y.bad && !y.serving) = some sp ∧ (s.spares.find? fun y => y.bank == 5 && y.row == 77 && !y.bad && !y.serving) = none
      ∧ idleCore s 0 = false ∧ idleCore idle 0 = true ∧ (Machine.core (scan 0) 0).scanning = true ∧ (Machine.core (scan 1) 0).scanFails ≠ 0 ∧ (Machine.core s 0).scanning = false := by decide

theorem witness_trace :
    let s := updPart (world) 0 fun q => { q with tbase := 0x20000, rbase := 0x30000, tctl := 0x40003, rctl := 0x40001 }
    (part (world) 0).tctl.getLsbD 0 = false ∧ (part (world) 0).rctl.getLsbD 0 = false ∧ (part s 0).tctl.getLsbD 0 = true ∧ (part s 0).tctl.getLsbD 1 = true ∧ (part s 0).rctl.getLsbD 0 = true
      ∧ linkDown s 0x20000 = false ∧ refusedOutside s 0x20000 64 = false ∧ linkDown s 0x30000 = false ∧ refusedOutside s 0x30000 32 = false
      ∧ (∀ k ∈ s.cores, ∀ z ∈ (Machine.core s k.1).quads, z.2.lastAt ≠ s.clk.toNat + 1) ∧ downIn s 0x20000 64 = false ∧ downIn s 0x30000 32 = false ∧ 7 / 8 ∈ (part s 0).clusters ∧ 8 / 8 ∉ (part s 0).clusters := by decide

theorem witness_outside :
    let s := { updPart (world) 0 (fun q => { q with reach := [(6, 2)], queues := [(3, queue3)] }) with hostUp := true, paths := [(6, 3)], ports := 3, tierGb := 4, device := 1 }
    let e : Journal := { seq := 1, step := 1, part := 0, outcome := 0, slot := 0, time := 0, code := 0 }
    s.hostUp = true ∧ (part s 0).running = true ∧ 0xFFFFFFF8 + 8 ≤ (part s 0).hbmSize ∧ ¬ 0xFFFFFFF9 + 8 ≤ (part s 0).hbmSize ∧ (world).hostUp = false
      ∧ downIn s 0x2000 8 = false ∧ refusedOutside s 0x2000 8 = false ∧ poisoned s 0x2000 8 = false ∧ poisoned (poisonSector s 0x100) 0x2000 40 = true
      ∧ poisoned (poisonSector s 0x100) 0x2020 1 = false ∧ (queueOf s 0 (24 / 8)).created = true ∧ ([e].flatMap journalBytes).length = 32
      ∧ regionOf s 0x2000 = .hbm ∧ regionOf s 0xC0000000000 = .host ∧ regionOf s 0x1000000000000 = .peer 0
      ∧ regionOf s 0x10000000000 = .tier ∧ partOfPa s 0x10000000000 = none ∧ s.reaches 6 = true ∧ s.reaches 7 = false ∧ 6 ≠ s.device
      ∧ (2#12 &&& s.ports ≠ 0) ∧ (4#12 &&& s.ports = 0) ∧ ({ s with ports := s.ports &&& ~~~ (1#12 <<< 0) } : State).reaches 6 = true
      ∧ ({ s with ports := 0 } : State).reaches 6 = false ∧ mapGet (part s 0).reach 6 = some 2 ∧ (part s 0).hbmBase ≤ 0x2000 ∧ 0x2000 + 8 ≤ (part s 0).hbmBase + (part s 0).hbmSize := by decide

/-! A signed image: the keys and signatures of ECDSA on brainpoolP384r1 (R536), computed outside the model. -/
def goodRoot : BitVec 768 := 0x278fb38cb9be2f182585ca30f1c8c3fef2b27ca70e77417369de756fcd68f3c0a1d47a288d1c91389a4e5ce8c78c167127275f78129b4d1a0f808e84373dacd61ab2d5f697415b4ee122aa2678b8f6653577c61dccc3906b0d0e4b30974b04ce
def goodKey : BitVec 768 := 0x7a339eae6dc36a45bbe7d0d4ff53200c133593e67b226da06500c7a000847be1c1d3ec27e1420f5c6c58f38ecdbf7ac05f5c913fae150d7a16defe1c9ee7271b9e6afc088f229cfc40b2031a1fca950954eff5d3d14cb9e7d7719192aa6ac973
def goodKeySig : BitVec 768 := 0x6ee74222c6254c41d46daa5fa4b055d95330c6661cc9cf540cb0800f1eb89c6f680ce45ab13bb688b007d9027b7f3a0582715033015c2837c7756ed08df85e80c24e022f8a6f243dc12c11805fb58e26b4e0bbc7b8e358eabe568348f24a4880
def goodSig : BitVec 768 := 0x7b2cf3071a390293ae8b990ad1aa3b20627d579a4d8e34829aad84e5d303caf4d152649a04a0323f206c548cadacbdf2195dd72b699015d9acc434bde39508438b546ef31355b38709a54f9de0118d080ca2420968f674bc6c1cb960613c3155
def rootHash : BitVec 384 := 0xa048789ec3adbc20f51665eeb67fbf2ac11a3253338649390dd1284f786ad07cf51e83ee19ea3e2675ac3387ea18e81

def good : Image := { version := 1, key := goodKey, root := goodRoot, keySig := goodKeySig, bytes := [0x61, 0x62, 0x63], sig := goodSig }
def poor : Image := { good with bytes := [0x61, 0x62, 0x64] }
def made_ : State := { State.reset with rootHash := rootHash }

/-- SHA-384 of "abc" (the example of FIPS 180-4). -/
theorem test_sha384 : sha384 [0x61, 0x62, 0x63] = 0xcb00753f45a35e8bb5a03d699ac65007272c32ab0eded1631a8b605a43ff5bed8086072ba1e7cc2358baeca134c825a7 := by decide +kernel

/-- The image is accepted at its version, not below a higher minimum; another byte breaks its signature. -/
theorem test_accepts : accepts made_ 1 good = true ∧ accepts made_ 2 good = false ∧ accepts made_ 1 poor = false := by decide +kernel

/-- A core map record as R14 lays it out: every logical core in its place, every home in its place, a signature of zeros. -/
def mapRecord : List Byte :=
  leBytes 0x564A434D 4 ++ leBytes 1 4
    ++ (List.range 384).flatMap (fun n => leBytes (n / 96 * 2 ^ 14 + n / 8 % 12 * 2 ^ 10 + n % 8 * 2 ^ 7) 2)
    ++ (List.range 48).map (fun k => BitVec.ofNat 8 (k % 12)) ++ List.replicate 96 0

def share : PartRecord :=
  { slots := List.range 8, clusters := [0], hbmBase := 0, hbmSize := 0x200000000, tierBase := 0, tierSize := 0, system := 0 }

def flash (shuax : Image × Image) : Flash :=
  { shuax := shuax, maps := ({ bytes := mapRecord, verifies := true }, { bytes := mapRecord, verifies := true })
    parts := (some { digest := 0, parts := [share] }, none), link := (some { digest := 3, device := 0, reach := [] }, none)
    passing := BitVec.allOnes 12, firmware := (good, good), hostUp := true, tier := some [], milca := none, trained := 0, debug := 0
    hyper := (good, good), systems := [(good, good)], minimum := [1, 1, 1, 1] }

/-- Every image passes (`test_accepts`), or Shuax has none that does; a share of eight units is the least, and a slot too few or twice is
refused. -/
theorem witness_starts :
    let f := flash (good, good)
    let bad := flash (poor, poor)
    let again := { made_ with flash := some f, parts := [(0, { slots := List.range 8, clusters := [0], hbmSize := 0x200000000 })], serving := List.range 12 }
    let e : Journal := { seq := 3, step := 1, part := 0, outcome := 0, slot := 0, time := 0, code := 0 }
    let e := { e with check := crc32 (journalBody e) }
    let cut := { made_ with attempt := 3, journal := [e, e], boot := some { flash := f, old := [] } }
    made_.journal = [] ∧ made_.flash = none ∧ (foundFlash made_ f).shuax = (good, good) ∧ f.firmware = (good, good) ∧ f.hyper = (good, good) ∧ (systemOf f share).1 = good
      ∧ f.minimum = [1, 1, 1, 1] ∧ bad.shuax = (poor, poor) ∧ f.passing = BitVec.allOnes 12
      ∧ f.link.1 ≠ none ∧ partsOk [share] = true ∧ share.hbmBase + share.hbmSize ≤ 12 * 36 * 0x40000000
      ∧ partsOk [{ share with hbmSize := 0x1C0000000 }] = false ∧ partsOk [{ share with slots := List.range 7 }] = false
      ∧ partsOk [{ share with slots := [0, 1, 2, 3, 4, 5, 6, 6] }] = false ∧ partsOk [{ share with clusters := [] }] = false
      ∧ (again.flash.bind fun y => (y.parts.1.or y.parts.2).bind fun r => ((numbered r).find? fun e => e.1 == 0).map fun e => (y, systemOf y e.2)) = some (f, good, good)
      ∧ (part again 0).hbmBase + (part again 0).hbmSize ≤ again.hbmStacks * 36 * 0x40000000 ∧ ¬ (part again 0).hbmBase + (part again 0).hbmSize ≤ ({ again with serving := [] } : State).hbmStacks * 36 * 0x40000000
      ∧ cut.boot.isSome = true ∧ (cut.journal.take 1).getLast? = some e ∧ e.seq = cut.attempt ∧ e.valid = true ∧ (cut.journal.filter fun e => e.seq == cut.attempt).length = 2
      ∧ mapGet (world).parts 0 ≠ none ∧ mapGet (world).parts 1 = none ∧ (0x10000000000 : Nat) ≤ 0x10000000000 := by decide +kernel

/-- The record above is one that a start accepts; with two cores in one place, or another magic number, it is none. -/
theorem witness_mapRecord :
    (mapCopies State.reset (flash (good, good)).maps).1.isSome = true ∧ (mapCopies State.reset (flash (good, good)).maps).2.isSome = true
      ∧ (readMap 0 ((mapRecord.take 8) ++ leBytes 0x80 2 ++ mapRecord.drop 10) true).isSome = false
      ∧ (readMap 0 (0 :: mapRecord.drop 1) true).isSome = false ∧ (readMap 0 mapRecord false).isSome = false := by decide +kernel

/-! ### The machine -/

/-- A well-formed instruction of the greatest length, with every operand away from zero. -/
theorem witness_encode : (Instr.phint ⟨1, 2, 3, 0, 0⟩ 0x12345678 9).wellFormed = true ∧ decode (encode (.phint ⟨1, 2, 3, 0, 0⟩ 0x12345678 9)) = .ok (.phint ⟨1, 2, 3, 0, 0⟩ 0x12345678 9) 6 := by decide

/-- The first busy quad of a part that has SADD at its program counter issues it. -/
theorem witness_stepRunsDecoded :
    let w := 2 ^ 26 * 6 + 2 ^ 20 * 4 + 2 ^ 14 * 2 + 1
    let s := State.reset.withFetchWord 32 w
    let t := atCycle s 0 0
    let g := grp t 1
    let u := { t with who := (1, .split 0) }
    let v := after (exec (.sadd ⟨6, 4, 2, 0, 0⟩) u) u
    s.agenda = [] ∧ s.power = .running ∧ s.boot = none ∧ (beforeIssue s).isNone = true ∧ (busyQuads s).head? = some (0, 0) ∧ (quadGroups s 0 0).isEmpty = false
      ∧ (quad (Machine.core t 0) 0).clk ≤ t.clk.toNat ∧ (quad (Machine.core t 0) 0).affClk ≤ t.clk.toNat ∧ (quad (Machine.core t 0) 0).beatEnd ≤ (quad (Machine.core t 0) 0).clk ∧ popFrozen t 0 0 = false
      ∧ (ordered t 0 0 false).head? = some (1, g, .split 0) ∧ placeOf t g (pcOf g (.split 0)) = some (0, { base := 0, len := 4096, preload := true }, 0)
      ∧ (match slotFor t 0 (ctxOf t g) 0 with
          | some (n, sl) => n == 31 && sl.st == .resident && decide (readCode (bytesAt sl.bytes 0 (Nat.min 12 4096)) = .ok (.sadd ⟨6, 4, 2, 0, 0⟩) 4)
          | none => false) = true
      ∧ heldBack v = false ∧ trapped v = false := by decide

theorem witness_stepServes :
    let s := { world with agenda := [.tempThrottle, .throttleEnd] }
    serves s.power .tempThrottle = true ∧ serves .off .tempThrottle = false ∧ revives (.partStart (flash (good, good))) = true ∧ revives .tempThrottle = false
      ∧ isRequestError (.hostRequestError 0 0) = true ∧ isRequestError .tempThrottle = false ∧ State.reset.power = .off ∧ State.reset.agenda = []
      ∧ (let u := { s with power := .managementOnly, agenda := [.scrubPass] }; u.agenda = [.scrubPass] ∧ u.power = .managementOnly ∧ managed .scrubPass = false) := by decide

/-- A safe state steps: the premises of the invariant can be met. -/
theorem witness_stepKeepsMemory : Memory.wf (world).mem ∧ (match step { world with agenda := [.tempThrottle] } with | .next t => t.hot | _ => false) = true := by decide

end Sys2Proof.Tests
end

section
/-! PROOFS. Branches, calls, jumps, returns and transfers between segments (R33, R34, R60, R61, R87 to R89): what the two
shared shapes `branch` and `transfer` do in each of their cases, and from that every instruction of the two majors. -/

namespace Sys2Proof.Machine
open Sys2Proof

/-! ### The lane conditions of BANY and BALL (R87) -/

theorem and_eq_zero_iff (l m : Lanes) : l &&& m = 0 ↔ ∀ i, i < 96 → (l.getLsbD i && m.getLsbD i) = false := by
  simp [BitVec.eq_of_getLsbD_eq_iff]

theorem anyLane_iff (act t : Lanes) :
    anyLane act t = true ↔ ∃ i, i < 96 ∧ act.getLsbD i = true ∧ t.getLsbD i = true := by
  rw [anyLane, bne_iff_ne, ne_eq, and_eq_zero_iff]
  simp

theorem allLanes_iff (act t : Lanes) :
    allLanes act t = true ↔ ∀ i, i < 96 → act.getLsbD i = true → t.getLsbD i = true := by
  rw [allLanes, beq_iff_eq, and_eq_zero_iff]
  simp +contextual

/-! ### Branches of major 0x08 (R34, R87, R88) -/

/-- The offset in its segment that a J-format branch at `pc` names. -/
def jumpOffset (pc : Word) (off : BitVec 14) : Int := ((pc.toNat % 4096 : Nat) : Int) + 2 * off.toInt

/-- The offsets of a segment that a J-format branch may name (R34). -/
def jumpInside (seg : Seg) (o : Int) : Prop := 0 ≤ o ∧ o ≤ (seg.len : Int) - 2

/-- The code address of an offset in the segment of `pc`. -/
def jumpTarget (pc : Word) (o : Int) : Word := (pc &&& 0xFFFFF000) ||| BitVec.ofNat 32 o.toNat

section Branch
variable {s : State} {i : Instr} {f : JHead} {seg : Seg} {taken : Bool} {put : State → State}

theorem branchTarget_of_inside {g : Group} {pc : Word} {off : BitVec 14} (hseg : segOf s g pc = some seg)
    (ho : jumpInside seg (jumpOffset pc off)) : branchTarget s g pc off = some (jumpTarget pc (jumpOffset pc off)) := by
  simp only [branchTarget, hseg]
  exact if_pos ho

theorem branchTarget_of_outside {g : Group} {pc : Word} {off : BitVec 14} (hseg : segOf s g pc = some seg)
    (ho : ¬ jumpInside seg (jumpOffset pc off)) : branchTarget s g pc off = none := by
  simp only [branchTarget, hseg]
  exact if_neg ho

theorem branch_notTaken (hr : ready s i = true) (ht : taken = false) : branch s i f taken put = advance (put s) 4 := by
  simp [branch, ready_guard hr, ht]

theorem branch_taken_inside (hr : ready s i = true) (ht : taken = true)
    (hseg : segOf s (me s) (pcOf (me s) s.who.2) = some seg) (ho : jumpInside seg (jumpOffset (pcOf (me s) s.who.2) f.off)) :
    branch s i f taken put = goTo (put s) (jumpTarget (pcOf (me s) s.who.2) (jumpOffset (pcOf (me s) s.who.2) f.off)) := by
  simp [branch, ready_guard hr, ht, branchTarget_of_inside hseg ho]

theorem branch_taken_outside (hr : ready s i = true) (ht : taken = true)
    (hseg : segOf s (me s) (pcOf (me s) s.who.2) = some seg) (ho : ¬ jumpInside seg (jumpOffset (pcOf (me s) s.who.2) f.off)) :
    branch s i f taken put = trapC s .fetch := by
  simp [branch, ready_guard hr, ht, branchTarget_of_outside hseg ho]

/-- What a ready branch answers that is taken where `P` holds: the trap, the target from the state `yes`, or the next
instruction from the state `no`. -/
def BranchAnswers (s : State) (i : Instr) (f : JHead) (seg : Seg) (P : Prop) (yes no : State) : Prop :=
  let pc := pcOf (me s) s.who.2
  let o := jumpOffset pc f.off
  ready s i = true →
    (P → ¬ jumpInside seg o → exec i s = .next (trapC s .fetch)) ∧ (P → jumpInside seg o → exec i s = .next (goTo yes (jumpTarget pc o)))
      ∧ (¬ P → exec i s = .next (advance no 4))

theorem branchAnswers {P : Prop} (hseg : segOf s (me s) (pcOf (me s) s.who.2) = some seg)
    (hx : exec i s = .next (branch s i f taken put)) (ht : taken = true ↔ P) :
    BranchAnswers s i f seg P (put s) (put s) := by
  intro hr
  rw [hx]
  refine ⟨fun hP ho => ?_, fun hP ho => ?_, fun hP => ?_⟩
  · rw [branch_taken_outside hr (ht.2 hP) hseg ho]
  · rw [branch_taken_inside hr (ht.2 hP) hseg ho]
  · rw [branch_notTaken hr (Bool.eq_false_iff.2 (mt ht.1 hP))]

/-- A branch that is always taken never goes on from the state `no`. -/
theorem branchAnswers_always (no : State) (hseg : segOf s (me s) (pcOf (me s) s.who.2) = some seg)
    (hx : exec i s = .next (branch s i f true put)) : BranchAnswers s i f seg True (put s) no := by
  intro hr
  obtain ⟨hout, hin, -⟩ := branchAnswers hseg hx (iff_of_true rfl trivial) hr
  exact ⟨hout, hin, fun h => absurd trivial h⟩

end Branch

/-! ### Transfers to a code address (R33, R34, R60, R61, R89) -/

/-- The bits of a code address that R34 refuses: a reserved one that is not zero, or an odd offset. -/
def badAddress (t : Word) : Prop := t.extractLsb' 24 8 ≠ 0 ∨ t.getLsbD 0 = true

theorem badAddress_iff (t : Word) : (t.extractLsb' 24 8 != 0 || t.getLsbD 0) = true ↔ badAddress t := by
  simp [badAddress]

/-- The state in which a transfer goes on: with its link written, where it has one. -/
def withLink (s : State) : Option Reg → State
  | some d => scalResult s d.toNat (nextPc (pcOf (me s) s.who.2) 4) 1
  | none => s

/-- What a transfer to an address with right bits does: its segment is looked up in the segment table, then in the slots. -/
def enter (s : State) (t : Word) (link : Option Reg) : State :=
  match segOf s (me s) t with
  | none => trapC s .fetch
  | some seg =>
    match slotFor s (coreOf s (me s)) (ctxOf s (me s)) seg.base with
    | none => trap s { cause := .segnp, target := some (t.toNat / 4096 % 4096) }
    | some (_, slot) =>
      if seg.len ≤ t.toNat % 4096 then trapC s .fetch
      else if slot.st = .loading then block (goTo (withLink s link) t) (.segment (t.toNat / 4096 % 4096))
      else goTo (withLink s link) t

section Transfer
variable {s : State} {i : Instr} {a : Reg} {link : Option Reg} {seg : Seg} {k : Nat} {slot : Slot}

theorem transfer_of_badAddress (hr : ready s i = true) (hb : badAddress (sget s a)) : transfer s i a link = trapC s .fetch := by
  simp only [transfer, ready_guard hr]
  exact if_pos ((badAddress_iff _).2 hb)

theorem transfer_of_goodAddress (hr : ready s i = true) (hb : ¬ badAddress (sget s a)) :
    transfer s i a link = enter s (sget s a) link := by
  simp only [transfer, ready_guard hr]
  rw [if_neg (mt (badAddress_iff _).1 hb)]
  cases link <;> rfl

theorem enter_of_noSegment {t : Word} (hseg : segOf s (me s) t = none) : enter s t link = trapC s .fetch := by
  simp [enter, hseg]

theorem enter_of_absent {t : Word} (hseg : segOf s (me s) t = some seg)
    (hslot : slotFor s (coreOf s (me s)) (ctxOf s (me s)) seg.base = none) :
    enter s t link = trap s { cause := .segnp, target := some (t.toNat / 4096 % 4096) } := by
  simp [enter, hseg, hslot]

theorem enter_of_pastEnd {t : Word} (hseg : segOf s (me s) t = some seg)
    (hslot : slotFor s (coreOf s (me s)) (ctxOf s (me s)) seg.base = some (k, slot)) (hlen : seg.len ≤ t.toNat % 4096) :
    enter s t link = trapC s .fetch := by
  simp [enter, hseg, hslot, hlen]

theorem enter_of_resident {t : Word} (hseg : segOf s (me s) t = some seg)
    (hslot : slotFor s (coreOf s (me s)) (ctxOf s (me s)) seg.base = some (k, slot)) (hlen : t.toNat % 4096 < seg.len)
    (hst : slot.st ≠ .loading) : enter s t link = goTo (withLink s link) t := by
  simp [enter, hseg, hslot, hlen, hst]

theorem enter_of_loading {t : Word} (hseg : segOf s (me s) t = some seg)
    (hslot : slotFor s (coreOf s (me s)) (ctxOf s (me s)) seg.base = some (k, slot)) (hlen : t.toNat % 4096 < seg.len)
    (hst : slot.st = .loading) :
    enter s t link = block (goTo (withLink s link) t) (.segment (t.toNat / 4096 % 4096)) := by
  simp [enter, hseg, hslot, hlen, hst]

/-- What a ready transfer to the address in `sA` answers, where `u` is the state in which it goes on: the checks of the address,
the segment, its slot and its length in that order, then the jump, which waits where the segment is loading. -/
def TransferAnswers (s u : State) (i : Instr) (a : Reg) (seg : Seg) (k : Nat) (slot : Slot) : Prop :=
  let t := sget s a
  let no := t.toNat / 4096 % 4096
  let found := slotFor s (coreOf s (me s)) (ctxOf s (me s)) seg.base
  ready s i = true →
    ((badAddress t ∨ segOf s (me s) t = none) → exec i s = .next (trapC s .fetch))
      ∧ (¬ badAddress t → segOf s (me s) t = some seg →
          (found = none → exec i s = .next (trap s { cause := .segnp, target := some no }))
            ∧ (found = some (k, slot) →
                (seg.len ≤ t.toNat % 4096 → exec i s = .next (trapC s .fetch))
                  ∧ (t.toNat % 4096 < seg.len → slot.st ≠ .loading → exec i s = .next (goTo u t))
                  ∧ (t.toNat % 4096 < seg.len → slot.st = .loading → exec i s = .next (block (goTo u t) (.segment no)))))

theorem transferAnswers (hx : exec i s = .next (transfer s i a link)) : TransferAnswers s (withLink s link) i a seg k slot := by
  intro hr
  have hgood (hb : ¬ badAddress (sget s a)) : exec i s = .next (enter s (sget s a) link) := by
    rw [hx, transfer_of_goodAddress hr hb]
  refine ⟨fun hbad => ?_, fun hb hseg => ⟨fun hslot => ?_, fun hslot => ⟨fun hlen => ?_, fun hlen hst => ?_, fun hlen hst => ?_⟩⟩⟩
  · by_cases hb : badAddress (sget s a)
    · rw [hx, transfer_of_badAddress hr hb]
    · rw [hgood hb, enter_of_noSegment (hbad.resolve_left hb)]
  · rw [hgood hb, enter_of_absent hseg hslot]
  · rw [hgood hb, enter_of_pastEnd hseg hslot hlen]
  · rw [hgood hb, enter_of_resident hseg hslot hlen hst]
  · rw [hgood hb, enter_of_loading hseg hslot hlen hst]

end Transfer

/-- Settles O23: each branch is the shape `branch` with its own condition and write, and each transfer the shape `transfer`
with its own link. -/
theorem branchesAndTransfers : Obligations.BranchesAndTransfers := by
  unfold Obligations.BranchesAndTransfers
  refine ⟨fun f s seg => ?_, fun f s seg k slot => ?_⟩
  · intro g pc off inside target act n put br hseg
    have hbra : BranchAnswers s (.bra f) f seg True s s := branchAnswers_always (put := id) s hseg rfl
    have hbrz : BranchAnswers s (.brz f) f seg (sget s f.s = 0) s s := branchAnswers (put := id) hseg rfl beq_iff_eq
    have hbrnz : BranchAnswers s (.brnz f) f seg (sget s f.s ≠ 0) s s := branchAnswers (put := id) hseg rfl bne_iff_ne
    have hcall : BranchAnswers s (.call f) f seg True (scalResult s f.s.toNat (nextPc pc 4) 1) s :=
      branchAnswers_always (put := fun s => scalResult s f.s.toNat (nextPc (pcOf (me s) s.who.2) 4) 1) s hseg rfl
    have hsdbnz : BranchAnswers s (.sdbnz f) f seg (n ≠ 0) (put n) (put n) :=
      branchAnswers (put := fun _ => put n) hseg rfl bne_iff_ne
    have hbany := branchAnswers (i := .bany f) (put := id) hseg rfl (anyLane_iff act (tget s f.s))
    have hball := branchAnswers (i := .ball f) (put := id) hseg rfl (allLanes_iff act (tget s f.s))
    exact ⟨hbra, hbrz, hbrnz, hcall, hsdbnz, hbany, hball⟩
  · intro g t no bad found linked cases
    have hjmpr : TransferAnswers s s (.jmpr f) f.a seg k slot := transferAnswers (link := none) rfl
    have hret : TransferAnswers s s (.ret f) f.a seg k slot := transferAnswers (link := none) rfl
    have hjfnc : TransferAnswers s linked (.jfnc f) f.a seg k slot := transferAnswers (link := some f.d) rfl
    exact ⟨hjmpr, hret, hjfnc⟩

end Sys2Proof.Machine
end

section
/-! PROOFS. Scalar arithmetic (R107, R108): what the operations on w bits compute, what the shape `scalarOp` answers at each
width, and from that every instruction of majors 0x00 to 0x02. -/

namespace Sys2Proof.Machine
open Sys2Proof

/-! ### What the operations of R107 compute, on w bits -/

section Operations
variable {w : Nat}

theorem sShl_of_wide (sg : Bool) (a b d : Addr) : sShl sg a b d = a <<< lowSix b :=
  if_neg (Nat.not_le.2 (Nat.mod_lt _ (by decide)))

theorem sShr_of_wide (sg : Bool) (a b d : Addr) : sShr sg a b d = a >>> lowSix b :=
  if_neg (Nat.not_le.2 (Nat.mod_lt _ (by decide)))

/-- An arithmetic shift by 31 or more fills a word with its sign bit. -/
theorem sshiftRight_min (a : Word) (n : Nat) : a.sshiftRight n = a.sshiftRight (Nat.min n 31) := by
  obtain hn | hn := Nat.le_total n 31
  · rw [show Nat.min n 31 = n from Nat.min_eq_left hn]
  · apply BitVec.eq_of_getLsbD_eq
    intro i hi
    have hsign : (if 31 + i < 32 then a.getLsbD (31 + i) else a.msb) = a.msb := by
      split
      · rw [show i = 0 by omega, BitVec.msb_eq_getLsbD_last]
      · rfl
    have hfill : (if n + i < 32 then a.getLsbD (n + i) else a.msb) = a.msb := by
      obtain rfl | hlt := Nat.eq_or_lt_of_le hn
      · exact hsign
      · exact if_neg (by omega)
    rw [show Nat.min n 31 = 31 from Nat.min_eq_right hn, BitVec.getLsbD_sshiftRight, BitVec.getLsbD_sshiftRight, hfill, hsign]

theorem sMin_eq (sg : Bool) (a b d : BitVec w) :
    sMin sg a b d = if sg then BitVec.ofInt w (min a.toInt b.toInt) else BitVec.ofNat w (min a.toNat b.toNat) := by
  cases sg with
  | true =>
    by_cases h : b.toInt < a.toInt
    · simp [sMin, BitVec.slt_eq_decide, h, min_eq_right h.le]
    · simp [sMin, BitVec.slt_eq_decide, h, min_eq_left (not_lt.1 h)]
  | false =>
    by_cases h : b.toNat < a.toNat
    · simp [sMin, BitVec.ult_eq_decide, h, min_eq_right h.le]
    · simp [sMin, BitVec.ult_eq_decide, h, min_eq_left (not_lt.1 h)]

theorem sMax_eq (sg : Bool) (a b d : BitVec w) :
    sMax sg a b d = if sg then BitVec.ofInt w (max a.toInt b.toInt) else BitVec.ofNat w (max a.toNat b.toNat) := by
  cases sg with
  | true =>
    by_cases h : a.toInt < b.toInt
    · simp [sMax, BitVec.slt_eq_decide, h, max_eq_right h.le]
    · simp [sMax, BitVec.slt_eq_decide, h, max_eq_left (not_lt.1 h)]
  | false =>
    by_cases h : a.toNat < b.toNat
    · simp [sMax, BitVec.ult_eq_decide, h, max_eq_right h.le]
    · simp [sMax, BitVec.ult_eq_decide, h, max_eq_left (not_lt.1 h)]

theorem sSel_eq (sg : Bool) (a b d : BitVec w) : sSel sg a b d = if d ≠ 0 then a else b := by
  simp only [sSel, ne_eq, ite_not]

/-- Where the field of SBFX and SBFI ends: its length from its position, cut at w. -/
def fieldEnd (b : BitVec w) : Nat := Nat.min (lowSix b + lenField b) w

/-- How many bits of the field there are. -/
def fieldLen (b : BitVec w) : Nat := fieldEnd b - lowSix b

/-- The place `i` lies in the field. -/
def inBitField (b : BitVec w) (i : Nat) : Bool := decide (lowSix b ≤ i) && decide (i < fieldEnd b)

theorem fieldEnd_le (b : BitVec w) : fieldEnd b ≤ w := Nat.min_le_right _ _

/-- As many ones as the field has bits, from place 0 up. -/
def lowOnes (b : BitVec w) : BitVec w := BitVec.ofNat w (2 ^ fieldLen b - 1)

/-- Ones at the places of the field. -/
def fieldOnes (b : BitVec w) : BitVec w := BitVec.ofNat w ((2 ^ fieldLen b - 1) * 2 ^ lowSix b)

/-- The field of `a`, moved down to place 0, with zeros above it. -/
def fieldBits (a b : BitVec w) : BitVec w := (a >>> lowSix b) &&& lowOnes b

theorem sBfx_eq (sg : Bool) (a b d : BitVec w) :
    sBfx sg a b d = if sg && decide (0 < fieldLen b) && (fieldBits a b).getLsbD (fieldLen b - 1)
      then fieldBits a b ||| ~~~ lowOnes b else fieldBits a b := rfl

theorem sBfi_eq (sg : Bool) (a b d : BitVec w) :
    sBfi sg a b d = (d &&& ~~~ fieldOnes b) ||| ((a <<< lowSix b) &&& fieldOnes b) := rfl

theorem inBitField_add (b : BitVec w) (i : Nat) : inBitField b (lowSix b + i) = decide (i < fieldLen b) := by
  rw [inBitField, fieldLen, Bool.eq_iff_iff]
  simp only [Bool.and_eq_true, decide_eq_true_eq]
  omega

theorem lowOnes_getLsbD (b : BitVec w) {i : Nat} (hi : i < w) : (lowOnes b).getLsbD i = decide (i < fieldLen b) := by
  rw [lowOnes, BitVec.getLsbD_ofNat, Nat.testBit_two_pow_sub_one, decide_eq_true hi, Bool.true_and]

theorem fieldOnes_getLsbD (b : BitVec w) (i : Nat) : (fieldOnes b).getLsbD i = inBitField b i := by
  have hle := fieldEnd_le b
  rw [fieldOnes, BitVec.getLsbD_ofNat, Nat.testBit_mul_two_pow, Nat.testBit_two_pow_sub_one, inBitField, fieldLen, Bool.eq_iff_iff]
  simp only [Bool.and_eq_true, decide_eq_true_eq]
  omega

theorem fieldBits_getLsbD (a b : BitVec w) {i : Nat} (hi : i < w) :
    (fieldBits a b).getLsbD i = (decide (i < fieldLen b) && a.getLsbD (lowSix b + i)) := by
  rw [fieldBits, BitVec.getLsbD_and, BitVec.getLsbD_ushiftRight, lowOnes_getLsbD b hi, Bool.and_comm]

/-- The highest bit of the field of `a` is its sign. -/
theorem fieldBits_sign (a b : BitVec w) :
    (decide (0 < fieldLen b) && (fieldBits a b).getLsbD (fieldLen b - 1))
      = (decide (lowSix b < fieldEnd b) && a.getLsbD (fieldEnd b - 1)) := by
  have hle := fieldEnd_le b
  by_cases h : lowSix b < fieldEnd b
  · have hlen : 0 < fieldLen b := Nat.sub_pos_of_lt h
    have htop : lowSix b + (fieldLen b - 1) = fieldEnd b - 1 := by unfold fieldLen; omega
    rw [fieldBits_getLsbD a b (by unfold fieldLen; omega), htop]
    simp [h, hlen]
  · have hlen : ¬ 0 < fieldLen b := by unfold fieldLen; omega
    simp [h, hlen]

/-- SBFX: the field's own bits, and above them its sign where it is signed and not empty. -/
theorem sBfx_getLsbD (sg : Bool) (a b d : BitVec w) {i : Nat} (hi : i < w) :
    (sBfx sg a b d).getLsbD i = if inBitField b (lowSix b + i) then a.getLsbD (lowSix b + i)
      else sg && decide (lowSix b < fieldEnd b) && a.getLsbD (fieldEnd b - 1) := by
  rw [sBfx_eq, Bool.and_assoc, fieldBits_sign, ← Bool.and_assoc, inBitField_add]
  generalize (sg && decide (lowSix b < fieldEnd b) && a.getLsbD (fieldEnd b - 1)) = sign
  cases sign with
  | false => rw [if_neg Bool.false_ne_true, fieldBits_getLsbD a b hi]; by_cases hf : i < fieldLen b <;> simp [hf]
  | true =>
    rw [if_pos rfl, BitVec.getLsbD_or, BitVec.getLsbD_not, fieldBits_getLsbD a b hi, lowOnes_getLsbD b hi]
    by_cases hf : i < fieldLen b <;> simp [hf, hi]

/-- SBFI: the low bits of `a` in the field, and `d` around it. -/
theorem sBfi_getLsbD (sg : Bool) (a b d : BitVec w) {i : Nat} (hi : i < w) :
    (sBfi sg a b d).getLsbD i = if inBitField b i then a.getLsbD (i - lowSix b) else d.getLsbD i := by
  rw [sBfi_eq]
  simp only [BitVec.getLsbD_or, BitVec.getLsbD_and, BitVec.getLsbD_not, BitVec.getLsbD_shiftLeft, fieldOnes_getLsbD]
  cases hf : inBitField b i with
  | false => simp [hi]
  | true =>
    have hle : lowSix b ≤ i := of_decide_eq_true (Bool.and_eq_true_iff.1 hf).1
    simp [hi, hle]

end Operations

/-! ### Operands by width (R107) -/

section Operands
variable {s : State} {f : Head} {r : Reg}

theorem wget_of_narrow (h : f.ty.toNat < 2) : wget s f r = (sget s r).setWidth 64 := if_neg (Nat.not_le.2 h)

theorem wget_of_wide (h : 2 ≤ f.ty.toNat) : wget s f r = pget s r := if_pos h

theorem setWidth_setWidth_word (x : Word) : (x.setWidth 64).setWidth 32 = x := by
  rw [BitVec.setWidth_setWidth_of_le _ (by decide), BitVec.setWidth_eq]

theorem setWidth_wget_of_narrow (h : f.ty.toNat < 2) : (wget s f r).setWidth 32 = sget s r := by
  rw [wget_of_narrow h, setWidth_setWidth_word]

theorem setWidth_imm6 (r : Reg) : (imm6 r).setWidth 32 = (r.signExtend 32 : Word) := by
  apply BitVec.eq_of_getLsbD_eq
  intro i hi
  simp only [imm6, BitVec.getLsbD_setWidth, BitVec.getLsbD_signExtend, hi, show i < 64 by omega, decide_true, Bool.true_and]

/-- The low six bits of a sign-extended immediate are the immediate. -/
theorem lowSix_signExtend (r : Reg) {w : Nat} (hw : 6 ≤ w) : lowSix (r.signExtend w) = r.toNat := by
  have hlow : (r.signExtend w).setWidth 6 = r := by
    apply BitVec.eq_of_getLsbD_eq
    intro i hi
    simp only [BitVec.getLsbD_setWidth, BitVec.getLsbD_signExtend, hi, show i < w by omega, if_true, decide_true, Bool.true_and]
  calc lowSix (r.signExtend w) = ((r.signExtend w).setWidth 6).toNat := (BitVec.toNat_setWidth 6 _).symm
    _ = r.toNat := by rw [hlow]

theorem ty_ne_two_of_narrow (h : f.ty.toNat < 2) : (f.ty == 2) = false := beq_false_of_ne fun e => by simp [e] at h

theorem ty_ne_zero_of_wide (h : 2 ≤ f.ty.toNat) : (f.ty == 0) = false := beq_false_of_ne fun e => by simp [e] at h

/-- The signed type of the 32-bit width is .s32, and that of the 64-bit width .s64. -/
theorem signed_of_narrow (h : f.ty.toNat < 2) : (f.ty == 0 || f.ty == 2) = (f.ty == 0) := by
  rw [ty_ne_two_of_narrow h, Bool.or_false]

theorem signed_of_wide (h : 2 ≤ f.ty.toNat) : (f.ty == 0 || f.ty == 2) = (f.ty == 2) := by
  rw [ty_ne_zero_of_wide h, Bool.false_or]

end Operands

/-! ### The shape of majors 0x00 to 0x02 (R107, R108) -/

/-- The second operand of an instruction of majors 0x00 to 0x02 on 32 bits: s[B], or imm6. -/
def narrowSource (s : State) (f : Head) (imm : Bool) : Word := if imm then f.b.signExtend 32 else sget s f.b

/-- The second operand on 64 bits: the pair at B, or imm6. -/
def wideSource (s : State) (f : Head) (imm : Bool) : Addr := if imm then f.b.signExtend 64 else pget s f.b

/-- A result of 32 bits goes to s[D], and one of 64 bits to the pair at D. -/
def pairResult (s : State) (d : Nat) (v : Addr) (lat : Nat) : State :=
  scalResult (scalResult s d (v.extractLsb' 0 32) lat) (d + 1) (v.extractLsb' 32 32) lat

section Shape
variable {s : State} {i : Instr} {f : Head} {imm : Bool} {lat : Nat}
  {op : {w : Nat} → Bool → BitVec w → BitVec w → BitVec w → BitVec w}

theorem scalarOp_of_narrow (hr : ready s i = true) (hty : f.ty.toNat < 2) :
    scalarOp s i f imm lat op
      = advance (scalResult s f.d.toNat (op (f.ty == 0) (sget s f.a) (narrowSource s f imm) (sget s f.d)) lat) (lenOf i) := by
  have hb : (if imm then imm6 f.b else wget s f f.b).setWidth 32 = narrowSource s f imm := by
    cases imm with
    | true => exact setWidth_imm6 f.b
    | false => exact setWidth_wget_of_narrow hty
  rw [scalarOp, ready_plainOp hr]
  simp only [if_neg (Nat.not_le.2 hty), hb, setWidth_wget_of_narrow hty, signed_of_narrow hty]

theorem scalarOp_of_wide (hr : ready s i = true) (hty : 2 ≤ f.ty.toNat) :
    scalarOp s i f imm lat op
      = advance (pairResult s f.d.toNat (op (f.ty == 2) (pget s f.a) (wideSource s f imm) (pget s f.d)) lat) (lenOf i) := by
  rw [scalarOp, ready_plainOp hr]
  simp only [if_pos hty, wget_of_wide hty, signed_of_wide hty]
  rfl

/-- A ready instruction of 32 bits writes `v` to s[D] after `lat` cycles, and goes on. -/
def NarrowAnswers (s : State) (f : Head) (i : Instr) (v : Word) (lat : Nat) : Prop :=
  ready s i = true → exec i s = .next (advance (scalResult s f.d.toNat v lat) 4)

/-- A ready instruction of 64 bits writes `v` to the pair at D after `lat` cycles, and goes on. -/
def WideAnswers (s : State) (f : Head) (i : Instr) (v : Addr) (lat : Nat) : Prop :=
  ready s i = true → exec i s = .next (advance (pairResult s f.d.toNat v lat) 4)

theorem narrowAnswers {v : Word} (hty : f.ty.toNat < 2) (hx : exec i s = .next (scalarOp s i f imm lat op)) (hlen : lenOf i = 4)
    (hv : op (f.ty == 0) (sget s f.a) (narrowSource s f imm) (sget s f.d) = v) : NarrowAnswers s f i v lat := by
  intro hr
  rw [hx, scalarOp_of_narrow hr hty, hlen, hv]

theorem wideAnswers {v : Addr} (hty : 2 ≤ f.ty.toNat) (hx : exec i s = .next (scalarOp s i f imm lat op)) (hlen : lenOf i = 4)
    (hv : op (f.ty == 2) (pget s f.a) (wideSource s f imm) (pget s f.d) = v) : WideAnswers s f i v lat := by
  intro hr
  rw [hx, scalarOp_of_wide hr hty, hlen, hv]

/-- What a ready instruction of major 0x02 answers in both widths. -/
theorem immediateAnswers {v : Word} {z : Addr} (hx : exec i s = .next (scalarOp s i f imm lat op)) (hlen : lenOf i = 4)
    (hv : f.ty.toNat < 2 → op (f.ty == 0) (sget s f.a) (narrowSource s f imm) (sget s f.d) = v)
    (hz : 2 ≤ f.ty.toNat → op (f.ty == 2) (pget s f.a) (wideSource s f imm) (pget s f.d) = z) :
    ready s i = true → exec i s = .next (advance
      (if f.ty.toNat < 2 then scalResult s f.d.toNat v lat else pairResult s f.d.toNat z lat) 4) := by
  intro hr
  obtain hty | hty := Nat.lt_or_ge f.ty.toNat 2
  · rw [if_pos hty, narrowAnswers hty hx hlen (hv hty) hr]
  · rw [if_neg (Nat.not_lt.2 hty), wideAnswers hty hx hlen (hz hty) hr]

end Shape

/-! ### Odd fields of 64-bit types (R43, R107) -/

theorem wide2_of_odd {f : Head} (hty : 2 ≤ f.ty.toNat) (h : f.d.getLsbD 0 = true ∨ f.a.getLsbD 0 = true) : f.wide2 = false := by
  rw [Head.wide2, decide_eq_false (Nat.not_lt.2 hty), even, even]
  obtain h | h := h <;> simp [h]

theorem wide3_of_odd {f : Head} (hty : 2 ≤ f.ty.toNat)
    (h : f.d.getLsbD 0 = true ∨ f.a.getLsbD 0 = true ∨ f.b.getLsbD 0 = true) : f.wide3 = false := by
  rw [Head.wide3, decide_eq_false (Nat.not_lt.2 hty), even, even, even]
  obtain h | h | h := h <;> simp [h]

/-- SMOV reads no B: its field is zero, so it is even. -/
theorem smov_illegal_of_odd {f : Head} (hty : 2 ≤ f.ty.toNat)
    (h : f.d.getLsbD 0 = true ∨ f.a.getLsbD 0 = true ∨ f.b.getLsbD 0 = true) : (Instr.smov f).wellFormed = false := by
  change (f.b == 0 && f.wide2) = false
  obtain h | h | h := h
  · rw [wide2_of_odd hty (.inl h), Bool.and_false]
  · rw [wide2_of_odd hty (.inr h), Bool.and_false]
  · rw [beq_false_of_ne fun e => by simp [e] at h, Bool.false_and]

/-- Settles O13: every instruction is the shape `scalarOp` with its own operation, whose value at each width is said above. -/
theorem scalarArithmetic : Obligations.ScalarArithmetic := by
  unfold Obligations.ScalarArithmetic
  refine ⟨fun f s => ?_, fun f s => ?_, fun f s => ?_⟩
  · intro a b d sg sh pos len stop inField goes hty
    have answers {i : Instr} {v : Word} {lat : Nat} (op : {w : Nat} → Bool → BitVec w → BitVec w → BitVec w → BitVec w)
        (hx : exec i s = .next (scalarOp s i f false lat op)) (hlen : lenOf i = 4) (hv : op sg a b d = v) : goes i v lat :=
      narrowAnswers hty hx hlen hv
    exact ⟨answers sAdd rfl rfl rfl, answers sSub rfl rfl rfl, answers sMul rfl rfl rfl, answers sMulh rfl rfl rfl,
      answers sAnd rfl rfl rfl, answers sOr rfl rfl rfl, answers sXor rfl rfl rfl, answers sShl rfl rfl rfl,
      answers sShr rfl rfl rfl, answers sSra rfl rfl (sshiftRight_min a sh), answers sMin rfl rfl (sMin_eq sg a b d),
      answers sMax rfl rfl (sMax_eq sg a b d), answers sSel rfl rfl (sSel_eq sg a b d), answers sMov rfl rfl rfl,
      fun hr => ⟨_, answers sBfx rfl rfl rfl hr, fun i hi => sBfx_getLsbD sg a b d hi⟩,
      fun hr => ⟨_, answers sBfi rfl rfl rfl hr, fun i hi => sBfi_getLsbD sg a b d hi⟩⟩
  · intro a b d sg sh pos len stop inField pair goes hty
    have answers {i : Instr} {v : Addr} {lat : Nat} (op : {w : Nat} → Bool → BitVec w → BitVec w → BitVec w → BitVec w)
        (hx : exec i s = .next (scalarOp s i f false lat op)) (hlen : lenOf i = 4) (hv : op sg a b d = v) : goes i v lat :=
      wideAnswers hty hx hlen hv
    refine ⟨answers sAdd rfl rfl rfl, answers sSub rfl rfl rfl, answers sMul rfl rfl rfl, answers sMulh rfl rfl rfl,
      answers sAnd rfl rfl rfl, answers sOr rfl rfl rfl, answers sXor rfl rfl rfl, answers sShl rfl rfl (sShl_of_wide sg a b d),
      answers sShr rfl rfl (sShr_of_wide sg a b d), answers sSra rfl rfl rfl, answers sMin rfl rfl (sMin_eq sg a b d),
      answers sMax rfl rfl (sMax_eq sg a b d), answers sSel rfl rfl (sSel_eq sg a b d), answers sMov rfl rfl rfl,
      fun hr => ⟨_, answers sBfx rfl rfl rfl hr, fun i hi => sBfx_getLsbD sg a b d hi⟩,
      fun hr => ⟨_, answers sBfi rfl rfl rfl hr, fun i hi => sBfi_getLsbD sg a b d hi⟩, fun hodd => ?_⟩
    have h3 : f.wide3 = false := wide3_of_odd hty hodd
    simp only [List.forall_mem_cons]
    exact ⟨h3, h3, h3, h3, h3, h3, h3, h3, h3, h3, h3, h3, h3, h3, h3, smov_illegal_of_odd hty hodd, List.forall_mem_nil _⟩
  · intro a b x y sh goes
    have answers {i : Instr} {v : Word} {z : Addr} {lat : Nat}
        (op : {w : Nat} → Bool → BitVec w → BitVec w → BitVec w → BitVec w)
        (hx : exec i s = .next (scalarOp s i f true lat op)) (hlen : lenOf i = 4)
        (hv : op (f.ty == 0) a b (sget s f.d) = v) (hz : op (f.ty == 2) x y (pget s f.d) = z) : goes i v z lat :=
      immediateAnswers hx hlen (fun _ => hv) fun _ => hz
    have hsh : lowSix b = sh := lowSix_signExtend f.b (by decide)
    have hshl : sShl (f.ty == 0) a b (sget s f.d) = if 32 ≤ sh then 0 else a <<< sh := by rw [sShl, hsh]
    have hshlWide : sShl (f.ty == 2) x y (pget s f.d) = x <<< sh := by
      rw [sShl_of_wide, show lowSix y = sh from lowSix_signExtend f.b (by decide)]
    refine ⟨answers sAdd rfl rfl rfl rfl, answers sSub rfl rfl rfl rfl, answers sMul rfl rfl rfl rfl, answers sMulh rfl rfl rfl rfl,
      answers sAnd rfl rfl rfl rfl, answers sOr rfl rfl rfl rfl, answers sXor rfl rfl rfl rfl, answers sShl rfl rfl hshl hshlWide,
      fun hsh => ?_, fun hty hodd => ?_⟩
    · change (f.wide2 && decide (f.b.toNat < 32)) = false
      rw [decide_eq_false (Nat.not_lt.2 hsh), Bool.and_false]
    · have h2 : f.wide2 = false := wide2_of_odd hty hodd
      have hshl : (f.wide2 && decide (f.b.toNat < 32)) = false := by rw [h2, Bool.false_and]
      simp only [List.forall_mem_cons]
      exact ⟨h2, h2, h2, h2, h2, h2, h2, hshl, List.forall_mem_nil _⟩

end Sys2Proof.Machine
end

section
/-! PROOFS. Scalar compares, counts, reversal and constants (R109 to R112, R115). -/

namespace Sys2Proof.Machine
open Sys2Proof

/-! ### The operand at its width -/

/-- w: 64 for .s64 and .n64, else 32. -/
def opWidth (f : Head) : Nat := if decide (2 ≤ f.ty.toNat) then 64 else 32

theorem opWidth_of_narrow {f : Head} (h : f.ty.toNat < 2) : opWidth f = 32 := by
  rw [opWidth, decide_eq_false (Nat.not_le.2 h)]; rfl

theorem opWidth_of_wide {f : Head} (h : 2 ≤ f.ty.toNat) : opWidth f = 64 := by
  rw [opWidth, decide_eq_true h]; rfl

theorem opWidth_le (f : Head) : opWidth f ≤ 64 := by
  unfold opWidth; split <;> decide

theorem getLsbD_setWidth_of_lt (a : Addr) {w i : Nat} (hi : i < w) : (a.setWidth w).getLsbD i = a.getLsbD i := by
  rw [BitVec.getLsbD_setWidth, decide_eq_true hi, Bool.true_and]

/-- What a ready instruction of scalar operands answers: its effect, and then the next instruction. -/
theorem exec_of_plainOp {s : State} {i : Instr} {eff : State → State} {len : Nat} (hr : ready s i = true)
    (hx : exec i s = .next (plainOp s i eff)) (hlen : lenOf i = len) : exec i s = .next (advance (eff s) len) := by
  rw [hx, ready_plainOp hr, hlen]

/-! ### SCMP (R109) -/

/-- The condition MIN of SCMP, from what its operands compare as. -/
def condition (k : BitVec 3) (eq lt gt both : Bool) : Bool :=
  if k = 0 then eq else if k = 1 then !eq else if k = 2 then lt else if k = 3 then !gt
  else if k = 4 then gt else if k = 5 then !lt else both

/-- Less-than by signedness. -/
def lessThan {w : Nat} (sg : Bool) (x y : BitVec w) : Bool := if sg then decide (x.toInt < y.toInt) else decide (x.toNat < y.toNat)

theorem intCond_eq {w : Nat} (k : BitVec 3) (sg : Bool) (a b : BitVec w) :
    intCond k.toNat sg a b = condition k (a == b) (lessThan sg a b) (lessThan sg b a) (a &&& b != 0) := by
  have hlt (x y : BitVec w) : (if sg then x.slt y else x.ult y) = lessThan sg x y := by
    rw [BitVec.slt_eq_decide, BitVec.ult_eq_decide, lessThan]
  simp only [← hlt]
  match k with
  | 0 | 1 | 2 | 3 | 4 | 5 | 6 | 7 => rfl

/-- The comparison that SCMP's type asks of its two operands as they are read, zero-extended to 64 bits. -/
def typedLess (f : Head) (x y : Addr) : Bool :=
  if f.ty == 0 then decide ((x.setWidth 32).toInt < (y.setWidth 32).toInt)
  else if f.ty == 2 then decide (x.toInt < y.toInt) else decide (x.toNat < y.toNat)

theorem setWidth_inj {x y : Word} : x.setWidth 64 = y.setWidth 64 ↔ x = y :=
  ⟨fun h => by simpa only [setWidth_setWidth_word] using congrArg (BitVec.setWidth 32) h, congrArg _⟩

theorem typedLess_of_narrow {f : Head} (h : f.ty.toNat < 2) (x y : Word) :
    typedLess f (x.setWidth 64) (y.setWidth 64) = lessThan (f.ty == 0) x y := by
  have hnat (z : Word) : (z.setWidth 64).toNat = z.toNat := BitVec.toNat_setWidth_of_le (by decide)
  simp only [typedLess, lessThan, ty_ne_two_of_narrow h, setWidth_setWidth_word, hnat, Bool.false_eq_true, if_false]

theorem typedLess_of_wide {f : Head} (h : 2 ≤ f.ty.toNat) (x y : Addr) : typedLess f x y = lessThan (f.ty == 2) x y := by
  simp only [typedLess, lessThan, ty_ne_zero_of_wide h, Bool.false_eq_true, if_false]

/-- SCMP's condition on its operands as they are read. -/
def scmpHolds (s : State) (k : BitVec 3) (f : Head) : Bool :=
  let a := wget s f f.a
  let b := wget s f f.b
  condition k (a == b) (typedLess f a b) (typedLess f b a) (a &&& b != 0)

theorem intCond_of_narrow {s : State} {f : Head} (k : BitVec 3) (h : f.ty.toNat < 2) :
    intCond k.toNat (f.ty == 0) (sget s f.a) (sget s f.b) = scmpHolds s k f := by
  have heq : ((sget s f.a).setWidth 64 == (sget s f.b).setWidth 64) = (sget s f.a == sget s f.b) := by
    rw [Bool.eq_iff_iff, beq_iff_eq, beq_iff_eq, setWidth_inj]
  have hboth : ((sget s f.a).setWidth 64 &&& (sget s f.b).setWidth 64 != 0) = (sget s f.a &&& sget s f.b != 0) := by
    rw [← BitVec.setWidth_and, Bool.eq_iff_iff, bne_iff_ne, bne_iff_ne, ne_eq, ne_eq,
      show (0 : Addr) = (0 : Word).setWidth 64 from rfl, setWidth_inj]
  rw [intCond_eq, scmpHolds, wget_of_narrow h, wget_of_narrow h]
  simp only [typedLess_of_narrow h, heq, hboth]

theorem intCond_of_wide {s : State} {f : Head} (k : BitVec 3) (h : 2 ≤ f.ty.toNat) :
    intCond k.toNat (f.ty == 2) (pget s f.a) (pget s f.b) = scmpHolds s k f := by
  rw [intCond_eq, scmpHolds, wget_of_wide h, wget_of_wide h]
  simp only [typedLess_of_wide h]

theorem exec_scmp {s : State} {k : BitVec 3} {f : Head} (hr : ready s (.scmp k f) = true) :
    exec (.scmp k f) s = .next (advance (scalResult s f.d.toNat (if scmpHolds s k f then 1 else 0) 1) 4) := by
  have hcond : (if 2 ≤ f.ty.toNat then intCond k.toNat (f.ty == 0 || f.ty == 2) (wget s f f.a) (wget s f f.b)
      else intCond k.toNat (f.ty == 0 || f.ty == 2) ((wget s f f.a).setWidth 32) ((wget s f f.b).setWidth 32)) = scmpHolds s k f := by
    obtain h | h := Nat.lt_or_ge f.ty.toNat 2
    · rw [if_neg (Nat.not_le.2 h), setWidth_wget_of_narrow h, setWidth_wget_of_narrow h, signed_of_narrow h, intCond_of_narrow k h]
    · rw [if_pos h, wget_of_wide h, wget_of_wide h, signed_of_wide h, intCond_of_wide k h]
  rw [exec_of_plainOp (len := 4) hr rfl rfl]
  simp only [hcond]

/-! ### The counts (R110) -/

theorem exec_of_countOp {s : State} {i : Instr} {f : Head} {op : {w : Nat} → BitVec w → Nat} (hr : ready s i = true)
    (hx : exec i s = .next (countOp s i f op)) (hlen : lenOf i = 4) :
    exec i s = .next (advance (scalResult s f.d.toNat (BitVec.ofNat 32 (op ((wget s f f.a).setWidth (opWidth f)))) 1) 4) := by
  rw [exec_of_plainOp hr hx hlen]
  obtain h | h := Nat.lt_or_ge f.ty.toNat 2
  · rw [opWidth_of_narrow h]; simp only [if_neg (Nat.not_le.2 h)]
  · rw [opWidth_of_wide h]; simp only [if_pos h, BitVec.setWidth_eq]

theorem popCount_setWidth (a : Addr) (w : Nat) : popCount (a.setWidth w) = (List.range w).countP fun i => a.getLsbD i := by
  rw [popCount, ← List.countP_eq_length_filter]
  exact List.countP_congr fun i hi => by rw [getLsbD_setWidth_of_lt a (List.mem_range.1 hi)]

/-- `n` zeros stand above the highest one among the `w` low bits. -/
def LeadingZeros (w : Nat) (a : Addr) (n : Nat) : Prop :=
  n ≤ w ∧ (∀ i, w - n ≤ i → i < w → a.getLsbD i = false) ∧ (n < w → a.getLsbD (w - 1 - n) = true)

/-- `n` zeros stand below the lowest one among the `w` low bits. -/
def TrailingZeros (w : Nat) (a : Addr) (n : Nat) : Prop :=
  n ≤ w ∧ (∀ i, i < n → a.getLsbD i = false) ∧ (n < w → a.getLsbD n = true)

theorem leadingZeros_clz (a : Addr) (w : Nat) : LeadingZeros w a (clz (a.setWidth w)) := by
  have hbit {i : Nat} (hi : i < w) : a.getLsbD i = (a.setWidth w).toNat.testBit i := (getLsbD_setWidth_of_lt a hi).symm
  by_cases h0 : a.setWidth w = 0
  · have hn : clz (a.setWidth w) = w := if_pos h0
    rw [hn]
    refine ⟨le_rfl, fun i _ hi => ?_, fun h => absurd h (lt_irrefl w)⟩
    rw [hbit hi, h0]
    exact Nat.zero_testBit i
  · have hv : (a.setWidth w).toNat ≠ 0 := fun h => h0 (BitVec.eq_of_toNat_eq h)
    have hlog : (a.setWidth w).toNat.log2 < w := (Nat.log2_lt hv).2 (BitVec.isLt _)
    have hn : clz (a.setWidth w) = w - 1 - (a.setWidth w).toNat.log2 := if_neg h0
    rw [hn]
    refine ⟨by omega, fun i hlo hi => ?_, fun _ => ?_⟩
    · rw [hbit hi]
      exact Nat.testBit_lt_two_pow (Nat.lt_log2_self.trans_le (Nat.pow_le_pow_right (by decide) (by omega)))
    · rw [hbit (by omega), show w - 1 - (w - 1 - (a.setWidth w).toNat.log2) = (a.setWidth w).toNat.log2 by omega]
      exact Nat.testBit_log2 hv

theorem trailingZeros_ffs (a : Addr) (w : Nat) : TrailingZeros w a (ffs (a.setWidth w)) := by
  have hbit {i : Nat} (hi : i < w) : a.getLsbD i = (a.setWidth w).getLsbD i := (getLsbD_setWidth_of_lt a hi).symm
  cases hfind : (List.range w).find? fun i => (a.setWidth w).getLsbD i with
  | none =>
    have hn : ffs (a.setWidth w) = w := by rw [ffs, hfind, Option.getD_none]
    rw [hn]
    refine ⟨le_rfl, fun i hi => ?_, fun h => absurd h (lt_irrefl w)⟩
    rw [hbit hi]
    exact Bool.eq_false_iff.2 (List.find?_eq_none.1 hfind i (List.mem_range.2 hi))
  | some n =>
    obtain ⟨hone, hmem, hbelow⟩ := List.find?_range_eq_some.1 hfind
    have hlt : n < w := List.mem_range.1 hmem
    have hn : ffs (a.setWidth w) = n := by rw [ffs, hfind, Option.getD_some]
    rw [hn]
    refine ⟨hlt.le, fun i hi => ?_, fun _ => ?_⟩
    · rw [hbit (hi.trans hlt)]; simpa only [Bool.not_eq_true'] using hbelow i hi
    · rw [hbit hlt]; exact hone

/-! ### SREV (R110) -/

/-- The low w bits of `a` in the opposite order. -/
def reversed (w : Nat) (a : Addr) : Addr := (a.setWidth w).reverse.setWidth 64

theorem reversed_getLsbD {w : Nat} (hw : w ≤ 64) (a : Addr) {i : Nat} (hi : i < w) :
    (reversed w a).getLsbD i = a.getLsbD (w - 1 - i) := by
  rw [reversed, BitVec.getLsbD_setWidth, BitVec.getLsbD_reverse, BitVec.getMsbD_eq_getLsbD,
    getLsbD_setWidth_of_lt a (show w - 1 - i < w by omega), decide_eq_true hi, decide_eq_true (hi.trans_le hw), Bool.true_and, Bool.true_and]

theorem exec_srev {s : State} {f : Head} (hr : ready s (.srev f) = true) :
    exec (.srev f) s
      = .next (advance (wideResult s (decide (2 ≤ f.ty.toNat)) f.d.toNat (reversed (opWidth f) (wget s f f.a)) 1) 4) := by
  rw [exec_of_plainOp (len := 4) hr rfl rfl]
  obtain h | h := Nat.lt_or_ge f.ty.toNat 2
  · have hlow : (reversed 32 (wget s f f.a)).extractLsb' 0 32 = ((wget s f f.a).setWidth 32).reverse := by
      rw [reversed, ← BitVec.setWidth_eq_extractLsb' (by decide), BitVec.setWidth_setWidth_of_le _ (by decide), BitVec.setWidth_eq]
    rw [opWidth_of_narrow h, decide_eq_false (Nat.not_le.2 h)]
    simp only [if_neg (Nat.not_le.2 h), wideResult, hlow, Bool.false_eq_true, if_false]
  · have hall : reversed 64 (wget s f f.a) = (wget s f f.a).reverse := by rw [reversed, BitVec.setWidth_eq, BitVec.setWidth_eq]
    rw [opWidth_of_wide h, decide_eq_true h, hall]
    simp only [if_pos h]

/-! ### Constants (R111, R112, R115) -/

theorem slix_illegal_of_odd {k : BitVec 3} {f : Head} {t : Word} (hk : 1 ≤ k.toNat) (hodd : f.d.getLsbD 0 = true) :
    (Instr.slix k f t).wellFormed = false := by
  have hk0 : (k == 0) = false := beq_false_of_ne fun e => by simp [e] at hk
  change (_ && (k == 0 || !f.d.getLsbD 0)) = false
  rw [hk0, hodd, Bool.not_true, Bool.or_false, Bool.and_false]

/-- Settles O14: SCMP, each count and SREV by the lemma that says what it answers; SLI, each form of SLIX, and SLDK are the shape
`plainOp` with the write that the statement names. -/
theorem scalarComparesAndConstants : Obligations.ScalarComparesAndConstants := by
  unfold Obligations.ScalarComparesAndConstants
  refine ⟨fun f k s => ?_, fun l k f t s => ?_⟩
  · intro wide w a b one lt holds
    have hpopc (hr : ready s (.spopc f) = true) : one (.spopc f) (BitVec.ofNat 32 ((List.range w).countP fun i => a.getLsbD i)) := by
      have hx := exec_of_countOp hr (op := popCount) rfl rfl
      rwa [popCount_setWidth] at hx
    have hclz (hr : ready s (.sclz f) = true) : ∃ n, one (.sclz f) (BitVec.ofNat 32 n) ∧ LeadingZeros w a n :=
      ⟨_, exec_of_countOp hr (op := clz) rfl rfl, leadingZeros_clz a w⟩
    have hffs (hr : ready s (.sffs f) = true) : ∃ n, one (.sffs f) (BitVec.ofNat 32 n) ∧ TrailingZeros w a n :=
      ⟨_, exec_of_countOp hr (op := ffs) rfl rfl, trailingZeros_ffs a w⟩
    exact ⟨exec_scmp, hpopc, hclz, hffs, fun hr => ⟨reversed w a, fun i hi => reversed_getLsbD (opWidth_le f) a hi, exec_srev hr⟩⟩
  · intro pair x word n
    refine ⟨fun hr => exec_of_plainOp hr rfl rfl, fun hr => ?_, fun hk _ hodd => slix_illegal_of_odd hk hodd, fun hr => ?_⟩
    · refine ⟨?_, ?_, ?_, ?_⟩ <;> (rintro rfl; exact exec_of_plainOp hr rfl rfl)
    · have hx := exec_of_plainOp hr rfl rfl
      refine ⟨fun hty => ?_, fun hty => ?_⟩ <;> (rw [hty] at hx; exact hx)

end Sys2Proof.Machine
end

section
/-! PROOFS. The lane integer operations (R38, R136 to R138): the elements of a lane word, what each operation computes on an
element, what the shapes of majors 0x10 to 0x13 and of the 16-bit forms answer, and from that every instruction of them. -/

namespace Sys2Proof.Machine
open Sys2Proof

/-! ### The elements of a lane word (R136, R150) -/

section Elements
variable {w : Nat}

/-- The bits of one element, moved to its place. -/
theorem getLsbD_placed (hw : 0 < w) (x : BitVec w) (n : Nat) {i : Nat} (hi : i < 32) :
    ((x.setWidth 32 : Word) <<< (w * n)).getLsbD i = (decide (i / w = n) && x.getLsbD (i % w)) := by
  have hsplit := Nat.div_add_mod i w
  rw [BitVec.getLsbD_shiftLeft, BitVec.getLsbD_setWidth, decide_eq_true hi, Bool.true_and, decide_eq_true (show i - w * n < 32 by omega),
    Bool.true_and]
  obtain h | h | h := Nat.lt_trichotomy (i / w) n
  · have hbelow : i < w * n := Nat.mul_comm n w ▸ (Nat.div_lt_iff_lt_mul hw).1 h
    simp [hbelow, h.ne]
  · subst h
    simp [show ¬ i < w * (i / w) by omega, show i - w * (i / w) = i % w by omega]
  · have habove : w ≤ i - w * n := by
      have := Nat.mul_le_mul_left w (show n + 1 ≤ i / w from h)
      rw [Nat.mul_succ] at this
      omega
    rw [BitVec.getLsbD_of_ge x _ habove, Bool.and_false, decide_eq_false h.ne', Bool.false_and]

/-- The lane word of the first `n` elements. -/
theorem getLsbD_foldl_elements (hw : 0 < w) (f : Nat → BitVec w) {i : Nat} (hi : i < 32) (n : Nat) :
    ((List.range n).foldl (fun acc e => acc ||| (f e).setWidth 32 <<< (w * e)) (0 : Word)).getLsbD i
      = (decide (i / w < n) && (f (i / w)).getLsbD (i % w)) := by
  induction n with
  | zero => simp
  | succ n ih =>
    rw [List.range_succ, List.foldl_append, List.foldl_cons, List.foldl_nil, BitVec.getLsbD_or, ih, getLsbD_placed hw (f n) n hi]
    obtain h | h | h := Nat.lt_trichotomy (i / w) n
    · simp [h, h.ne, Nat.lt_succ_of_lt h]
    · simp [h]
    · simp [h.ne', Nat.not_lt.2 h.le, Nat.not_lt.2 (Nat.succ_le_of_lt h)]

theorem getLsbD_gather (hw : 0 < w) (f : Nat → BitVec w) {i : Nat} (hi : i < 32) :
    (gather w f).getLsbD i = (decide (i / w < 32 / w) && (f (i / w)).getLsbD (i % w)) :=
  getLsbD_foldl_elements hw f hi _

/-- An element reads as it was gathered. -/
theorem elem_gather (f : Nat → BitVec w) {e : Nat} (he : e < 32 / w) : elem w (gather w f) e = f e := by
  apply BitVec.eq_of_getLsbD_eq
  intro i hi
  have hfit : w * e + i < 32 := by
    calc w * e + i < w * (e + 1) := by rw [Nat.mul_succ]; omega
      _ ≤ w * (32 / w) := Nat.mul_le_mul_left w he
      _ ≤ 32 := Nat.mul_div_le 32 w
  have hdiv : (w * e + i) / w = e := by rw [Nat.mul_add_div (by omega), Nat.div_eq_of_lt hi, Nat.add_zero]
  have hmod : (w * e + i) % w = i := by rw [Nat.mul_add_mod, Nat.mod_eq_of_lt hi]
  rw [elem, BitVec.getLsbD_extractLsb', getLsbD_gather (Nat.zero_lt_of_lt hi) f hfit, hdiv, hmod, decide_eq_true hi,
    decide_eq_true he, Bool.true_and, Bool.true_and]

/-- A lane word depends on the elements that it has room for. -/
theorem gather_congr {f g : Nat → BitVec w} (h : ∀ e, e < 32 / w → f e = g e) : gather w f = gather w g :=
  List.foldl_ext _ _ 0 fun acc e he => by rw [h e (List.mem_range.1 he)]

theorem elem_immElems (r : Reg) {e : Nat} (he : e < 32 / w) : elem w (immElems w r) e = r.signExtend w := elem_gather _ he

/-- A lane word is its one element of 32 bits. -/
theorem onElems_word (sg : Bool) (op : ElemOp) (a b d : Word) : onElems 32 sg op a b d = op sg a b d := by
  have helem (x : Word) : elem 32 x 0 = x := BitVec.extractLsb'_eq_self
  have hone (f : Nat → Word) : gather 32 f = f 0 := by simp [gather]
  rw [onElems, hone, helem, helem, helem]

end Elements

/-! ### What the operations compute on an element (R136, R138) -/

section Operations
variable {w : Nat}

theorem vAbs_eq (sg : Bool) (a b d : BitVec w) : vAbs sg a b d = if sg then BitVec.ofInt w |a.toInt| else a := by
  cases sg with
  | false => rfl
  | true =>
    rw [if_pos rfl, vAbs, Bool.true_and, BitVec.msb_eq_toInt]
    by_cases h : a.toInt < 0
    · rw [if_pos (decide_eq_true h), abs_of_neg h, BitVec.ofInt_neg, BitVec.ofInt_toInt]
    · rw [if_neg (by simpa using h), abs_of_nonneg (not_lt.1 h), BitVec.ofInt_toInt]

theorem vPopc_eq (sg : Bool) (a b d : BitVec w) :
    vPopc sg a b d = BitVec.ofNat w ((List.range w).countP fun i => a.getLsbD i) := by
  rw [vPopc, popCount, List.countP_eq_length_filter]

/-- A shift by w − 1 or more fills the element with its sign. -/
theorem vSra_eq (sg : Bool) (a b d : BitVec w) : vSra sg a b d = a.sshiftRight (Nat.min b.toNat (w - 1)) := by
  obtain h | h := Nat.lt_or_ge b.toNat w
  · rw [vSra, show Nat.min b.toNat (w - 1) = b.toNat from Nat.min_eq_left (by omega)]
  · rw [vSra, show Nat.min b.toNat (w - 1) = w - 1 from Nat.min_eq_right (by omega)]
    apply BitVec.eq_of_getLsbD_eq
    intro i hi
    have hsign : (if w - 1 + i < w then a.getLsbD (w - 1 + i) else a.msb) = a.msb := by
      split
      · rw [show i = 0 by omega, Nat.add_zero, BitVec.msb_eq_getLsbD_last]
      · rfl
    rw [BitVec.getLsbD_sshiftRight, BitVec.getLsbD_sshiftRight, hsign, if_neg (by omega)]

end Operations

/-! ### The shapes of lane instructions (R38, R136, R138) -/

section Shape
variable {s : State} {i : Instr} {f : Head} {n lat : Nat} {sg : Bool} {op : ElemOp} {fa fb : Nat → Word} {bad : Lanes}

/-- What a ready lane instruction answers whose sources are given: its effect, and then what follows the effect. -/
theorem exec_of_laneOp {a b : Option Reg} {eff : State → Lanes → (Nat → Word) → (Nat → Word) → State} (hr : ready s i = true)
    (hs : sources s a b = .go fa fb bad) (hx : exec i s = .next (laneOp s i a b eff)) :
    exec i s = .next (laneDone s (eff s (acting s bad) fa fb) i bad) := by
  rw [hx, ready_laneOp hr hs, laneDone]

/-- The lane words that an operation makes of the elements of vA, vB and the old vD. -/
def elementwise (s : State) (d : Reg) (op : BitVec n → BitVec n → BitVec n → BitVec n) (fa fb : Nat → Word) (i : Nat) : Word :=
  gather n fun e => op (elem n (fa i) e) (elem n (fb i) e) (elem n (readV (me s) d.toNat i) e)

/-- The same with one value in every element in the place of vB. -/
def elementwiseWith (s : State) (d : Reg) (op : BitVec n → BitVec n → BitVec n → BitVec n) (fa : Nat → Word) (y : BitVec n)
    (i : Nat) : Word :=
  gather n fun e => op (elem n (fa i) e) y (elem n (readV (me s) d.toNat i) e)

theorem exec_of_elemOp {op' : BitVec n → BitVec n → BitVec n → BitVec n} (hr : ready s i = true)
    (hs : sources s (some f.a) (some f.b) = .go fa fb bad) (hx : exec i s = .next (elemOp s i f false n sg lat op))
    (hop : ∀ x y d : BitVec n, op sg x y d = op' x y d) :
    exec i s = .next (laneDone s (laneResult s f.d (acting s bad) (elementwise s f.d op' fa fb) lat) i bad) := by
  have hv : elementwise s f.d op' fa fb = fun j => onElems n sg op (fa j) (fb j) (readV (me s) f.d.toNat j) :=
    funext fun j => gather_congr fun e _ => (hop _ _ _).symm
  rw [elemOp] at hx
  rw [hv, exec_of_laneOp hr hs hx]
  rfl

theorem exec_of_elemOp_immediate {op' : BitVec n → BitVec n → BitVec n → BitVec n} (hr : ready s i = true)
    (hs : sources s (some f.a) none = .go fa fb bad) (hx : exec i s = .next (elemOp s i f true n sg lat op))
    (hop : ∀ x y d : BitVec n, op sg x y d = op' x y d) :
    exec i s = .next (laneDone s (laneResult s f.d (acting s bad) (elementwiseWith s f.d op' fa (f.b.signExtend n)) lat) i bad) := by
  have hv : elementwiseWith s f.d op' fa (f.b.signExtend n)
      = fun j => onElems n sg op (fa j) (immElems n f.b) (readV (me s) f.d.toNat j) :=
    funext fun j => gather_congr fun e he => by rw [elem_immElems f.b he]; exact (hop _ _ _).symm
  rw [elemOp] at hx
  rw [hv, exec_of_laneOp hr hs hx]
  rfl

theorem exec_of_unaryOp {op' : BitVec n → BitVec n} (hr : ready s i = true) (hs : sources s (some f.a) none = .go fa fb bad)
    (hx : exec i s = .next (unaryOp s i f n sg op)) (hop : ∀ x y d : BitVec n, op sg x y d = op' x) :
    exec i s = .next (laneDone s (laneResult s f.d (acting s bad) (elementwise s f.d (fun x _ _ => op' x) fa fb) 3) i bad) := by
  have hv : elementwise s f.d (fun x _ _ => op' x) fa fb = fun j => onElems n sg op (fa j) 0 0 :=
    funext fun j => gather_congr fun e _ => (hop _ _ _).symm
  rw [unaryOp] at hx
  rw [hv, exec_of_laneOp hr hs hx]

theorem exec_of_shortOp {f : Short} {op' : Word → Word → Word} (hr : ready s i = true)
    (hs : sources s (some f.d) (some (f.b.setWidth 6)) = .go fa fb bad) (hx : exec i s = .next (shortOp s i f lat op')) :
    exec i s = .next (laneDone s (laneResult s f.d (acting s bad) (fun j => op' (fa j) (fb j)) lat) i bad) := by
  rw [shortOp] at hx
  exact (exec_of_laneOp hr hs hx :)

theorem exec_of_shortInt {f : Short} {op' : Word → Word → Word} (hr : ready s i = true)
    (hs : sources s (some f.d) (some (f.b.setWidth 6)) = .go fa fb bad) (hx : exec i s = .next (shortInt s i f sg lat op))
    (hop : ∀ x y : Word, op sg x y 0 = op' x y) :
    exec i s = .next (laneDone s (laneResult s f.d (acting s bad) (fun j => op' (fa j) (fb j)) lat) i bad) := by
  have hv : (fun x y => onElems 32 sg op x y 0) = op' := funext fun x => funext fun y => by rw [onElems_word, hop]
  rw [shortInt, hv] at hx
  exact exec_of_shortOp hr hs hx

end Shape

/-! ### What is no instruction (R43, R137, R138) -/

/-- A shift immediate lies below the width of the element. -/
theorem shift_illegal_of_wide {f : Head} (h : bitWidth f.ty.toNat ≤ f.b.toNat) :
    (f.ty != 3 && decide (f.b.toNat < 32 >>> f.ty.toNat)) = false := by
  have hwidth : ∀ ty : BitVec 2, ty ≠ 3 → bitWidth ty.toNat = 32 >>> ty.toNat := by decide
  by_cases hty : f.ty = 3
  · rw [hty]; rfl
  · rw [decide_eq_false (Nat.not_lt.2 (hwidth f.ty hty ▸ h)), Bool.and_false]

/-- The low half of a word is its first halfword (R2). -/
theorem getLsbD_wordOf (h h2 : BitVec 16) {i : Nat} (hi : i < 16) : (wordOf h h2).getLsbD i = h.getLsbD i :=
  BitVec.getLsbD_append.trans (if_pos hi)

/-- The first halfword holds MIN and MAJ, in that order (R39). -/
theorem majorOf_wordOf (h h2 : BitVec 16) : majorOf (wordOf h h2) = (h.extractLsb' 3 9).extractLsb' 0 6 := by
  apply BitVec.eq_of_getLsbD_eq
  intro i hi
  simp only [majorOf, BitVec.getLsbD_extractLsb', getLsbD_wordOf h h2 (show 3 + i < 16 by omega), Nat.zero_add,
    decide_eq_true (show i < 9 by omega), Bool.true_and]

theorem minorOf_wordOf (h h2 : BitVec 16) : minorOf (wordOf h h2) = (h.extractLsb' 3 9).extractLsb' 6 3 := by
  apply BitVec.eq_of_getLsbD_eq
  intro i hi
  simp only [minorOf, BitVec.getLsbD_extractLsb', getLsbD_wordOf h h2 (show 9 + i < 16 by omega), show 3 + (6 + i) = 9 + i by omega,
    decide_eq_true (show 6 + i < 9 by omega), Bool.true_and]

theorem decode_long {h : BitVec 16} (h2 : BitVec 16) (rest : List (BitVec 16)) (hlong : h.getLsbD 0 = true)
    (htails : tailsOf (majorOf (wordOf h h2)) = 0) : decode (h :: h2 :: rest) = judge (ofHead (wordOf h h2) 0 0) 2 := by
  simp only [decode, hlong, if_true, decodeLong, htails]

/-- Minor 6 of major 0x12, and minors 6 and 7 of major 0x13. -/
theorem ofHead_unassigned {w : Word} (t u : Word)
    (h : (majorOf w = 0x12 ∧ minorOf w = 6) ∨ (majorOf w = 0x13 ∧ (minorOf w = 6 ∨ minorOf w = 7))) : ofHead w t u = none := by
  obtain ⟨hmaj, hmin⟩ | ⟨hmaj, hmin | hmin⟩ := h
  · simp [ofHead, hmaj, major12, hmin]
  · simp [ofHead, hmaj, major13, hmin]
  · simp [ofHead, hmaj, major13, hmin]

theorem decode_unassigned {h : BitVec 16} (h2 : BitVec 16) (rest : List (BitVec 16)) (hlong : h.getLsbD 0 = true)
    (hfield : h.extractLsb' 3 9 ∈ [0x193#9, 0x1D3#9, 0x192#9]) : decode (h :: h2 :: rest) = .illegal := by
  have hcases : (majorOf (wordOf h h2) = 0x12 ∧ minorOf (wordOf h h2) = 6)
      ∨ (majorOf (wordOf h h2) = 0x13 ∧ (minorOf (wordOf h h2) = 6 ∨ minorOf (wordOf h h2) = 7)) := by
    rw [majorOf_wordOf, minorOf_wordOf]
    generalize h.extractLsb' 3 9 = field at hfield
    simp only [List.mem_cons, List.not_mem_nil, or_false] at hfield
    obtain rfl | rfl | rfl := hfield <;> decide
  have htails : tailsOf (majorOf (wordOf h h2)) = 0 := by
    obtain ⟨hmaj, -⟩ | ⟨hmaj, -⟩ := hcases <;> (rw [hmaj]; rfl)
  rw [decode_long h2 rest hlong htails, ofHead_unassigned 0 0 hcases, judge]

/-- Settles O16: each instruction is its shape with its own operation, whose value on an element is said above. -/
theorem laneIntegers : Obligations.LaneIntegers := by
  unfold Obligations.LaneIntegers
  refine ⟨fun f s fa fb bad => ?_, fun f s fa fb bad => ?_, fun f s fa fb bad => ?_⟩
  · intro w u sg lanes two one
    have pairs {i : Instr} {n lat : Nat} {sg : Bool} {op' : BitVec n → BitVec n → BitVec n → BitVec n} (op : ElemOp)
        (hx : exec i s = .next (elemOp s i f false n sg lat op)) (hop : ∀ x y d : BitVec n, op sg x y d = op' x y d) :
        two i n lat op' := fun hr hs => exec_of_elemOp hr hs hx hop
    have unary {i : Instr} {n : Nat} {sg : Bool} {op' : BitVec n → BitVec n} (op : ElemOp)
        (hx : exec i s = .next (unaryOp s i f n sg op)) (hop : ∀ x y d : BitVec n, op sg x y d = op' x) :
        one i n op' := fun hr hs => exec_of_unaryOp hr hs hx hop
    -- The operation of a clause is then read off the clause itself, not off what the clause says.
    clear_value two one
    exact ⟨pairs sAdd rfl fun _ _ _ => rfl, pairs sSub rfl fun _ _ _ => rfl, pairs sMul rfl fun _ _ _ => rfl,
      pairs sMulh rfl fun _ _ _ => rfl, pairs sMin rfl (sMin_eq sg), pairs sMax rfl (sMax_eq sg), unary vAbs rfl (vAbs_eq sg),
      pairs vMad rfl fun _ _ _ => rfl, pairs sAnd rfl fun _ _ _ => rfl, pairs sOr rfl fun _ _ _ => rfl,
      pairs sXor rfl fun _ _ _ => rfl, pairs vShl rfl fun _ _ _ => rfl, pairs vShr rfl fun _ _ _ => rfl,
      pairs vSra rfl (vSra_eq false), unary vPopc rfl (vPopc_eq false), unary vClz rfl fun _ _ _ => rfl⟩
  · intro w u sg imm
    have immediates {i : Instr} {n lat : Nat} {sg : Bool} {op' : BitVec n → BitVec n → BitVec n → BitVec n} (op : ElemOp)
        (hx : exec i s = .next (elemOp s i f true n sg lat op)) (hop : ∀ x y d : BitVec n, op sg x y d = op' x y d) :
        imm i n lat op' := fun hr hs => exec_of_elemOp_immediate hr hs hx hop
    clear_value imm
    refine ⟨immediates sAdd rfl fun _ _ _ => rfl, immediates sSub rfl fun _ _ _ => rfl, immediates sMul rfl fun _ _ _ => rfl,
      immediates sMulh rfl fun _ _ _ => rfl, immediates sMin rfl (sMin_eq sg), immediates sMax rfl (sMax_eq sg),
      immediates vMad rfl fun _ _ _ => rfl, immediates sAnd rfl fun _ _ _ => rfl, immediates sOr rfl fun _ _ _ => rfl,
      immediates sXor rfl fun _ _ _ => rfl, immediates vShl rfl fun _ _ _ => rfl, immediates vShr rfl fun _ _ _ => rfl,
      immediates vSra rfl (vSra_eq false), fun hwide => ?_,
      fun h h2 rest hlong hfield => decode_unassigned h2 rest hlong hfield⟩
    have hshift := shift_illegal_of_wide (f := f) hwide
    simp only [List.forall_mem_cons]
    exact ⟨hshift, hshift, hshift, List.forall_mem_nil _⟩
  · intro b two flo
    have ints {i : Instr} {lat : Nat} {sg : Bool} {op' : Word → Word → Word} (op : ElemOp) (hlen : lenOf i = 2)
        (hx : exec i s = .next (shortInt s i f sg lat op)) (hop : ∀ x y : Word, op sg x y 0 = op' x y) : two i lat op' :=
      fun hr hs => ⟨hlen, exec_of_shortInt hr hs hx hop⟩
    have floats {i : Instr} {lat : Nat} {op : Word → Word → Word} (hlen : lenOf i = 2)
        (hx : exec i s = .next (shortOp s i f lat op)) : two i lat op := fun hr hs => ⟨hlen, exec_of_shortOp hr hs hx⟩
    clear_value two
    exact ⟨fun hr hs => (exec_of_laneOp hr hs rfl :), ints sAdd rfl rfl fun _ _ => rfl, ints sSub rfl rfl fun _ _ => rfl,
      ints sMul rfl rfl fun _ _ => rfl, ints sMin rfl rfl fun _ _ => rfl, ints sMax rfl rfl fun _ _ => rfl,
      ints sAnd rfl rfl fun _ _ => rfl, ints sOr rfl rfl fun _ _ => rfl, ints sXor rfl rfl fun _ _ => rfl,
      ints vShl rfl rfl fun _ _ => rfl, ints vShr rfl rfl fun _ _ => rfl, floats rfl rfl, floats rfl rfl, floats rfl rfl,
      floats rfl rfl, floats rfl rfl⟩

end Sys2Proof.Machine
end

section
/-! PROOFS. Lane constants and moves, cross-lane moves, reductions and scans (R130, R139 to R144): what the sources of an
instruction are where they are given, which lane a cross-lane move takes, and the scan as a fold over the lanes before. -/

namespace Sys2Proof.Machine
open Sys2Proof

/-! ### Sources that are given (R127, R131) -/

theorem source_of_register {s : State} {r : Reg} (hr : r.toNat < 60) (nth n : Nat) (lanes : Lanes)
    (k : (Nat → Word) → Lanes → Sources) : source s r nth n lanes k = k (readV (me s) r.toNat) 0 := if_pos hr

theorem peekQ_eq_go {s : State} {q nth n : Nat} {lanes : Lanes} {k : QEntry → Sources} {fa fb : Nat → Word} {bad : Lanes}
    (h : peekQ s q nth n lanes k = .go fa fb bad) : ∃ e, k e = .go fa fb bad := by
  simp only [peekQ] at h
  split at h
  · split_ifs at h
  · split at h
    · cases h
    · split at h
      · cases h
      · exact ⟨_, h⟩

/-- A source that is given gives some lane values and poisoned lanes. -/
theorem source_eq_go {s : State} {r : Reg} {nth n : Nat} {lanes : Lanes} {k : (Nat → Word) → Lanes → Sources}
    {fa fb : Nat → Word} {bad : Lanes} (h : source s r nth n lanes k = .go fa fb bad) : ∃ x l, k x l = .go fa fb bad := by
  by_cases hr : r.toNat < 60
  · exact ⟨_, _, source_of_register hr nth n lanes k ▸ h⟩
  · rw [source, if_neg hr] at h
    obtain ⟨e, he⟩ := peekQ_eq_go h
    exact ⟨_, _, he⟩

/-- The first source of an instruction is the register it names, where it names one. -/
theorem sources_first_register {s : State} {a : Reg} {b : Option Reg} {fa fb : Nat → Word} {bad : Lanes} (ha : a.toNat < 60)
    (hs : sources s (some a) b = .go fa fb bad) : fa = readV (me s) a.toNat := by
  by_cases hact : active (me s) s.who.2 = 0
  · simp only [sources, hact, if_true, ha] at hs
    cases hs
    rfl
  · cases b with
    | none =>
      simp only [sources, hact, if_false, source_of_register ha] at hs
      cases hs
      rfl
    | some b =>
      simp only [sources, hact, if_false, source_of_register ha] at hs
      obtain ⟨x, l, hgo⟩ := source_eq_go hs
      cases hgo
      rfl

/-! ### Cross-lane moves (R130, R140, R141) -/

section Cross
variable {s : State} {f : Head} {fa fb : Nat → Word} {bad : Lanes}

/-- Lane `j` of a source whose lanes are `a`: zero from a dead lane and from 96 up (R130). -/
def crossSource (s : State) (a : Nat → Word) (j : Nat) : Word := if 96 ≤ j ∨ (me s).dead.getLsbD j then (0 : Word) else a j

/-- A rule says what a cross-lane move takes from lane `j` of `r`: always of a register, and of a queue entry where the lane is
beyond 95, dead or in Active(g) (R328, log 4). -/
def laneDefined (s : State) (r : Reg) (j : Nat) : Prop :=
  r.toNat < 60 ∨ 96 ≤ j ∨ (me s).dead.getLsbD j = true ∨ (active (me s) s.who.2).getLsbD j = true

theorem srcLane_eq {r : Reg} {a : Nat → Word} (ha : r.toNat < 60 → a = readV (me s) r.toNat) (j : Nat) :
    srcLane s r a j = crossSource s a j := by
  by_cases hr : r.toNat < 60
  · rw [srcLane, if_pos hr, crossV_eq, crossSource, ha hr]
  · simp only [srcLane, if_neg hr, crossSource, Bool.or_eq_true, decide_eq_true_eq]

theorem movedLane_eq {r : Reg} {a : Nat → Word} {j : Nat} (ha : r.toNat < 60 → a = readV (me s) r.toNat) (hj : laneDefined s r j)
    (i : Nat) : movedLane s r a i j = crossSource s a j := by
  have hnot : ¬ (60 ≤ r.toNat ∧ j < 96 ∧ !(active (me s) s.who.2).getLsbD j ∧ !(me s).dead.getLsbD j) := by
    rintro ⟨hq, hlt, hact, hdead⟩
    obtain h | h | h | h := hj
    · omega
    · omega
    · simp [h] at hdead
    · simp [h] at hact
  rw [movedLane, if_neg hnot, srcLane_eq ha]

/-- The state with the free values taken that a move from a queue entry may need. -/
def withFree (s : State) (r : Reg) : State := { s with fresh := s.fresh + if 60 ≤ r.toNat then 96 else 0 }

/-- A cross-lane move: in lane `j`, the lane `sel s fb j` of vA. -/
theorem exec_of_crossOp {i : Instr} {b : Option Reg} {sel : State → (Nat → Word) → Nat → Nat} (hr : ready s i = true)
    (hs : sources s (some f.a) b = .go fa fb bad) (hx : exec i s = .next (crossOp s i f b sel)) :
    ∃ v : Nat → Word, exec i s = .next (laneDone s (laneResult (withFree s f.a) f.d (acting s bad) v 9) i bad)
      ∧ ∀ j, laneDefined s f.a (sel s fb j) → v j = crossSource s fa (sel s fb j) := by
  rw [crossOp] at hx
  exact ⟨_, (exec_of_laneOp hr hs hx :), fun j hj => movedLane_eq (fun ha => sources_first_register ha hs) hj j⟩

/-! ### VLANE to a scalar (R140) -/

theorem exec_vlaneS_of_register (hr : ready s (.vlaneS f) = true) (ha : f.a.toNat < 60) :
    exec (.vlaneS f) s = .next (advance (flyS s s.who.2 f.d.toNat (crossV (me s) f.a.toNat ((sget s f.b).toNat % 128)) 9) 4) := by
  change Host.Outcome.next (guarded s (.vlaneS f) _) = _
  rw [ready_guard hr]
  simp [ha]

theorem exec_vlaneS_of_noLane (hr : ready s (.vlaneS f) = true) (ha : 60 ≤ f.a.toNat) (hact : active (me s) s.who.2 = 0) :
    exec (.vlaneS f) s = .next (advance (flyS s s.who.2 f.d.toNat 0 9) 4) := by
  change Host.Outcome.next (guarded s (.vlaneS f) _) = _
  rw [ready_guard hr]
  simp [hact, Nat.not_lt.2 ha]

theorem exec_vlaneS_of_queue (hr : ready s (.vlaneS f) = true) (ha : 60 ≤ f.a.toNat) (hact : active (me s) s.who.2 ≠ 0)
    (hs : source s f.a 0 0 (active (me s) s.who.2 ||| laneBit ((sget s f.b).toNat % 128)) (fun a b => .go a (fun _ => 0) b)
      = .go fa fb bad) :
    exec (.vlaneS f) s = .next (takePops (advance (flyS s s.who.2 f.d.toNat (crossSource s fa ((sget s f.b).toNat % 128)) 9) 4)
      (usesOf (.vlaneS f)) (active (me s) s.who.2) (bad &&& active (me s) s.who.2)) := by
  change Host.Outcome.next (guarded s (.vlaneS f) _) = _
  have hqueue : (decide (f.a.toNat < 60) || active (me s) s.who.2 == 0) = false := by
    rw [decide_eq_false (Nat.not_lt.2 ha), Bool.false_or, beq_false_of_ne hact]
  rw [ready_guard hr, ← srcLane_eq (r := f.a) fun h => absurd h (Nat.not_lt.2 ha)]
  simp only [hqueue, hs, Bool.false_eq_true, if_false]

end Cross

/-! ### VLIX (R139) -/

theorem gather_halves (y : BitVec 16) : gather 16 (fun _ => y) = y ++ y := by
  apply BitVec.eq_of_getLsbD_eq
  intro i hi
  rw [getLsbD_gather (by decide) _ hi, decide_eq_true (show i / 16 < 32 / 16 by omega), Bool.true_and, BitVec.getLsbD_append]
  split
  · rw [Nat.mod_eq_of_lt ‹_›]
  · rw [show i % 16 = i - 16 by omega]

theorem gather_bytes (y : BitVec 8) : gather 8 (fun _ => y) = y ++ y ++ y ++ y := by
  apply BitVec.eq_of_getLsbD_eq
  intro i hi
  rw [getLsbD_gather (by decide) _ hi, decide_eq_true (show i / 8 < 32 / 8 by omega), Bool.true_and]
  simp only [BitVec.getLsbD_append]
  split
  · rw [Nat.mod_eq_of_lt ‹_›]
  · split
    · rw [show i % 8 = i - 8 by omega]
    · split
      · rw [show i % 8 = i - 8 - 8 by omega]
      · rw [show i % 8 = i - 8 - 8 - 8 by omega]

/-- What VLIX writes: the tail, or its low half or byte in every element. -/
theorem vlixValue_eq (k : BitVec 3) (x : Word) :
    vlixValue k x = if k = 0 then x else if k = 1 then x.extractLsb' 0 16 ++ x.extractLsb' 0 16
      else x.extractLsb' 0 8 ++ x.extractLsb' 0 8 ++ x.extractLsb' 0 8 ++ x.extractLsb' 0 8 := by
  match k with
  | 0 => rfl
  | 1 => exact gather_halves _
  | 2 | 3 | 4 | 5 | 6 | 7 => exact gather_bytes _

/-! ### Reductions and scans (R142 to R144) -/

/-- The values of a list of lanes combined in order. -/
def reduced (op : Nat) (a : Nat → Word) : List Nat → Word
  | [] => identityOf op
  | j :: js => js.foldl (fun acc j => combine op acc (a j)) (a j)

theorem combineAll_map (op : Nat) (a : Nat → Word) (ls : List Nat) : combineAll op (ls.map a) = reduced op a ls := by
  cases ls with
  | nil => rfl
  | cons j js => exact List.foldl_map

/-- VRED: the acting lanes combined in order, to a scalar or to each of them. -/
theorem exec_vred {s : State} {f : Head} {fa fb : Nat → Word} {bad : Lanes} (hr : ready s (.vred f) = true)
    (hs : sources s (some f.a) none = .go fa fb bad) :
    exec (.vred f) s = .next (laneDone s
      (if f.ty = 0 then flyS s s.who.2 f.d.toNat (reduced f.b.toNat fa (lanesOf (acting s bad))) 9
        else laneResult s f.d (acting s bad) (fun _ => reduced f.b.toNat fa (lanesOf (acting s bad))) 9) (.vred f) bad) := by
  rw [exec_of_laneOp hr hs rfl]
  simp only [combineAll_map, beq_iff_eq]

/-- The values of a list of lanes combined in order, or nothing where there is none. -/
def runOf (op : Nat) (a : Nat → Word) : List Nat → Option Word
  | [] => none
  | j :: js => some (js.foldl (fun acc j => combine op acc (a j)) (a j))

/-- A run with one more lane behind it. -/
def runStep (op : Nat) (a : Nat → Word) (acc : Option Word) (j : Nat) : Word :=
  match acc with
  | none => a j
  | some w => combine op w (a j)

theorem foldl_runStep (op : Nat) (a : Nat → Word) (js : List Nat) (w : Word) :
    js.foldl (fun acc j => some (runStep op a acc j)) (some w) = some (js.foldl (fun acc j => combine op acc (a j)) w) := by
  induction js generalizing w with
  | nil => rfl
  | cons j js ih => exact ih _

theorem runOf_eq_foldl (op : Nat) (a : Nat → Word) (ls : List Nat) :
    runOf op a ls = ls.foldl (fun acc j => some (runStep op a acc j)) none := by
  cases ls with
  | nil => rfl
  | cons j js => exact (foldl_runStep op a js (a j)).symm

/-- What a scan gives lane `i` behind the run `acc`. -/
def scanOut (op : Nat) (ex : Bool) (a : Nat → Word) (acc : Option Word) (i : Nat) : Word :=
  if ex then acc.getD (identityOf op) else runStep op a acc i

theorem scanOut_eq (op : Nat) (ty : BitVec 2) (a : Nat → Word) (acc : Option Word) (i : Nat) :
    scanOut op (ty != 0) a acc i = if ty = 0 then runStep op a acc i else acc.getD (identityOf op) := by
  by_cases h : ty = 0 <;> simp [scanOut, h]

theorem scanFrom_cons (op : Nat) (ex : Bool) (a : Nat → Word) (acc : Option Word) (j : Nat) (js : List Nat) :
    scanFrom op ex a acc (j :: js) = (j, scanOut op ex a acc j) :: scanFrom op ex a (some (runStep op a acc j)) js := by
  cases acc <;> rfl

theorem lanesOf_ascending (l : Lanes) : (lanesOf l).Pairwise (· < ·) := List.pairwise_lt_range.filter _

/-- A lane of an ascending list gets what the scan gives behind the run of the lanes below it. -/
theorem mapGetD_scanFrom (op : Nat) (ex : Bool) (a : Nat → Word) {ls : List Nat} (hls : ls.Pairwise (· < ·)) (acc : Option Word)
    {i : Nat} (hi : i ∈ ls) :
    mapGetD (scanFrom op ex a acc ls) i 0
      = scanOut op ex a ((ls.takeWhile fun j => decide (j < i)).foldl (fun acc j => some (runStep op a acc j)) acc) i := by
  induction ls generalizing acc with
  | nil => cases hi
  | cons j js ih =>
    obtain ⟨hj, hjs⟩ := List.pairwise_cons.1 hls
    rw [scanFrom_cons]
    obtain rfl | hmem := List.mem_cons.1 hi
    · simp [mapGetD, mapGet]
    · have hlt : j < i := hj i hmem
      rw [List.takeWhile_cons_of_pos (p := fun j => decide (j < i)) (decide_eq_true hlt), List.foldl_cons, ← ih hjs _ hmem]
      simp only [mapGetD, mapGet, if_neg hlt.ne]

/-- VSCAN: each acting lane gets what the scan gives behind the run of the acting lanes below it. -/
theorem exec_vscan {s : State} {f : Head} {fa fb : Nat → Word} {bad : Lanes} (hr : ready s (.vscan f) = true)
    (hs : sources s (some f.a) none = .go fa fb bad) :
    ∃ v : Nat → Word, exec (.vscan f) s = .next (laneDone s (laneResult s f.d (acting s bad) v 9) (.vscan f) bad)
      ∧ ∀ i ∈ lanesOf (acting s bad),
        v i = scanOut f.b.toNat (f.ty != 0) fa (runOf f.b.toNat fa ((lanesOf (acting s bad)).takeWhile fun j => decide (j < i))) i := by
  refine ⟨_, (exec_of_laneOp hr hs rfl :), fun i hi => ?_⟩
  rw [mapGetD_scanFrom _ _ _ (lanesOf_ascending _) none hi, runOf_eq_foldl]

/-- Settles O21: each instruction is its shape with the effect that the statement names; a cross-lane move takes the lanes that R130
says, and a scan is the run of the lanes below. -/
theorem laneMovesAndReductions : Obligations.LaneMovesAndReductions := by
  unfold Obligations.LaneMovesAndReductions
  refine ⟨fun l k f x s fa fb bad => ?_, fun f s fa fb bad => ?_⟩
  · intro put n src
    refine ⟨fun hr => ?_, fun hr => ?_, fun hr hs => ?_, fun hr hs => ?_, fun hr => ?_, fun hr => ?_, fun hr hs => ?_, ?_, ?_, ?_⟩
    · exact (exec_of_laneOp hr (sources_none s) rfl :)
    · rw [← vlixValue_eq]
      exact (exec_of_laneOp hr (sources_none s) rfl :)
    · exact (exec_of_laneOp hr hs rfl :)
    · exact (exec_of_laneOp hr hs rfl :)
    · exact (exec_of_laneOp hr (sources_none s) rfl :)
    · exact (exec_of_laneOp hr (sources_none s) rfl :)
    · obtain ⟨v, hx, hv⟩ := exec_of_crossOp hr hs rfl
      exact ⟨v, hx, fun hdef i => hv i hdef⟩
    · exact exec_vlaneS_of_register
    · exact exec_vlaneS_of_noLane
    · exact exec_vlaneS_of_queue
  · intro src n ls op red upTo cross moved
    have hred : reduced f.b.toNat fa (lanesOf (acting s bad)) = red := by
      simp only [red, ls]
      cases lanesOf (acting s bad) <;> rfl
    refine ⟨fun hr hs => exec_of_crossOp hr hs rfl, fun hr hs => ?_, fun hr hs => exec_of_crossOp hr hs rfl,
      fun hty hr hs => ?_, fun hty hr hs => ?_, fun hr hs => ?_⟩
    · obtain ⟨v, hx, hv⟩ := exec_of_crossOp hr hs rfl
      simp only [beq_iff_eq] at hv
      exact ⟨v, hx, hv⟩
    · rw [exec_vred hr hs, if_neg hty, hred]
    · rw [exec_vred hr hs, if_pos hty, hred]
    · obtain ⟨v, hx, hv⟩ := exec_vscan hr hs
      refine ⟨v, hx, fun i hi => ?_⟩
      have hvi : v i = scanOut f.b.toNat (f.ty != 0) fa (runOf f.b.toNat fa (upTo i)) i := hv i hi
      rw [hvi, scanOut_eq]
      cases upTo i <;> rfl

end Sys2Proof.Machine
end

section
/-! PROOFS. The accumulator rows (R356, R359, R360, R365, R366, R369): the elements and poison marks as keys of the team's store, what
a window and an owner say, what an instruction that may trap or wait answers, and from that ACCZ, ACCRD, ACCWR and AWSET. -/

namespace Sys2Proof.Machine
open Sys2Proof

/-! ### Maps and lists of numbers -/

theorem mapGet_filter {β : Type} (p : Nat → Bool) (m : AMap β) (k : Nat) :
    mapGet (m.filter fun e => p e.1) k = if p k then mapGet m k else none := by
  induction m with
  | nil => simp
  | cons e m ih =>
    obtain ⟨a, v⟩ := e
    rw [List.filter_cons]
    by_cases hak : a = k
    · subst hak
      by_cases hp : p a <;> simp [mapGet, hp, ih]
    · by_cases hp : p a <;> simp [mapGet, hp, hak, ih]

theorem mapGet_append {β : Type} (m m' : AMap β) (k : Nat) : mapGet (m ++ m') k = (mapGet m k).or (mapGet m' k) := by
  induction m with
  | nil => simp
  | cons e m ih =>
    obtain ⟨a, v⟩ := e
    by_cases hak : a = k <;> simp [mapGet, hak, ih]

theorem has_iff_mem (xs : List Nat) (n : Nat) : has xs n = true ↔ n ∈ xs := by simp [has]

theorem mem_without (xs : List Nat) (n k : Nat) : k ∈ without xs n ↔ k ∈ xs ∧ k ≠ n := by simp [without]

section Writes
variable {w : Nat} (key : Nat → Nat) (v : Nat → BitVec w)

/-- Writes at a list of places, each at its own key, leave every other key alone. -/
theorem cellGet_foldl_cellSet_other {is : List Nat} {k : Nat} (h : ∀ i ∈ is, key i ≠ k) (m : Cells w) :
    cellGet (is.foldl (fun m i => cellSet m (key i) (v i)) m) k = cellGet m k := by
  induction is generalizing m with
  | nil => rfl
  | cons j js ih =>
    obtain ⟨hj, hjs⟩ := List.forall_mem_cons.1 h
    rw [List.foldl_cons, ih hjs, cellGet_cellSet_other m (v j) (Ne.symm hj)]

theorem cellGet_foldl_cellSet_mem {is : List Nat} {i : Nat} (hi : i ∈ is) (hinj : ∀ j ∈ is, key j = key i → j = i) (m : Cells w) :
    cellGet (is.foldl (fun m i => cellSet m (key i) (v i)) m) (key i) = v i := by
  induction is generalizing m with
  | nil => cases hi
  | cons j js ih =>
    obtain ⟨hj, hjs⟩ := List.forall_mem_cons.1 hinj
    rw [List.foldl_cons]
    by_cases hmem : i ∈ js
    · exact ih hmem hjs _
    · obtain rfl : i = j := (List.mem_cons.1 hi).resolve_right hmem
      rw [cellGet_foldl_cellSet_other key v fun k hk hkey => hmem (hjs k hk hkey ▸ hk), cellGet_cellSet_same]

end Writes

/-! ### Lane sets -/

theorem getLsbD_foldl_or (ls : List Lanes) (l : Lanes) (i : Nat) :
    (ls.foldl (· ||| ·) l).getLsbD i = (l.getLsbD i || ls.any fun x => x.getLsbD i) := by
  induction ls generalizing l with
  | nil => simp
  | cons x xs ih => rw [List.foldl_cons, ih, BitVec.getLsbD_or, List.any_cons, Bool.or_assoc]

theorem getLsbD_unionOf (ls : List Lanes) (i : Nat) : (unionOf ls).getLsbD i = ls.any fun x => x.getLsbD i := by
  simp [unionOf, getLsbD_foldl_or]

theorem getLsbD_laneBit {i : Nat} (hi : i < 96) (j : Nat) : (laneBit j).getLsbD i = decide (i = j) := by
  rw [laneBit, BitVec.getLsbD_shiftLeft, BitVec.getLsbD_one, Bool.eq_iff_iff]
  simp only [Bool.and_eq_true, Bool.not_eq_true', decide_eq_true_eq, decide_eq_false_iff_not]
  omega

/-- The lanes of a set for which `p` holds. -/
theorem getLsbD_unionOf_filter (l : Lanes) (p : Nat → Bool) {i : Nat} (hi : i < 96) :
    (unionOf (((lanesOf l).filter p).map laneBit)).getLsbD i = true ↔ l.getLsbD i = true ∧ p i = true := by
  simp only [getLsbD_unionOf, List.any_map, List.any_eq_true, Function.comp_apply, getLsbD_laneBit hi, decide_eq_true_eq,
    List.mem_filter, mem_lanesOf]
  constructor
  · rintro ⟨j, ⟨⟨-, hl⟩, hp⟩, rfl⟩
    exact ⟨hl, hp⟩
  · rintro ⟨hl, hp⟩
    exact ⟨i, ⟨⟨hi, hl⟩, hp⟩, rfl⟩

theorem beatOf_ne_zero_iff (l : Lanes) (j : Nat) : (beatOf l j != 0) = true ↔ ∃ i, i < 32 ∧ l.getLsbD (32 * j + i) = true := by
  rw [bne_iff_ne, ne_eq, BitVec.eq_of_getLsbD_eq_iff]
  simp [beatOf_getLsbD]

/-- A beat of a set that is not empty and for which `p` holds is a lane of the set for whose beat `p` holds. -/
theorem any_beat_iff (l : Lanes) (p : Nat → Bool) :
    ((List.range 3).any fun j => beatOf l j != 0 && p j) = true ↔ ∃ y, y < 96 ∧ l.getLsbD y = true ∧ p (y / 32) = true := by
  simp only [List.any_eq_true, List.mem_range, Bool.and_eq_true, beatOf_ne_zero_iff]
  constructor
  · rintro ⟨j, hj, ⟨i, hi, hl⟩, hp⟩
    exact ⟨32 * j + i, by omega, hl, by rwa [show (32 * j + i) / 32 = j by omega]⟩
  · rintro ⟨y, hy, hl, hp⟩
    exact ⟨y / 32, by omega, ⟨y % 32, by omega, by rwa [Nat.div_add_mod]⟩, hp⟩

theorem acting_none (s : State) : acting s 0 = active (me s) s.who.2 :=
  (congrArg (active (me s) s.who.2 &&& ·) BitVec.not_zero).trans BitVec.and_allOnes

theorem cellGet_pack {mask : Lanes} (v : Nat → Word) {i : Nat} (hi : i < 96) (hm : mask.getLsbD i = true) :
    cellGet (pack mask v) i = v i := by
  have h := cellGet_putLanes 0 v (lanesOf mask) [] 0 i hi fun x hx => ((mem_lanesOf mask x).1 hx).1
  rwa [Nat.mul_zero, Nat.zero_add, if_pos ⟨rfl, (mem_lanesOf mask i).2 ⟨hi, hm⟩⟩] at h

/-! ### Effects that may trap or wait -/

theorem laneDeath_none (s : State) (gid cause : Nat) : laneDeath s gid 0 cause = s := by simp [laneDeath]

section Shape
variable {s u : State} {i : Instr}

theorem exec_of_plainTry_stop {eff : State → Eff} (hr : ready s i = true) (hx : exec i s = .next (plainTry s i eff))
    (he : eff s = .stop u) : exec i s = .next u := by
  rw [hx, ready_plainTry hr, he]

theorem exec_of_plainTry_done {eff : State → Eff} (hr : ready s i = true) (hx : exec i s = .next (plainTry s i eff))
    (he : eff s = .done u) : exec i s = .next (advance u (lenOf i)) := by
  rw [hx, ready_plainTry hr, he]
  exact congrArg _ (laneDeath_none _ _ _)

variable {a b : Option Reg} {fa fb : Nat → Word} {bad : Lanes} {eff : State → Lanes → (Nat → Word) → (Nat → Word) → Eff}

theorem exec_of_laneTry_stop (hr : ready s i = true) (hs : sources s a b = .go fa fb bad)
    (hx : exec i s = .next (laneTry s i a b eff)) (he : eff s (acting s bad) fa fb = .stop u) : exec i s = .next u := by
  rw [hx, ready_laneTry hr hs, he]

theorem exec_of_laneTry_done {dead : Lanes} (hr : ready s i = true) (hs : sources s a b = .go fa fb bad)
    (hx : exec i s = .next (laneTry s i a b eff)) (he : eff s (acting s bad) fa fb = .done u dead) :
    exec i s = .next (laneDone s u i (bad ||| dead)) := by
  rw [hx, ready_laneTry hr hs, he, laneDone]

/-- Without a lane in Active(g) nothing is popped and no lane dies. -/
theorem laneDone_of_noLane (h : active (me s) s.who.2 = 0) : laneDone s u i bad = advance u (lenOf i) := if_pos h

/-- An instruction that pops nothing goes on, and its lanes die. -/
theorem laneDone_of_noPops (h : active (me s) s.who.2 ≠ 0) (hp : (usesOf i).pops = []) :
    laneDone s u i bad = laneDeath (advance u (lenOf i)) (advance u (lenOf i)).who.1 bad 2 := by
  rw [laneDone, takePops, if_neg h, hp, List.foldl_nil]

end Shape

theorem Uses.pops_dest (u : Uses) (d : Reg) : (u.dest d).pops = u.pops := by
  rw [Uses.dest]
  split <;> rfl

theorem onlyMine_updMe (s : State) (h : Group → Group) : OnlyMine s (updMe s h) := ⟨rfl, fun _ hid => grp_updMe_other s h hid⟩

/-- A vector result is in flight. -/
theorem mem_fly_flyV (s : State) (k : Nat) (mask : Lanes) (v : Nat → Word) (lat : Nat) :
    { due := nowOf s (me s) + lat, w := { isV := true, reg := k, mask := mask, vals := pack mask v, stream := s.who.2 } }
      ∈ (me (flyV s k mask v lat)).fly := by
  rw [flyV, me_updMe]
  exact List.mem_append_right _ (List.mem_singleton.2 rfl)

/-! ### Elements and poison marks of rows (R354, R360) -/

/-- A column lies in its row. -/
theorem accKey_inj {e q y e' q' y' : Nat} (hy : y < 64) (hy' : y' < 64) :
    accKey e q y = accKey e' q' y' ↔ 512 * e + q = 512 * e' + q' ∧ y = y' := by
  unfold accKey
  omega

/-- Cleared rows read as zero, and every other row as before. -/
theorem cellGet_putRows_nil (m : Cells 32) (eng row n e q : Nat) {y : Nat} (hy : y < 64) :
    cellGet (putRows m eng row n []) (accKey e q y)
      = if 512 * eng + row ≤ 512 * e + q ∧ 512 * e + q < 512 * eng + row + n then 0 else cellGet m (accKey e q y) := by
  have hbelow : accKey e q y < accKey eng row 0 ↔ 512 * e + q < 512 * eng + row := by unfold accKey; omega
  have habove : accKey eng (row + n) 0 ≤ accKey e q y ↔ 512 * eng + row + n ≤ 512 * e + q := by unfold accKey; omega
  rw [putRows, List.append_nil, cellGet, mapGetD, mapGet_append, mapGet_filter fun k => decide (k < accKey eng row 0),
    mapGet_filter fun k => decide (accKey eng (row + n) 0 ≤ k)]
  simp only [decide_eq_true_eq, hbelow, habove]
  by_cases hlow : 512 * e + q < 512 * eng + row
  · rw [if_pos hlow, if_neg (show ¬ (512 * eng + row ≤ 512 * e + q ∧ 512 * e + q < 512 * eng + row + n) by omega)]
    by_cases hhigh : 512 * eng + row + n ≤ 512 * e + q
    · omega
    · rw [if_neg hhigh, Option.or_none]
      rfl
  · by_cases hhigh : 512 * eng + row + n ≤ 512 * e + q
    · rw [if_neg hlow, if_pos hhigh, if_neg (by omega), Option.none_or]
      rfl
    · rw [if_neg hlow, if_neg hhigh, if_pos (by omega)]
      rfl

theorem mem_markRows_clear (ps : List Nat) (eng row n k : Nat) :
    k ∈ markRows ps eng row n false ↔ ¬ (512 * eng + row ≤ k ∧ k < 512 * eng + row + n) ∧ k ∈ ps := by
  induction n with
  | zero => simp [markRows]
  | succ n ih =>
    have hstep : markRows ps eng row (n + 1) false = without (markRows ps eng row n false) (512 * eng + row + n) := by
      simp [markRows, List.range_succ]
    rw [hstep, mem_without, ih, and_right_comm]
    exact and_congr_left fun _ => by omega

/-- The team's store with rows cleared and their poison marks gone (R365). -/
def zeroRows (k : Team) (eng row n : Nat) : Team :=
  { k with acc := putRows k.acc eng row n [], accPoison := markRows k.accPoison eng row n false }

theorem accGet_zeroRows (k : Team) (eng row n e q : Nat) {y : Nat} (hy : y < 64) :
    accGet (zeroRows k eng row n) e q y
      = if 512 * eng + row ≤ 512 * e + q ∧ 512 * e + q < 512 * eng + row + n then 0 else accGet k e q y :=
  cellGet_putRows_nil k.acc eng row n e q hy

theorem accBad_zeroRows (k : Team) (eng row n e q : Nat) :
    accBad (zeroRows k eng row n) e q = true
      ↔ ¬ (512 * eng + row ≤ 512 * e + q ∧ 512 * e + q < 512 * eng + row + n) ∧ accBad k e q = true := by
  simp only [accBad, has_iff_mem, zeroRows, mem_markRows_clear]

/-! ### The elements of the lanes (R366) -/

theorem laneCol_lt (t : Word) (i : Nat) : laneCol t i < 64 := by
  unfold laneCol
  split <;> omega

/-- No two lanes name one element. -/
theorem laneElement_inj {t : Word} {eng row i j : Nat}
    (h : accKey eng (laneRow row i) (laneCol t i) = accKey eng (laneRow row j) (laneCol t j)) : i = j := by
  obtain ⟨hrow, hcol⟩ := (accKey_inj (laneCol_lt t i) (laneCol_lt t j)).1 h
  unfold laneRow at hrow
  unfold laneCol at hcol
  omega

/-- The team's store with lane values in the elements that the lanes name. -/
def writeLanes (k : Team) (t : Word) (row : Nat) (lanes : Lanes) (v : Nat → Word) : Team :=
  { k with acc := (lanesOf lanes).foldl (fun m i => cellSet m (accKey (engOf t) (laneRow row i) (laneCol t i)) (v i)) k.acc }

section WriteLanes
variable (k : Team) {t : Word} {row : Nat} {lanes : Lanes} (v : Nat → Word)

theorem accGet_writeLanes_lane {y : Nat} (hy : y < 96) (hl : lanes.getLsbD y = true) :
    accGet (writeLanes k t row lanes v) (engOf t) (laneRow row y) (laneCol t y) = v y :=
  cellGet_foldl_cellSet_mem (fun i => accKey (engOf t) (laneRow row i) (laneCol t i)) v ((mem_lanesOf _ _).2 ⟨hy, hl⟩)
    (fun _ _ h => laneElement_inj h) k.acc

theorem accGet_writeLanes_other {e q m : Nat} (hm : m < 64)
    (h : ∀ y, y < 96 → lanes.getLsbD y = true → ¬ (512 * e + q = 512 * engOf t + laneRow row y ∧ m = laneCol t y)) :
    accGet (writeLanes k t row lanes v) e q m = accGet k e q m := by
  refine cellGet_foldl_cellSet_other (fun i => accKey (engOf t) (laneRow row i) (laneCol t i)) v (fun y hmem hkey => ?_) k.acc
  obtain ⟨hy, hl⟩ := (mem_lanesOf _ _).1 hmem
  exact h y hy hl ((accKey_inj hm (laneCol_lt t y)).1 hkey.symm)

end WriteLanes

/-! ### Windows and owners (R356, R359) -/

theorem inWindow_iff (s : State) (row n : Nat) :
    inWindow s row n = true ↔ (mapGetD (teamOf s (me s)).windows (me s).gix (0, 0)).1 ≤ row
      ∧ row + n ≤ (mapGetD (teamOf s (me s)).windows (me s).gix (0, 0)).2 ∧ row + n ≤ (teamOf s (me s)).accn := by
  simp [inWindow, and_assoc]

theorem ownedRows_iff (s : State) (eng row n : Nat) :
    ownedRows s eng row n = true ↔ ∃ o ∈ engQ (core s (coreOf s (me s))) eng, o.committed = false
      ∧ (grp s o.group).team = (me s).team ∧ o.row < row + n ∧ row < o.row + o.rows := by
  simp [ownedRows, rowsOwned, engQ, and_assoc]

/-! ### ACCZ (R365) -/

section Direct
variable {s : State} {f : Head} {t : Word} {fa fb : Nat → Word} {bad : Lanes}

theorem exec_accz_of_outside (hr : ready s (.accz f t) = true)
    (h : (sget s f.b).toNat = 0 ∨ 512 < (sget s f.b).toNat ∨ ¬ inWindow s (sget s f.a).toNat (sget s f.b).toNat = true) :
    exec (.accz f t) s = .next (trapC s .awin) :=
  exec_of_plainTry_stop hr rfl (if_pos (by simpa [or_assoc] using h))

section Inside
variable (hr : ready s (.accz f t) = true) (h0 : (sget s f.b).toNat ≠ 0) (hle : (sget s f.b).toNat ≤ 512)
  (hin : inWindow s (sget s f.a).toNat (sget s f.b).toNat = true)
include hr h0 hle hin

theorem exec_accz_of_owned (how : ownedRows s (engOf t) (sget s f.a).toNat (sget s f.b).toNat = true) :
    exec (.accz f t) s = .next (block s .retry) :=
  exec_of_plainTry_stop hr rfl ((if_neg (by simp [h0, hle, hin])).trans (if_pos how))

theorem exec_accz_of_free (how : ¬ ownedRows s (engOf t) (sget s f.a).toNat (sget s f.b).toNat = true) :
    exec (.accz f t) s
      = .next (advance (updTeam s (me s).team fun k => zeroRows k (engOf t) (sget s f.a).toNat (sget s f.b).toNat) 8) :=
  exec_of_plainTry_done hr rfl ((if_neg (by simp [h0, hle, hin])).trans (if_neg how))

end Inside

/-! ### ACCRD (R360, R366) -/

theorem exec_accrd_of_noLane (hr : ready s (.accrd f t) = true) (hact : active (me s) s.who.2 = 0) :
    exec (.accrd f t) s = .next (advance s 8) := by
  rw [exec_of_laneTry_done hr (sources_none s) rfl (if_pos ((acting_none s).trans hact)), laneDone_of_noLane hact]
  rfl

theorem exec_accrd_of_outside (hr : ready s (.accrd f t) = true) (hact : active (me s) s.who.2 ≠ 0)
    (hout : ¬ inWindow s (sget s f.a).toNat 3 = true) : exec (.accrd f t) s = .next (trapC s .awin) :=
  exec_of_laneTry_stop hr (sources_none s) rfl ((if_neg (by rwa [acting_none])).trans (if_pos (by simpa using hout)))

/-- The acting lanes whose row is poisoned. -/
def poisonedLanes (s : State) (t : Word) (row : Nat) : Lanes :=
  unionOf (((lanesOf (active (me s) s.who.2)).filter fun i => accBad (teamOf s (me s)) (engOf t) (laneRow row i)).map laneBit)

theorem getLsbD_poisonedLanes (s : State) (t : Word) (row : Nat) {y : Nat} (hy : y < 96) :
    (poisonedLanes s t row).getLsbD y = true
      ↔ (active (me s) s.who.2).getLsbD y = true ∧ accBad (teamOf s (me s)) (engOf t) (laneRow row y) = true :=
  getLsbD_unionOf_filter _ _ hy

/-- The state with the elements of the lanes in flight to vD. -/
def readLanes (s : State) (f : Head) (t : Word) : State :=
  flyV s f.d.toNat (active (me s) s.who.2 &&& ~~~ poisonedLanes s t (sget s f.a).toNat)
    (fun i => accGet (teamOf s (me s)) (engOf t) (laneRow (sget s f.a).toNat i) (laneCol t i)) 12

theorem onlyMine_readLanes (s : State) (f : Head) (t : Word) : OnlyMine s (readLanes s f t) := by
  rw [readLanes, flyV]
  exact onlyMine_updMe s _

theorem exec_accrd_of_inside (hr : ready s (.accrd f t) = true) (hact : active (me s) s.who.2 ≠ 0)
    (hin : inWindow s (sget s f.a).toNat 3 = true) :
    exec (.accrd f t) s
      = .next (laneDeath (advance (readLanes s f t) 8) s.who.1 (poisonedLanes s t (sget s f.a).toNat) 2) := by
  have hpops : (usesOf (.accrd f t)).pops = [] := Uses.pops_dest {} f.d
  have hnone (l : Lanes) : 0 ||| l = l := BitVec.zero_or
  rw [exec_of_laneTry_done hr (sources_none s) rfl ((if_neg (by rwa [acting_none])).trans (if_neg (by simp [hin]))),
    laneDone_of_noPops hact hpops, acting_none, hnone]
  rfl

/-! ### ACCWR (R359, R366) -/

theorem exec_accwr_of_noLane (hr : ready s (.accwr f t) = true) (hs : sources s none (some f.b) = .go fa fb bad)
    (hact : active (me s) s.who.2 = 0) : exec (.accwr f t) s = .next (advance s 8) := by
  rw [exec_of_laneTry_done hr hs rfl (if_pos hact), laneDone_of_noLane hact]
  rfl

theorem exec_accwr_of_outside (hr : ready s (.accwr f t) = true) (hs : sources s none (some f.b) = .go fa fb bad)
    (hact : active (me s) s.who.2 ≠ 0) (hout : ¬ inWindow s (sget s f.a).toNat 3 = true) :
    exec (.accwr f t) s = .next (trapC s .awin) :=
  exec_of_laneTry_stop hr hs rfl ((if_neg hact).trans (if_pos (by simpa using hout)))

/-- An acting lane names a row that an operation owns. -/
def writesOwned (s : State) (t : Word) (row : Nat) (lanes : Lanes) : Prop :=
  ∃ y, y < 96 ∧ lanes.getLsbD y = true ∧ ownedRows s (engOf t) (laneRow row y) 1 = true

theorem writesOwned_iff_any_beat (s : State) (t : Word) (row : Nat) (lanes : Lanes) :
    ((List.range 3).any fun j => beatOf lanes j != 0 && ownedRows s (engOf t) (row + j) 1) = true ↔ writesOwned s t row lanes :=
  any_beat_iff lanes fun j => ownedRows s (engOf t) (row + j) 1

theorem exec_accwr_of_owned (hr : ready s (.accwr f t) = true) (hs : sources s none (some f.b) = .go fa fb bad)
    (hact : active (me s) s.who.2 ≠ 0) (hin : inWindow s (sget s f.a).toNat 3 = true)
    (how : writesOwned s t (sget s f.a).toNat (acting s bad)) : exec (.accwr f t) s = .next (block s .retry) :=
  exec_of_laneTry_stop hr hs rfl (((if_neg hact).trans (if_neg (by simp [hin]))).trans (if_pos ((writesOwned_iff_any_beat _ _ _ _).2 how)))

theorem exec_accwr_of_free (hr : ready s (.accwr f t) = true) (hs : sources s none (some f.b) = .go fa fb bad)
    (hact : active (me s) s.who.2 ≠ 0) (hin : inWindow s (sget s f.a).toNat 3 = true)
    (how : ¬ writesOwned s t (sget s f.a).toNat (acting s bad)) :
    exec (.accwr f t) s = .next (laneDone s
      (updTeam s (me s).team fun k => writeLanes k t (sget s f.a).toNat (acting s bad) fb) (.accwr f t) bad) := by
  have hnone : bad ||| 0 = bad := BitVec.or_zero
  rw [exec_of_laneTry_done hr hs rfl
    (((if_neg hact).trans (if_neg (by simp [hin]))).trans (if_neg (mt (writesOwned_iff_any_beat _ _ _ _).1 how))), hnone]
  rfl

/-! ### AWSET (R369) -/

theorem exec_awset_of_notFirst (hr : ready s (.awset f t) = true) (hg : (me s).gix ≠ 0) :
    exec (.awset f t) s = .next (trapC s .priv) := exec_of_plainTry_stop hr rfl (if_pos hg)

/-- The window that AWSET names is none (R369). -/
def windowRefused (s : State) (f : Head) : Prop :=
  (launchOf s (me s)).kernel.team ≤ (sget s f.d).toNat ∨ (sget s f.b).toNat < (sget s f.a).toNat
    ∨ (teamOf s (me s)).accn < (sget s f.b).toNat

theorem exec_awset_of_refused (hr : ready s (.awset f t) = true) (hg : (me s).gix = 0) (h : windowRefused s f) :
    exec (.awset f t) s = .next (trapC s .awin) :=
  exec_of_plainTry_stop hr rfl ((if_neg (not_not.2 hg)).trans (if_pos (by simpa [windowRefused, or_assoc] using h)))

theorem exec_awset_of_allowed (hr : ready s (.awset f t) = true) (hg : (me s).gix = 0) (h : ¬ windowRefused s f) :
    exec (.awset f t) s = .next (advance (updTeam s (me s).team fun k =>
      { k with windows := mapPut k.windows (sget s f.d).toNat ((sget s f.a).toNat, (sget s f.b).toNat) }) 8) :=
  exec_of_plainTry_done hr rfl ((if_neg (not_not.2 hg)).trans (if_neg (by simpa [windowRefused, or_assoc] using h)))

end Direct

/-- Settles O44: each case of an instruction is the lemma above that says what it answers there, and what it answers reads as the
store with the rows cleared, the lanes written or the window set. -/
theorem accumulators : Obligations.Accumulators := by
  unfold Obligations.Accumulators
  intro f t s fa fb bad g c k eng row n d w inside owned act line col hurt z r x a
  have hinside : ∀ r n, inWindow s r n = true ↔ inside r n := inWindow_iff s
  have howned : ∀ r n, ownedRows s (engOf t) r n = true ↔ owned r n := ownedRows_iff s (engOf t)
  have hwaits : ∀ lanes, writesOwned s t row lanes ↔ ∃ y, y < 96 ∧ lanes.getLsbD y = true ∧ owned (row + y / 32) 1 := fun lanes =>
    exists_congr fun y => and_congr_right' (and_congr_right' (howned _ _))
  refine ⟨fun hr => ⟨fun hout => ?_, fun h0 hle hin how => ?_, fun h0 hle hin how => ?_⟩,
    fun hr => ⟨fun hact => ?_, fun hact hout => ?_, fun hact hin => ?_⟩,
    fun hr hs => ⟨fun hact => ?_, fun hact hout => ?_, fun hact hin how => ?_, fun hact hin how => ?_⟩,
    fun hr => ⟨fun hg => ?_, fun hg hout => ?_, fun hg hout => ?_⟩⟩
  · exact exec_accz_of_outside hr (hout.imp_right (Or.imp_right (mt (hinside _ _).1)))
  · exact exec_accz_of_owned hr h0 hle ((hinside _ _).2 hin) ((howned _ _).2 how)
  · refine ⟨_, exec_accz_of_free hr h0 hle ((hinside _ _).2 hin) (mt (howned _ _).1 how), rfl, fun e q y hy => ?_⟩
    rw [team_updTeam_same]
    exact ⟨accGet_zeroRows k eng row n e q hy, accBad_zeroRows k eng row n e q⟩
  · exact exec_accrd_of_noLane hr hact
  · exact exec_accrd_of_outside hr hact (mt (hinside _ _).1 hout)
  · exact ⟨readLanes s f t, poisonedLanes s t row, exec_accrd_of_inside hr hact ((hinside _ _).2 hin), onlyMine_readLanes s f t,
      fun y hy => getLsbD_poisonedLanes s t row hy, _, mem_fly_flyV s _ _ _ _, rfl, rfl, rfl, rfl,
      fun y hy hm => cellGet_pack _ hy hm⟩
  · exact exec_accwr_of_noLane hr hs hact
  · exact exec_accwr_of_outside hr hs hact (mt (hinside _ _).1 hout)
  · exact exec_accwr_of_owned hr hs hact ((hinside _ _).2 hin) ((hwaits _).2 how)
  · refine ⟨_, exec_accwr_of_free hr hs hact ((hinside _ _).2 hin) (mt (hwaits _).1 how), rfl, ?_⟩
    rw [team_updTeam_same]
    exact ⟨rfl, fun y hy hl => accGet_writeLanes_lane k fb hy hl, fun e q m hm h => accGet_writeLanes_other k fb hm h⟩
  · exact exec_awset_of_notFirst hr hg
  · exact exec_awset_of_refused hr hg hout
  · refine ⟨_, exec_awset_of_allowed hr hg hout, rfl, fun m => ?_⟩
    rw [team_updTeam_same, mapGetD_mapPut]
    exact if_congr eq_comm rfl rfl

end Sys2Proof.Machine
end
